-- ==== Sys2Proof/Word.lean ====
section
/-! DEFINITION. The words the spec treats as bits: the byte of a frame or of the sound store, and the 32-bit
counters that wrap (the time base, R81; the arrival counters, R82; the brick tag, R168). -/

namespace Sys2Proof

/-- One byte of a frame (11.1) or of the sound store (07). -/
abbrev Byte := BitVec 8

/-- A 32-bit number that wraps: the time base (R81), an arrival number (R82), the brick tag (R168). -/
abbrev Word32 := BitVec 32

end Sys2Proof
end

