-- ==== Sys2Proof/Config.lean ====
section
/-! DEFINITION. What the spec leaves open, as constants with no body: no proof can see their values. -/

namespace Sys2Proof

/-- FREE VALUE (log entry 21). In RUN the counts toward ECONOMY and toward CRITICAL can reach 100 and 20 at the
same supply update; "one update never takes two transitions" (R161) and the spec does not say which is taken:
true when it is the one to CRITICAL. -/
opaque Config.tieGoesToCritical : Bool

/-- FREE VALUE (log entry 22). The bytes accepted of the upload window (07 7.4) and the values written by a
capture (05 5.6) range over 0 to 4,294,967,295; the spec does not say what a count does that would pass the end.
`countPast n k` is the count after `k` more than `n` in that case. -/
opaque Config.countPast : Nat → Nat → Nat

/-- FREE VALUE (log entry 47). MOTOR SPEED is the change of the encoder count between two scans times 100 (06 6.2), and
a value of an entry is a signed 32-bit number; the spec gives no value for a change whose product is none.
`speedPast d` is the value for such a change. -/
opaque Config.speedPast : Int → Int

/-- FREE VALUE (log entry 60). The battery measurement in mV that the part takes when its own RESET_TIMEOUT (R167)
fills the history (R160); the measurement comes from outside the part. `batteryAt t` is the one taken at time base
`t`. -/
opaque Config.batteryAt : Nat → Nat

end Sys2Proof
end

