-- ==== Sys2Proof/Syntax.lean ====
section
/-! DEFINITION. The commands of the part: one constructor of `Instr` for each row of spec/opcode_table.json, and
the types of their operands. -/

namespace Sys2Proof

/-- The two message links (00, Conventions). -/
inductive Link | primary | remote
  deriving DecidableEq, Repr

/-- The class of a frame (R172): ASK 0, TELL 1, REPLY 2, NOTICE 3. -/
inductive FrameClass | ask | tell | reply | notice
  deriving DecidableEq, Repr

/-- The class of a request: a frame of class ASK or TELL (R172). -/
inductive ReqClass | ask | tell
  deriving DecidableEq, Repr

/-- A frame as the router sees it (11.1): class, channel, tag and payload. -/
structure Frame where
  cls : FrameClass
  channel : Byte
  tag : Byte
  payload : List Byte
  deriving DecidableEq, Repr

/-- A request frame found complete by a link's receiver, less its channel, which the row gives (11.5). -/
structure Req where
  link : Link
  cls : ReqClass
  tag : Byte
  payload : List Byte
  deriving DecidableEq, Repr

/-- The six motor ports (00, Names). -/
inductive MotorPort | a | b | c | d | e | f
  deriving DecidableEq, Repr

/-- Numbers 1 to 4: voices (08). -/
inductive Num4 | n1 | n2 | n3 | n4
  deriving DecidableEq, Repr

/-- Numbers 1 to 8: sensor ports (04), stream ids (05 5.3), virtual inputs (06). -/
inductive Num8 | n1 | n2 | n3 | n4 | n5 | n6 | n7 | n8
  deriving DecidableEq, Repr

/-- Numbers 1 to 16: watch entries (06 6.1). -/
inductive Num16
  | n1 | n2 | n3 | n4 | n5 | n6 | n7 | n8 | n9 | n10 | n11 | n12 | n13 | n14 | n15 | n16
  deriving DecidableEq, Repr

abbrev SensorPort := Num8
abbrev StreamId := Num8
abbrev VirtualId := Num8
abbrev VoiceId := Num4
abbrev WatchId := Num16

/-- The two sensor banks (04): L feeds ports 1 to 4, R feeds ports 5 to 8. -/
inductive BankId | l | r
  deriving DecidableEq, Repr

/-- One value for each motor port. -/
structure Six (α : Type) where
  a : α
  b : α
  c : α
  d : α
  e : α
  f : α
  deriving DecidableEq, Repr

/-- One value for each of four numbers. -/
structure Four (α : Type) where
  n1 : α
  n2 : α
  n3 : α
  n4 : α
  deriving DecidableEq, Repr

/-- One value for each of eight numbers. -/
structure Eight (α : Type) where
  n1 : α
  n2 : α
  n3 : α
  n4 : α
  n5 : α
  n6 : α
  n7 : α
  n8 : α
  deriving DecidableEq, Repr

/-- One value for each of sixteen numbers. -/
structure Sixteen (α : Type) where
  n1 : α
  n2 : α
  n3 : α
  n4 : α
  n5 : α
  n6 : α
  n7 : α
  n8 : α
  n9 : α
  n10 : α
  n11 : α
  n12 : α
  n13 : α
  n14 : α
  n15 : α
  n16 : α
  deriving DecidableEq, Repr

/-- What a control expiry reads at one motor port (R25 item 1): the encoder counts since the reading before, and
the measured current in mA. -/
structure MotorReading where
  delta : Int
  current : Int
  deriving DecidableEq, Repr

/-- The classes of a motor port's ID line (R1). -/
inductive MotorIdClass | openLine | small | large
  deriving DecidableEq, Repr

/-- The classes of a sensor port's ID line (04 4.3). -/
inductive IdClass | openLine | short | band1 | band2 | band3 | band4 | serial
  deriving DecidableEq, Repr

/-- The value formats of a mode (04 4.5). -/
inductive ValueFormat | int8 | int16 | int32
  deriving DecidableEq, Repr

/-- One mode as a MODE record gives it (04 4.5). -/
structure ModeDesc where
  number : Nat
  valueCount : Nat
  format : ValueFormat
  min : Int
  max : Int
  interval : Nat
  deriving DecidableEq, Repr

/-- The commands. Requests carry their frame; events carry what the part reads at them. -/
inductive Instr
  -- the requests of the catalogue (11.5)
  | ident (r : Req)
  | setTag (r : Req)
  | reset (r : Req)
  | sleep (r : Req)
  | pause (r : Req)
  | resume (r : Req)
  | stepSegment (r : Req)
  | powerStatus (r : Req)
  | setBudget (r : Req)
  | claim (r : Req)
  | release (r : Req)
  | queueSegment (r : Req)
  | flush (r : Req)
  | setGains (r : Req)
  | setPolicy (r : Req)
  | zeroCount (r : Req)
  | motorStatus (r : Req)
  | clearFault (r : Req)
  | stopNow (r : Req)
  | sensorStatus (r : Req)
  | selectMode (r : Req)
  | readSamples (r : Req)
  | streamOpen (r : Req)
  | streamClose (r : Req)
  | captureStart (r : Req)
  | captureStop (r : Req)
  | bankRestore (r : Req)
  | watchSet (r : Req)
  | watchClear (r : Req)
  | watchRearm (r : Req)
  | watchStatus (r : Req)
  | setVirtual (r : Req)
  | watchEnable (r : Req)
  | defineRegion (r : Req)
  | deleteRegion (r : Req)
  | setClip (r : Req)
  | writeStart (r : Req)
  | writeData (r : Req)
  | writeEnd (r : Req)
  | readRegion (r : Req)
  | compact (r : Req)
  | play (r : Req)
  | playTone (r : Req)
  | releaseVoice (r : Req)
  | stopVoice (r : Req)
  | setVolume (r : Req)
  | setLoopStart (r : Req)
  | soundStatus (r : Req)
  | setWindow (r : Req)
  | setForward (r : Req)
  | routeStatus (r : Req)
  | remotePolicy (r : Req)
  -- frames that are not requests of the catalogue (R144, R146, R147, R152, R153, R172)
  | forwardFrame (l : Link) (f : Frame)
  | forwardedReply (l : Link) (channel tag : Byte) (payload : List Byte)
  | inboundNotice (l : Link) (channel tag : Byte) (payload : List Byte)
  | systemFrameDenied (c : ReqClass) (channel tag : Byte) (payload : List Byte)
  | unknownChannel (l : Link) (c : ReqClass) (channel tag : Byte) (payload : List Byte)
  | readyLowDrop (l : Link) (f : Frame)
  -- the receivers (R170), with the bytes received
  | checkMismatch (l : Link) (bytes : List Byte)
  | receiverTimeout (l : Link)
  -- the router (09)
  | transmitFrame (l : Link) (farReady : Bool)
  | forwardAgeLimit (l : Link)
  | forwardWaitExpiry (origin : Link)
  | linkedRise
  | linkedFall
  | remoteBreak
  | linkReset
  -- resets and power (10), with the battery measurement in mV taken at a reset (R160)
  | wake (mv : Nat)
  | powerOn (mv : Nat) (linked : Bool)
  | softReset (mv : Nat)
  | resetTimeout (mv : Nat)
  | sleepEntry
  | sleepTimeout
  | identNoticeDue
  | bankRPowerUp
  -- the motor controller (01 to 03)
  | controlExpiry (r : Six MotorReading)
  | durationEnd (p : MotorPort)
  | segmentSettled (p : MotorPort)
  | settleLimitReached (p : MotorPort)
  | stall (p : MotorPort)
  | overcurrentFault (p : MotorPort)
  | motorIdSample (c : Six MotorIdClass)
  -- the sensor controller (04, 05)
  | bankCurrentMeasure (b : BankId) (mA : Nat)
  | bankTrip (b : BankId)
  | retryEnd (b : BankId)
  | cleanTimeReached (b : BankId)
  | portIdMeasure (p : SensorPort) (c : IdClass)
  | passiveSample (p : SensorPort) (v : Int)
  | describeRecord (p : SensorPort) (kind modeCount speed : Nat)
  | modeRecord (p : SensorPort) (m : ModeDesc)
  | endRecord (p : SensorPort)
  | acceptSent (p : SensorPort)
  | handshakeTimeout (p : SensorPort)
  | dataRecord (p : SensorPort) (mode : Nat) (values : List Int)
  | silenceTimeout (p : SensorPort)
  | errorTimeEnd (p : SensorPort)
  | streamExpiry (i : StreamId)
  -- the watch unit (06)
  | watchScan
  | watchFire (i : WatchId) (v : Int)
  -- the sound store and the mixer (07, 08)
  | compactRegionCopied
  | compactComplete
  | outputEvent
  | toneEnd (v : VoiceId)
  | volumeRampStep
  -- the supply monitor (10)
  | supplyUpdate (mv : Nat)
  | powerStateChange
  -- further receiver and record events (R170, R71)
  | badStopBit (l : Link) (bytes : List Byte)
  | headerFieldOutOfRange (l : Link) (bytes : List Byte)
  | malformedRecord (p : SensorPort)
  deriving DecidableEq, Repr

end Sys2Proof
end

