-- ==== Sys2Proof/Decode.lean ====
section
/-! DEFINITION. spec/opcode_table.json gives none of its rows any bits ("fields" and "fixed" are empty for all
109), so no word spells a command. -/

namespace Sys2Proof

/-- The command a word spells by the table's bits: none, since the table gives no row bits. -/
def decodeTableWord (_nbits _w : Nat) : Option Instr := none

end Sys2Proof
end

