-- ==== Sys2Proof/Machine/Tables.lean ====
section
/-! DEFINITION. Reading and writing one entry of a table of fixed size, and the orders in which the spec walks
such tables (ports A to F, R45; ascending port, voice and entry numbers, R63, R98, R142). -/

namespace Sys2Proof

/-- Ports A to F in order. -/
def MotorPort.all : List MotorPort := [.a, .b, .c, .d, .e, .f]

def Num4.all : List Num4 := [.n1, .n2, .n3, .n4]

def Num8.all : List Num8 := [.n1, .n2, .n3, .n4, .n5, .n6, .n7, .n8]

def Num16.all : List Num16 :=
  [.n1, .n2, .n3, .n4, .n5, .n6, .n7, .n8, .n9, .n10, .n11, .n12, .n13, .n14, .n15, .n16]

/-- The code of a motor port in a payload: A to F are 0 to 5 (R173). -/
def MotorPort.code : MotorPort → Nat
  | .a => 0 | .b => 1 | .c => 2 | .d => 3 | .e => 4 | .f => 5

def MotorPort.ofCode : Nat → Option MotorPort
  | 0 => some .a | 1 => some .b | 2 => some .c | 3 => some .d | 4 => some .e | 5 => some .f | _ => none

def Num4.num : Num4 → Nat
  | .n1 => 1 | .n2 => 2 | .n3 => 3 | .n4 => 4

def Num4.ofNum : Nat → Option Num4
  | 1 => some .n1 | 2 => some .n2 | 3 => some .n3 | 4 => some .n4 | _ => none

def Num8.num : Num8 → Nat
  | .n1 => 1 | .n2 => 2 | .n3 => 3 | .n4 => 4 | .n5 => 5 | .n6 => 6 | .n7 => 7 | .n8 => 8

def Num8.ofNum : Nat → Option Num8
  | 1 => some .n1 | 2 => some .n2 | 3 => some .n3 | 4 => some .n4
  | 5 => some .n5 | 6 => some .n6 | 7 => some .n7 | 8 => some .n8 | _ => none

def Num16.num : Num16 → Nat
  | .n1 => 1 | .n2 => 2 | .n3 => 3 | .n4 => 4 | .n5 => 5 | .n6 => 6 | .n7 => 7 | .n8 => 8
  | .n9 => 9 | .n10 => 10 | .n11 => 11 | .n12 => 12 | .n13 => 13 | .n14 => 14 | .n15 => 15 | .n16 => 16

def Num16.ofNum : Nat → Option Num16
  | 1 => some .n1 | 2 => some .n2 | 3 => some .n3 | 4 => some .n4
  | 5 => some .n5 | 6 => some .n6 | 7 => some .n7 | 8 => some .n8
  | 9 => some .n9 | 10 => some .n10 | 11 => some .n11 | 12 => some .n12
  | 13 => some .n13 | 14 => some .n14 | 15 => some .n15 | 16 => some .n16 | _ => none

/-- The bank that feeds a sensor port: L ports 1 to 4, R ports 5 to 8 (04). -/
def bankOf : SensorPort → BankId
  | .n1 => .l | .n2 => .l | .n3 => .l | .n4 => .l
  | .n5 => .r | .n6 => .r | .n7 => .r | .n8 => .r

/-- The ports of a bank in ascending order. -/
def BankId.ports : BankId → List SensorPort
  | .l => [.n1, .n2, .n3, .n4]
  | .r => [.n5, .n6, .n7, .n8]

/-- The link at the other end of the part. -/
def Link.other : Link → Link
  | .primary => .remote
  | .remote => .primary

def Six.get {α : Type} (t : Six α) : MotorPort → α
  | .a => t.a | .b => t.b | .c => t.c | .d => t.d | .e => t.e | .f => t.f

def Six.set {α : Type} (t : Six α) (p : MotorPort) (v : α) : Six α :=
  match p with
  | .a => { t with a := v }
  | .b => { t with b := v }
  | .c => { t with c := v }
  | .d => { t with d := v }
  | .e => { t with e := v }
  | .f => { t with f := v }

/-- The table whose entry for each port is given. -/
def Six.ofFn {α : Type} (g : MotorPort → α) : Six α :=
  { a := g .a, b := g .b, c := g .c, d := g .d, e := g .e, f := g .f }

def Six.map {α β : Type} (g : α → β) (t : Six α) : Six β := Six.ofFn (fun p => g (t.get p))

def Six.fill {α : Type} (v : α) : Six α := Six.ofFn (fun _ => v)

def Four.get {α : Type} (t : Four α) : Num4 → α
  | .n1 => t.n1 | .n2 => t.n2 | .n3 => t.n3 | .n4 => t.n4

def Four.set {α : Type} (t : Four α) (i : Num4) (v : α) : Four α :=
  match i with
  | .n1 => { t with n1 := v }
  | .n2 => { t with n2 := v }
  | .n3 => { t with n3 := v }
  | .n4 => { t with n4 := v }

def Four.ofFn {α : Type} (g : Num4 → α) : Four α := { n1 := g .n1, n2 := g .n2, n3 := g .n3, n4 := g .n4 }

def Four.map {α β : Type} (g : α → β) (t : Four α) : Four β := Four.ofFn (fun i => g (t.get i))

def Four.fill {α : Type} (v : α) : Four α := Four.ofFn (fun _ => v)

def Eight.get {α : Type} (t : Eight α) : Num8 → α
  | .n1 => t.n1 | .n2 => t.n2 | .n3 => t.n3 | .n4 => t.n4
  | .n5 => t.n5 | .n6 => t.n6 | .n7 => t.n7 | .n8 => t.n8

def Eight.set {α : Type} (t : Eight α) (i : Num8) (v : α) : Eight α :=
  match i with
  | .n1 => { t with n1 := v }
  | .n2 => { t with n2 := v }
  | .n3 => { t with n3 := v }
  | .n4 => { t with n4 := v }
  | .n5 => { t with n5 := v }
  | .n6 => { t with n6 := v }
  | .n7 => { t with n7 := v }
  | .n8 => { t with n8 := v }

def Eight.ofFn {α : Type} (g : Num8 → α) : Eight α :=
  { n1 := g .n1, n2 := g .n2, n3 := g .n3, n4 := g .n4, n5 := g .n5, n6 := g .n6, n7 := g .n7, n8 := g .n8 }

def Eight.map {α β : Type} (g : α → β) (t : Eight α) : Eight β := Eight.ofFn (fun i => g (t.get i))

def Eight.fill {α : Type} (v : α) : Eight α := Eight.ofFn (fun _ => v)

def Sixteen.get {α : Type} (t : Sixteen α) : Num16 → α
  | .n1 => t.n1 | .n2 => t.n2 | .n3 => t.n3 | .n4 => t.n4
  | .n5 => t.n5 | .n6 => t.n6 | .n7 => t.n7 | .n8 => t.n8
  | .n9 => t.n9 | .n10 => t.n10 | .n11 => t.n11 | .n12 => t.n12
  | .n13 => t.n13 | .n14 => t.n14 | .n15 => t.n15 | .n16 => t.n16

def Sixteen.set {α : Type} (t : Sixteen α) (i : Num16) (v : α) : Sixteen α :=
  match i with
  | .n1 => { t with n1 := v }
  | .n2 => { t with n2 := v }
  | .n3 => { t with n3 := v }
  | .n4 => { t with n4 := v }
  | .n5 => { t with n5 := v }
  | .n6 => { t with n6 := v }
  | .n7 => { t with n7 := v }
  | .n8 => { t with n8 := v }
  | .n9 => { t with n9 := v }
  | .n10 => { t with n10 := v }
  | .n11 => { t with n11 := v }
  | .n12 => { t with n12 := v }
  | .n13 => { t with n13 := v }
  | .n14 => { t with n14 := v }
  | .n15 => { t with n15 := v }
  | .n16 => { t with n16 := v }

def Sixteen.ofFn {α : Type} (g : Num16 → α) : Sixteen α :=
  { n1 := g .n1, n2 := g .n2, n3 := g .n3, n4 := g .n4, n5 := g .n5, n6 := g .n6, n7 := g .n7, n8 := g .n8,
    n9 := g .n9, n10 := g .n10, n11 := g .n11, n12 := g .n12, n13 := g .n13, n14 := g .n14, n15 := g .n15,
    n16 := g .n16 }

def Sixteen.map {α β : Type} (g : α → β) (t : Sixteen α) : Sixteen β := Sixteen.ofFn (fun i => g (t.get i))

def Sixteen.fill {α : Type} (v : α) : Sixteen α := Sixteen.ofFn (fun _ => v)

end Sys2Proof
end

