-- ==== Sys2Proof/Machine/State.lean ====
section
/-! DEFINITION. The state of the part, as plain data: every record, table, queue, counter, flag and line the spec
gives its eight blocks, and the queue of waiting commands. `State.reset` is the part right after POWER_ON. -/

namespace Sys2Proof.Machine

/-! ### Motor controller (01, 02, 03) -/

/-- 01 1.1. -/
inductive MotorKind | none | small | large
  deriving DecidableEq, Repr

/-- Rest actions and end actions (01 1.1). -/
inductive Rest | coast | brake | hold
  deriving DecidableEq, Repr

/-- 01 1.2. -/
inductive ChState | off | idle | running | settling | syncWait | held | fault
  deriving DecidableEq, Repr

/-- Profile phases (01 1.1). -/
inductive Phase | accel | cruise | decel | reverse | creep | done | stopping | holding
  deriving DecidableEq, Repr

/-- 01 1.3. -/
inductive SegKind | duty | speed | moveTo | moveBy | stop
  deriving DecidableEq, Repr

/-- 01 1.1; used in 03. -/
inductive HoldPolicy | free | segmentEnd | queueEnd | immediate
  deriving DecidableEq, Repr

/-- 03 3.1. -/
inductive StepMark | none | pending | active
  deriving DecidableEq, Repr

/-- 03 3.1: the state a HELD channel returns to on RESUME. -/
inductive Resume | idle | syncWait | running | settling
  deriving DecidableEq, Repr

/-- 03 3.8. -/
inductive PauseState | running | pausing | paused
  deriving DecidableEq, Repr

/-- The windings' drive condition (R26, R41). -/
inductive Drive | off | shorted | driven
  deriving DecidableEq, Repr

/-- The fault cause (01 1.1): OVERCURRENT is the only one; absent is `none` of the Option. -/
inductive FaultCause | overcurrent
  deriving DecidableEq, Repr

/-- A segment record (01 1.3). For a MOVE_BY `target` is 0 until it becomes current and R4 computes it. Fields
that do not apply to the kind hold the table's defaults, or 0. -/
structure Segment where
  kind : SegKind
  duty : Int
  duration : Nat
  cruise : Int
  accel : Nat
  decel : Nat
  target : Int
  distance : Int
  tolerance : Nat
  settleCount : Nat
  settleLimit : Nat
  endAction : Rest
  syncTag : Nat
  members : List MotorPort
  notify : Bool
  reqTag : Nat
  origin : Link
  deriving DecidableEq, Repr

/-- The gains of a channel (01 1.1). -/
structure Gains where
  kp : Nat
  ki : Nat
  kf : Nat
  iLimit : Nat
  deriving DecidableEq, Repr

/-- A channel record (01 1.1, 03 3.1). `q` and `spd` are the profile position and speed q and S, `integ` is I,
`uc` is u_c, `enc` is the encoder count E. The last group is state the spec implies: the stopping rate of R34 and
the deceleration it takes for a STOP or a wait, the steps of R33, the first-step mark of R31, the previous
ID-line class of R1. -/
structure Channel where
  kind : MotorKind
  holder : Option Link
  state : ChState
  rest : Rest
  queue : List Segment
  current : Option Segment
  lastTarget : Option Int
  q : Int
  spd : Int
  phase : Phase
  integ : Int
  uc : Int
  sat : Bool
  enc : Int
  mA : Int
  applied : Int
  drive : Drive
  gains : Gains
  policy : HoldPolicy
  stallTime : Nat
  fault : Option FaultCause
  lostLink : Bool
  settleTime : Nat
  inTol : Nat
  short : Bool
  stallTimer : Nat
  starved : Bool
  overCount : Nat
  prevEnc : Int
  resume : Option Resume
  heldAction : Option Rest
  allowance : Nat
  stepMark : StepMark
  stopRate : Nat
  decelBefore : Option Nat
  steps : Nat
  firstStep : Bool
  idLast : Option MotorIdClass
  deriving DecidableEq, Repr

/-- An open sync group: a tag 1 to 7 and a member set, ports in the order A to F (R50). -/
structure Group where
  tag : Nat
  members : List MotorPort
  deriving DecidableEq, Repr

/-- The motor controller. -/
structure Motors where
  ch : Six Channel
  pause : PauseState
  groups : List Group
  deriving DecidableEq, Repr

/-! ### Sensor controller (04, 05) -/

/-- 04 4.1. -/
inductive BankState | on | tripped | locked | off
  deriving DecidableEq, Repr

/-- A bank's supply record (04 4.1). -/
structure Bank where
  state : BankState
  trips : Nat
  overTime : Nat
  retry : Nat
  clean : Nat
  deriving DecidableEq, Repr

/-- 04 4.2. -/
inductive PortState | empty | probing | handshake | ready | switching | error | unpowered
  deriving DecidableEq, Repr

/-- 04 4.2. -/
inductive ErrorReason | short | noHandshake | silent
  deriving DecidableEq, Repr

/-- The description of an attached device (04 4.4, 4.5); `speed` is the preferred speed of a smart device. -/
structure Descriptor where
  kind : Nat
  speed : Option Nat
  modes : List ModeDesc
  deriving DecidableEq, Repr

/-- A description under way (R71). -/
structure PendingDesc where
  kind : Nat
  count : Nat
  speed : Nat
  modes : List ModeDesc
  deriving DecidableEq, Repr

/-- Where an attempt stands (R71, R73): waiting for DESCRIBE, collecting modes and END, or sending ACCEPT. -/
inductive HandshakeStage | describe | modes | accepting
  deriving DecidableEq, Repr

/-- The handshake record (04 4.2). -/
structure Handshake where
  stage : HandshakeStage
  pending : Option PendingDesc
  attempts : Nat
  wait : Nat
  deriving DecidableEq, Repr

/-- A sample (05 5.2). -/
structure Sample where
  time : Word32
  mode : Nat
  values : List Int
  arrival : Word32
  deriving DecidableEq, Repr

/-- A record the part sends to a smart device (04 4.5). -/
inductive PartRecord | accept | select (mode : Nat)
  deriving DecidableEq, Repr

/-- A sensor port record (04 4.2), with the arrival counter of R82. `departing` is the first reading of a
departure pair (R69); `lineSpeed` the speed of the serial line (R71, R73); `lastSent` the record the part sent
last on it. The ring runs from the oldest sample to the newest. -/
structure Port where
  state : PortState
  reason : Option ErrorReason
  cls : Option IdClass
  candidate : Option IdClass
  departing : Option IdClass
  desc : Option Descriptor
  mode : Nat
  hs : Option Handshake
  silence : Nat
  errTime : Nat
  ring : List Sample
  arrival : Word32
  lineSpeed : Nat
  lastSent : Option PartRecord
  deriving DecidableEq, Repr

/-- A stream record (05 5.3): the port set with its marks, in ascending port order. -/
structure Stream where
  opener : Link
  dest : Link
  interval : Nat
  burst : Nat
  next : Word32
  marks : List (SensorPort × Word32)
  deriving DecidableEq, Repr

/-- 05 5.6. -/
inductive EndMode | stop | wrap
  deriving DecidableEq, Repr

/-- A capture record (05 5.6). -/
structure Capture where
  port : SensorPort
  region : Nat
  index : Nat
  decim : Nat
  endMode : EndMode
  starter : Link
  count : Nat
  offset : Nat
  written : Nat
  wrapped : Bool
  deriving DecidableEq, Repr

/-- The sensor controller. `bankRWait` counts the ms since the reset after which bank R is powered up (R66). -/
structure Sensors where
  bankL : Bank
  bankR : Bank
  bankRWait : Option Nat
  ports : Eight Port
  streams : Eight (Option Stream)
  captures : List Capture
  time : Word32
  deriving DecidableEq, Repr

/-! ### Watch unit (06) -/

/-- Motor quantities a watch entry can take (06 6.1). -/
inductive Quantity | position | speed | current | stall
  deriving DecidableEq, Repr

/-- 06 6.1. -/
inductive Source
  | sensor (p : SensorPort) (mode idx : Nat)
  | motor (p : MotorPort) (q : Quantity)
  | virt (i : VirtualId)
  | cue (region : Nat)
  | battery
  deriving DecidableEq, Repr

/-- 06 6.1. -/
inductive Comparison
  | above (t : Int)
  | below (t : Int)
  | inside (lo hi : Int)
  | outside (lo hi : Int)
  | equal (t : Int)
  | change
  deriving DecidableEq, Repr

/-- 06 6.4. -/
inductive Action
  | brake (ports : List MotorPort)
  | coast (ports : List MotorPort)
  | play (region volume priority : Nat)
  | stopVoices
  | setVirtual (i : VirtualId) (v : Nat)
  | notify (l : Link) (code : Nat)
  deriving DecidableEq, Repr

/-- 06 6.1. -/
inductive Rearm | once | edge
  deriving DecidableEq, Repr

/-- 06 6.1. -/
inductive DisabledReason | byRequest | loop
  deriving DecidableEq, Repr

/-- The state of an entry that is not EMPTY (06 6.1), with the reason DISABLED carries. -/
inductive WatchState | active | dormant | fired | disabled (r : DisabledReason)
  deriving DecidableEq, Repr

/-- A watch entry that is not EMPTY (06 6.1). -/
structure Watch where
  state : WatchState
  owner : Link
  source : Source
  cmp : Comparison
  hyst : Nat
  debounce : Nat
  rearm : Rearm
  actions : List Action
  notify : Option Link
  cond : Bool
  trueCount : Nat
  latch : Bool
  last : Option Int
  fires : Nat
  deriving DecidableEq, Repr

/-- The watch unit: entries (`none` is EMPTY), V1 to V8, and the encoder counts of the previous scan (R100). -/
structure WatchUnit where
  entries : Sixteen (Option Watch)
  virt : Eight Int
  scanEnc : Six Int
  deriving DecidableEq, Repr

/-! ### Sound store (07) -/

/-- 07 7.1. -/
inductive RegionKind | clip | capture
  deriving DecidableEq, Repr

/-- A clip layout (07 7.3). -/
structure Layout where
  rate : Nat
  head : Nat
  loop : Nat
  tail : Nat
  loopStart : Nat
  cue : Option Nat
  reverse : Bool
  deriving DecidableEq, Repr

/-- A region (07 7.1); `ready` is state READY, else OPEN. The extent is computed from the length. -/
structure Region where
  id : Nat
  kind : RegionKind
  base : Nat
  length : Nat
  ready : Bool
  fill : Nat
  layout : Option Layout
  deriving DecidableEq, Repr

/-- 07 7.4. -/
inductive WriteMode | truncate | wrap
  deriving DecidableEq, Repr

/-- The open upload window (07 7.4). -/
structure Window where
  region : Nat
  owner : Link
  mode : WriteMode
  cursor : Nat
  accepted : Nat
  deriving DecidableEq, Repr

/-- One region still to be moved by a compaction: its new base, and the ms after COMPACT at which its copy
completes (R124). -/
structure RegionMove where
  region : Nat
  base : Nat
  due : Nat
  deriving DecidableEq, Repr

/-- A running compaction (R124, R125): the moves still to make in table order, the ms at which it ends, the ms it
has run, how many regions move, the ASK to answer, and whether a SOFT reset stops it at the next copy. -/
structure Compaction where
  plan : List RegionMove
  due : Nat
  elapsed : Nat
  moved : Nat
  asker : Option (Link × Byte)
  soft : Bool
  deriving DecidableEq, Repr

/-- The sound store. `mem` is the store's bytes: addresses strictly rising, no byte 0 listed. -/
structure Store where
  regions : List Region
  mem : List Host.Cell
  window : Option Window
  compaction : Option Compaction
  deriving DecidableEq, Repr

/-! ### Mixer (08) -/

/-- 08 8.1. -/
inductive VoiceState | free | head | loop | tail | tone | frozen
  deriving DecidableEq, Repr

/-- 08 8.1. -/
inductive Origin | primary | remote | localUnit
  deriving DecidableEq, Repr

/-- 08 8.1: what a voice plays. -/
inductive VoiceSource | region (id : Nat) | tone (freq : Nat)
  deriving DecidableEq, Repr

/-- A voice record (08 8.1). `pos` and `step` are in units of 1/65,536 sample. `covered` and `pathMark` are the
path of R135: index ranges passed since the last read by a wrap, and where the final run begins. -/
structure Voice where
  state : VoiceState
  prior : Option VoiceState
  source : Option VoiceSource
  pos : Nat
  step : Nat
  tonePhase : Nat
  left : Nat
  volume : Nat
  priority : Nat
  loopCount : Nat
  passes : Nat
  loopCopy : Nat
  release : Bool
  order : Nat
  origin : Origin
  free : Bool
  notify : Bool
  covered : List (Nat × Nat)
  pathMark : Nat
  deriving DecidableEq, Repr

/-- The mixer (08 8.1), with the last output value of R138. -/
structure Mixer where
  voices : Four Voice
  volume : Nat
  target : Nat
  ramping : Bool
  rampTimer : Nat
  clipped : Bool
  amp : Bool
  startCounter : Nat
  output : Int
  deriving DecidableEq, Repr

/-! ### Router and receivers (09, 11) -/

/-- 11.2, R170. -/
inductive RxPhase | hunt | header | payload | check
  deriving DecidableEq, Repr

/-- A receiver: its state, the bytes of the frame under way after the start marker, and the ms since the last
byte (R170). -/
structure Receiver where
  phase : RxPhase
  kept : List Byte
  idle : Nat
  deriving DecidableEq, Repr

/-- An entry of a forward queue: the frame and its time of entry (09 9.1). -/
structure Forward where
  frame : Frame
  entered : Word32
  deriving DecidableEq, Repr

/-- Which of the forward and notice queues sent last (09 9.1). -/
inductive LastSent | forward | notice
  deriving DecidableEq, Repr

/-- What the router keeps for one link (09 9.1), with the notice counter of R169, the frame in sending of R150,
the far side's ready line as last read, and the link's receiver. -/
structure LinkQueues where
  replies : List Frame
  replyCount : Nat
  notices : List Frame
  overflow : Bool
  counter : Byte
  forward : List Forward
  last : LastSent
  sending : Option Frame
  farReady : Bool
  rx : Receiver
  deriving DecidableEq, Repr

/-- An in-flight record (09 9.1); its origin is given by its place. `timer` is the wait it was opened with. -/
structure InFlight where
  channel : Byte
  tag : Byte
  start : Word32
  timer : Option Nat
  deriving DecidableEq, Repr

/-- 09 9.1. -/
inductive Disposition | localOnly | localMirror | forward
  deriving DecidableEq, Repr

/-- A routing window (09 9.1); off when the limit is below the base. -/
structure RouteWindow where
  base : Byte
  limit : Byte
  disp : Disposition
  deriving DecidableEq, Repr

/-- 09 9.1. -/
inductive AbortMode | plain | strict
  deriving DecidableEq, Repr

/-- 09 9.1. -/
inductive LossPolicy | stop | finish
  deriving DecidableEq, Repr

/-- The router. `toPrimary` is the in-flight record REMOTE to PRIMARY, `toRemote` the record PRIMARY to REMOTE;
`linked` is the LINKED line, `up` the remote link state. -/
structure Router where
  window0 : RouteWindow
  window1 : RouteWindow
  window2 : RouteWindow
  window3 : RouteWindow
  primary : LinkQueues
  remote : LinkQueues
  toPrimary : Option InFlight
  toRemote : Option InFlight
  wait : Nat
  abortMode : AbortMode
  linked : Bool
  up : Bool
  lossPolicy : LossPolicy
  deriving DecidableEq, Repr

/-! ### Supply monitor (10) -/

/-- 10. -/
inductive PowerState | run | economy | critical | sleep
  deriving DecidableEq, Repr

/-- R176. -/
inductive ResetKind | powerOn | soft | wake | link
  deriving DecidableEq, Repr

/-- R165, R167: which accepted request waits for its reply to be sent. -/
inductive ShutdownKind | reset | sleep
  deriving DecidableEq, Repr

/-- An accepted RESET or SLEEP: the ms since its acceptance and whether the sending of its reply has begun. -/
structure Shutdown where
  kind : ShutdownKind
  elapsed : Nat
  begun : Bool
  deriving DecidableEq, Repr

/-- An IDENT_NOTICE due 50 ms after power-on or wake (R176): its reset kind and the ms counted. -/
structure IdentDue where
  kind : ResetKind
  elapsed : Nat
  deriving DecidableEq, Repr

/-- The supply monitor (10). The history runs from the oldest measurement to the newest. A dwell count of a
transition that does not leave the present state is 0. -/
structure Supply where
  history : List Nat
  vb : Nat
  power : PowerState
  toEconomy : Nat
  toCritical : Nat
  toRun : Nat
  currentSum : Nat
  total : Nat
  limit : Nat
  lambda : Nat
  lastReset : ResetKind
  brickTag : Word32
  shutdown : Option Shutdown
  identDue : Option IdentDue
  deriving DecidableEq, Repr

/-! ### The whole part -/

/-- The part: its blocks, and the commands that wait, first in first out (log entry 1). -/
structure State where
  pending : List Instr
  motors : Motors
  sensors : Sensors
  watch : WatchUnit
  store : Store
  mixer : Mixer
  router : Router
  supply : Supply
  deriving DecidableEq, Repr

/-- No command of the part stops it: the spec names no event that does. The type has no constructor, so no step
faults (safe: there is nothing a claim could lean on). -/
inductive Fault
  deriving DecidableEq, Repr

/-- Why a command can have no meaning. -/
inductive Refusal
  /-- Raised by an arm of `exec` whose command has no meaning yet; safe. No arm raises it now. -/
  | notModelled (mnemonic : String)
  deriving DecidableEq, Repr

/-! ### Reset (R24, R43, R66, R80, R81, R97, R128, R129, R159, R160, R161, R164, R167) -/

/-- A channel with no motor, as POWER_ON and WAKE leave it (R24, R43). The gains until an attach, the stopping
rate and the implied fields are DESIGN CHOICE (log entry 5). -/
def Channel.reset : Channel :=
  { kind := .none, holder := none, state := .off, rest := .coast, queue := [], current := none, lastTarget := none,
    q := 0, spd := 0, phase := .done, integ := 0, uc := 0, sat := false, enc := 0, mA := 0, applied := 0,
    drive := .off, gains := { kp := 0, ki := 0, kf := 0, iLimit := 0 }, policy := .segmentEnd, stallTime := 300,
    fault := none, lostLink := false, settleTime := 0, inTol := 0, short := false, stallTimer := 0,
    starved := false, overCount := 0, prevEnc := 0, resume := none, heldAction := none, allowance := 0,
    stepMark := .none, stopRate := 4000, decelBefore := none, steps := 0, firstStep := false, idLast := none }

/-- R24, R43. -/
def Motors.reset : Motors :=
  { ch := Six.fill Channel.reset, pause := .running, groups := [] }

/-- A bank powered up at the reset (R66). -/
def Bank.poweredUp : Bank := { state := .on, trips := 0, overTime := 0, retry := 0, clean := 0 }

/-- A bank that is off (R66). -/
def Bank.powerless : Bank := { state := .off, trips := 0, overTime := 0, retry := 0, clean := 0 }

/-- A port of a bank that is not ON (R67, R80). -/
def Port.unpowered : Port :=
  { state := .unpowered, reason := none, cls := none, candidate := none, departing := none, desc := none, mode := 0,
    hs := none, silence := 0, errTime := 0, ring := [], arrival := 0, lineSpeed := 9600, lastSent := none }

/-- A port whose bank has just been powered up (R64, R67). -/
def Port.probing : Port := { Port.unpowered with state := .probing }

/-- POWER_ON and WAKE: bank L ON with its ports in PROBING, bank R to follow in 20 ms (R66, R80, R81, R86, R94). -/
def Sensors.reset : Sensors :=
  { bankL := Bank.poweredUp, bankR := Bank.powerless, bankRWait := some 0,
    ports := { n1 := Port.probing, n2 := Port.probing, n3 := Port.probing, n4 := Port.probing,
               n5 := Port.unpowered, n6 := Port.unpowered, n7 := Port.unpowered, n8 := Port.unpowered },
    streams := Eight.fill none, captures := [], time := 0 }

/-- R97. -/
def WatchUnit.reset : WatchUnit :=
  { entries := Sixteen.fill none, virt := Eight.fill 0, scanEnc := Six.fill 0 }

/-- R128: the table empty, every byte 0, the window closed, no compaction. -/
def Store.reset : Store := { regions := [], mem := [], window := none, compaction := none }

/-- R129: FREE with every other field cleared. An origin has no cleared value; LOCAL, which is neither link's, stands
for it (log entry 38). -/
def Voice.cleared : Voice :=
  { state := .free, prior := none, source := none, pos := 0, step := 0, tonePhase := 0, left := 0, volume := 0,
    priority := 0, loopCount := 0, passes := 0, loopCopy := 0, release := false, order := 0, origin := .localUnit,
    free := false, notify := false, covered := [], pathMark := 0 }

/-- R129. -/
def Mixer.reset : Mixer :=
  { voices := Four.fill Voice.cleared, volume := 160, target := 160, ramping := false, rampTimer := 0,
    clipped := false, amp := true, startCounter := 0, output := 0 }

/-- A receiver in HUNT (R170). -/
def Receiver.hunting : Receiver := { phase := .hunt, kept := [], idle := 0 }

/-- R159: queues empty, counts 0, flags clear, last of the two NOTICE; notice counter 0 (R169). The far side's
ready line is taken as low until it is read (log entry 4). -/
def LinkQueues.reset : LinkQueues :=
  { replies := [], replyCount := 0, notices := [], overflow := false, counter := 0, forward := [], last := .notice,
    sending := none, farReady := false, rx := Receiver.hunting }

/-- A window that is off (R159): base 1 and limit 0 are the model's choice of values (log entry 5). -/
def RouteWindow.unused : RouteWindow := { base := 1, limit := 0, disp := .localOnly }

/-- R159, with the LINKED line as given. -/
def Router.reset (linked : Bool) : Router :=
  { window0 := { base := 0x10, limit := 0x4F, disp := .localMirror }, window1 := RouteWindow.unused,
    window2 := RouteWindow.unused, window3 := RouteWindow.unused, primary := LinkQueues.reset,
    remote := LinkQueues.reset, toPrimary := none, toRemote := none, wait := 200, abortMode := .plain,
    linked := linked, up := linked, lossPolicy := .stop }

/-- R160, R161, R164, R167: all eight measurements 7200 mV (log entry 4), RUN, L 3000, lambda 1000, tag 0. -/
def Supply.reset : Supply :=
  { history := [7200, 7200, 7200, 7200, 7200, 7200, 7200, 7200], vb := 7200, power := .run, toEconomy := 0,
    toCritical := 0, toRun := 0, currentSum := 0, total := 0, limit := 3000, lambda := 1000, lastReset := .powerOn,
    brickTag := 0, shutdown := none, identDue := some { kind := .powerOn, elapsed := 0 } }

/-- The part right after POWER_ON, with nothing waiting, the LINKED line low and a battery of 7200 mV (log
entry 4). -/
def State.reset : State :=
  { pending := [], motors := Motors.reset, sensors := Sensors.reset, watch := WatchUnit.reset, store := Store.reset,
    mixer := Mixer.reset, router := Router.reset false, supply := Supply.reset }

end Sys2Proof.Machine
end

