-- ==== Sys2Proof/Machine/Ops.lean ====
section
/-! DEFINITION. Shared operations: the arithmetic of 00 Conventions, numbers in frames, the frame check of R169, and
the bytes of the sound store. -/

namespace Sys2Proof.Machine

/-! ### Arithmetic (00, Numbers and arithmetic) -/

/-- Clamp to a range: a value below it becomes its lower bound, one above it its upper bound. -/
def clamp (lo hi x : Int) : Int := if x < lo then lo else if hi < x then hi else x

/-- The magnitude of a number. -/
def absInt (x : Int) : Int := if x < 0 then -x else x

/-- Division that truncates toward zero. -/
def truncDiv (n d : Int) : Int := n.tdiv d

/-- A position in micro-degrees rounded to the nearest degree, halves away from zero (R36). -/
def roundMicro (q : Int) : Int :=
  if 0 ≤ q then (q + 500000) / 1000000 else -((-q + 500000) / 1000000)

/-- A division rounded up, as R115 and R124 use it. -/
def ceilDiv (n d : Nat) : Nat := (n + d - 1) / d

/-- A 32-bit count raised by `k`; past its range it is a free value (log entry 22). -/
def addCount (n k : Nat) : Nat :=
  if n + k < 4294967296 then n + k else Config.countPast n k % 4294967296

/-- Milliseconds from a time base value to a later one, across a wrap (R81). -/
def msSince (now start : Word32) : Nat := (now - start).toNat

/-! ### Numbers in frames (R173): little-endian, two's complement when signed -/

/-- `n` in `k` bytes, least significant byte first. -/
def leBytes : Nat → Nat → List Byte
  | 0, _ => []
  | k + 1, n => BitVec.ofNat 8 n :: leBytes k (n / 256)

/-- A signed number in `k` bytes. -/
def leInt (k : Nat) (i : Int) : List Byte := leBytes k (i % (256 : Int) ^ k).toNat

/-- The unsigned number in a list of bytes, least significant first. -/
def leNat : List Byte → Nat
  | [] => 0
  | b :: bs => b.toNat + 256 * leNat bs

/-- The signed number in a list of bytes. -/
def leSigned (bs : List Byte) : Int :=
  let n := leNat bs
  if 2 * n < 256 ^ bs.length then (n : Int) else (n : Int) - (256 : Int) ^ bs.length

/-! ### The frame check (R169): CRC-16, polynomial 0x1021, initial value 0xFFFF -/

/-- One bit of the CRC, most significant bit first. -/
def crcShift (c : BitVec 16) : BitVec 16 :=
  if c.msb then (c <<< 1) ^^^ 0x1021#16 else c <<< 1

/-- One byte of the CRC. -/
def crcByte (c : BitVec 16) (b : Byte) : BitVec 16 :=
  let c0 := c ^^^ ((b.zeroExtend 16) <<< 8)
  crcShift (crcShift (crcShift (crcShift (crcShift (crcShift (crcShift (crcShift c0)))))))

/-- The CRC over a list of bytes. -/
def crc16 (bs : List Byte) : BitVec 16 := bs.foldl crcByte 0xFFFF#16

/-! ### The bytes of the sound store (07)

A list of (address, byte) pairs, addresses strictly rising and below the store's size, no byte 0 listed: an
unlisted address reads 0 (R114, R128). -/

/-- The bytes of the sound store. -/
abbrev Memory := List Host.Cell

/-- The store holds 131,072 bytes (07). -/
def storeSize : Nat := 131072

/-- The byte at an address. -/
def Memory.read (a : Nat) : Memory → Byte
  | [] => 0
  | (k, b) :: r => if k = a then b else Memory.read a r

/-- Put a byte at an address, keeping the list's order; a 0 is not listed. -/
def Memory.put (a : Nat) (v : Byte) : Memory → Memory
  | [] => if v = 0 then [] else [(a, v)]
  | (k, b) :: r =>
    if a < k then (if v = 0 then (k, b) :: r else (a, v) :: (k, b) :: r)
    else if a = k then (if v = 0 then r else (a, v) :: r)
    else (k, b) :: Memory.put a v r

/-- Write a byte. No byte exists at an address outside the store, so nothing is written there (log entry 35). -/
def Memory.write (a : Nat) (v : Byte) (m : Memory) : Memory :=
  if a < storeSize then Memory.put a v m else m

/-- The canonical form from an address on. -/
def Memory.wfFrom : Nat → Memory → Bool
  | _, [] => true
  | lo, (k, b) :: r => decide (lo ≤ k) && decide (k < storeSize) && decide (b ≠ 0) && Memory.wfFrom (k + 1) r

/-- The canonical form: addresses strictly rising and inside the store, no byte 0 listed. -/
def Memory.wf (m : Memory) : Bool := Memory.wfFrom 0 m

/-- Whether an address lies in the `n` bytes from `lo`. -/
def inRange (lo n a : Nat) : Bool := decide (lo ≤ a) && decide (a < lo + n)

/-- Set the `n` bytes from `lo` to 0 (R115). -/
def Memory.clear (lo n : Nat) (m : Memory) : Memory := m.filter (fun c => !inRange lo n c.1)

/-- Copy the `n` bytes from `src` to `dst` (R124). -/
def Memory.copy (src dst n : Nat) (m : Memory) : Memory :=
  (m.filter (fun c => inRange src n c.1)).foldl
    (fun acc c => Memory.write (c.1 - src + dst) c.2 acc) (Memory.clear dst n m)

/-- The `n` bytes from `a`. -/
def Memory.slice (a n : Nat) (m : Memory) : List Byte := (List.range n).map (fun i => Memory.read (a + i) m)

/-! ### Lists -/

/-- The motor ports of a list as a set, in the order A to F. -/
def portSet (ps : List MotorPort) : List MotorPort := MotorPort.all.filter (fun p => ps.contains p)

/-- Replace the first element that satisfies a test. -/
def replaceFirst {α : Type} (t : α → Bool) (g : α → α) : List α → List α
  | [] => []
  | x :: xs => if t x then g x :: xs else x :: replaceFirst t g xs

/-- Remove the first element that satisfies a test. -/
def removeFirst {α : Type} (t : α → Bool) : List α → List α
  | [] => []
  | x :: xs => if t x then xs else x :: removeFirst t xs

/-- Remove the last element that satisfies a test. -/
def removeLast {α : Type} (t : α → Bool) (xs : List α) : List α := (removeFirst t xs.reverse).reverse

end Sys2Proof.Machine
end

