-- ==== Sys2Proof/Machine/Notices.lean ====
section
/-! DEFINITION. The codes of enumerated values (R173), the payloads of replies (R175) and of notices (11.6, 11.7).
Where a rule lists data in prose, the field numbers, the sizes of fields with no stated range and the form of
composite values are the model's (log entry 8). -/

namespace Sys2Proof.Machine

/-! ### Codes of enumerated values: the position in the list that defines them (R173) -/

def linkCode : Link → Nat
  | .primary => 0 | .remote => 1

def classCode : FrameClass → Nat
  | .ask => 0 | .tell => 1 | .reply => 2 | .notice => 3

/-- A flag (R173); every field of two values that a table lists as set or clear, or true or false, is written so, the
model's choice (log entry 63). -/
def flagCode (b : Bool) : Nat := if b then 1 else 0

def motorKindCode : MotorKind → Nat
  | .none => 0 | .small => 1 | .large => 2

/-- Holder: NONE, PRIMARY, REMOTE (01 1.1). -/
def holderCode : Option Link → Nat
  | none => 0 | some .primary => 1 | some .remote => 2

def chStateCode : ChState → Nat
  | .off => 0 | .idle => 1 | .running => 2 | .settling => 3 | .syncWait => 4 | .held => 5 | .fault => 6

def restCode : Rest → Nat
  | .coast => 0 | .brake => 1 | .hold => 2

def phaseCode : Phase → Nat
  | .accel => 0 | .cruise => 1 | .decel => 2 | .reverse => 3 | .creep => 4 | .done => 5 | .stopping => 6
  | .holding => 7

def segKindCode : SegKind → Nat
  | .duty => 0 | .speed => 1 | .moveTo => 2 | .moveBy => 3 | .stop => 4

def policyCode : HoldPolicy → Nat
  | .free => 0 | .segmentEnd => 1 | .queueEnd => 2 | .immediate => 3

/-- RUNNING, PAUSING, PAUSED: chapter 03 gives no list of these values, and their order is the model's choice (log entry
75). -/
def pauseCode : PauseState → Nat
  | .running => 0 | .pausing => 1 | .paused => 2

def portStateCode : PortState → Nat
  | .empty => 0 | .probing => 1 | .handshake => 2 | .ready => 3 | .switching => 4 | .error => 5 | .unpowered => 6

def reasonCode : ErrorReason → Nat
  | .short => 0 | .noHandshake => 1 | .silent => 2

def bankStateCode : BankState → Nat
  | .on => 0 | .tripped => 1 | .locked => 2 | .off => 3

def bankIdCode : BankId → Nat
  | .l => 0 | .r => 1

def formatCode : ValueFormat → Nat
  | .int8 => 0 | .int16 => 1 | .int32 => 2

/-- Bytes of a value in a format (R83). -/
def formatBytes : ValueFormat → Nat
  | .int8 => 1 | .int16 => 2 | .int32 => 4

/-- Entry state: EMPTY, ACTIVE, DORMANT, FIRED, DISABLED (06 6.1). -/
def watchStateCode : Option WatchState → Nat
  | none => 0 | some .active => 1 | some .dormant => 2 | some .fired => 3 | some (.disabled _) => 4

def disabledReasonCode : DisabledReason → Nat
  | .byRequest => 0 | .loop => 1

def voiceStateCode : VoiceState → Nat
  | .free => 0 | .head => 1 | .loop => 2 | .tail => 3 | .tone => 4 | .frozen => 5

/-- Prior state: HEAD, LOOP, TAIL, TONE, or absent (08 8.1). An absent one, and a state outside the list, which no voice
records, are written 0xFF, the model's choice (log entry 8). -/
def priorStateCode : Option VoiceState → Nat
  | some .head => 0 | some .loop => 1 | some .tail => 2 | some .tone => 3 | _ => 255

def originCode : Origin → Nat
  | .primary => 0 | .remote => 1 | .localUnit => 2

def powerCode : PowerState → Nat
  | .run => 0 | .economy => 1 | .critical => 2 | .sleep => 3

def resetKindCode : ResetKind → Nat
  | .powerOn => 0 | .soft => 1 | .wake => 2 | .link => 3

def dispositionCode : Disposition → Nat
  | .localOnly => 0 | .localMirror => 1 | .forward => 2

def abortCode : AbortMode → Nat
  | .plain => 0 | .strict => 1

def lossPolicyCode : LossPolicy → Nat
  | .stop => 0 | .finish => 1

def regionKindCode : RegionKind → Nat
  | .clip => 0 | .capture => 1

def writeModeCode : WriteMode → Nat
  | .truncate => 0 | .wrap => 1

def rearmCode : Rearm → Nat
  | .once => 0 | .edge => 1

def quantityCode : Quantity → Nat
  | .position => 0 | .speed => 1 | .current => 2 | .stall => 3

/-- The reasons a segment ends (01 1.3). -/
inductive SegOutcome
  | done | short | unsettled | stalled | cancelled | seized | syncBroken | cut | power | detached | linkLost | fault
  deriving DecidableEq, Repr

def segOutcomeCode : SegOutcome → Nat
  | .done => 0 | .short => 1 | .unsettled => 2 | .stalled => 3 | .cancelled => 4 | .seized => 5
  | .syncBroken => 6 | .cut => 7 | .power => 8 | .detached => 9 | .linkLost => 10 | .fault => 11

/-- The reasons a voice ends (R142). -/
inductive VoiceOutcome | ended | stopped | stolen | power
  deriving DecidableEq, Repr

def voiceOutcomeCode : VoiceOutcome → Nat
  | .ended => 0 | .stopped => 1 | .stolen => 2 | .power => 3

/-- The reasons a capture ends (R94). -/
inductive CaptureOutcome | stopped | full | modeChanged | detached | portError | unpowered
  deriving DecidableEq, Repr

def captureOutcomeCode : CaptureOutcome → Nat
  | .stopped => 0 | .full => 1 | .modeChanged => 2 | .detached => 3 | .portError => 4 | .unpowered => 5

/-! ### Tagged fields (11.4) -/

/-- One byte. -/
def byte (n : Nat) : Byte := BitVec.ofNat 8 n

/-- A tagged field: its number, its size, its value. -/
def field (k : Nat) (v : List Byte) : List Byte := byte k :: byte v.length :: v

/-- A number of `size` bytes as a tagged field. -/
def fieldNat (k size n : Nat) : List Byte := field k (leBytes size n)

/-- A signed number of `size` bytes as a tagged field. -/
def fieldInt (k size : Nat) (i : Int) : List Byte := field k (leInt size i)

/-- An optional field: absent values are left out. -/
def fieldOpt {α : Type} (o : Option α) (g : α → List Byte) : List Byte :=
  match o with
  | none => []
  | some a => g a

/-- A list of motor ports, one byte an element (R173). -/
def portBytes (ps : List MotorPort) : List Byte := ps.map (fun p => byte p.code)

/-! ### Replies (R175) -/

/-- The status codes (R175). -/
inductive Status
  | ok | clamped | busy | held | full | invalid | noMotor | noDevice | noSpace | access | noVoice | power | denied
  | fault | unknown | length | noAnswer
  deriving DecidableEq, Repr

def statusCode : Status → Nat
  | .ok => 0 | .clamped => 1 | .busy => 2 | .held => 3 | .full => 4 | .invalid => 5 | .noMotor => 6
  | .noDevice => 7 | .noSpace => 8 | .access => 9 | .noVoice => 10 | .power => 11 | .denied => 12 | .fault => 13
  | .unknown => 14 | .length => 15 | .noAnswer => 16

/-- The checks of an INVALID reply (R175). -/
inductive Check
  | dutyRange | durationRange | speedRange | accelRange | decelRange | targetRange | toleranceRange | settleOrder
  | syncMask | missingField | stallRange | policy | bank | mode | port | count | ports | interval | burst
  | destination | id | region | valueIndex | decimation | endMode | kind | capture | source | comparison | range
  | actions | input | state | length | rate | layoutSum | loopStart | loopShort | limit | cueRange | reverseLoop
  | offset | volume | priority | loopCount | frequency | duration | voice | window | disposition | wait | field
  deriving DecidableEq, Repr

/-- The checks in ascending order of their codes. -/
def Check.all : List Check :=
  [.dutyRange, .durationRange, .speedRange, .accelRange, .decelRange, .targetRange, .toleranceRange, .settleOrder,
   .syncMask, .missingField, .stallRange, .policy, .bank, .mode, .port, .count, .ports, .interval, .burst,
   .destination, .id, .region, .valueIndex, .decimation, .endMode, .kind, .capture, .source, .comparison, .range,
   .actions, .input, .state, .length, .rate, .layoutSum, .loopStart, .loopShort, .limit, .cueRange, .reverseLoop,
   .offset, .volume, .priority, .loopCount, .frequency, .duration, .voice, .window, .disposition, .wait, .field]

def Check.code : Check → Nat
  | .dutyRange => 1 | .durationRange => 2 | .speedRange => 3 | .accelRange => 4 | .decelRange => 5
  | .targetRange => 6 | .toleranceRange => 7 | .settleOrder => 8 | .syncMask => 9 | .missingField => 10
  | .stallRange => 11 | .policy => 12 | .bank => 13 | .mode => 14 | .port => 15 | .count => 16 | .ports => 17
  | .interval => 18 | .burst => 19 | .destination => 20 | .id => 21 | .region => 22 | .valueIndex => 23
  | .decimation => 24 | .endMode => 25 | .kind => 26 | .capture => 27 | .source => 28 | .comparison => 29
  | .range => 30 | .actions => 31 | .input => 32 | .state => 33 | .length => 34 | .rate => 35 | .layoutSum => 36
  | .loopStart => 37 | .loopShort => 38 | .limit => 39 | .cueRange => 40 | .reverseLoop => 41 | .offset => 42
  | .volume => 43 | .priority => 44 | .loopCount => 45 | .frequency => 46 | .duration => 47 | .voice => 48
  | .window => 49 | .disposition => 50 | .wait => 51 | .field => 52

/-- What a block answers to a request: a status with its reply fields, CLAMPED with the numbers of the clamped
fields of the request, or INVALID with its checks. -/
inductive Reply
  | plain (st : Status) (data : List Byte)
  | clamped (names : List Nat) (data : List Byte)
  | invalid (checks : List Check)
  deriving DecidableEq, Repr

/-- OK with no data. -/
def Reply.ok : Reply := .plain .ok []

/-- A refusal with no data. -/
def Reply.refuse (st : Status) : Reply := .plain st []

/-- Whether the request was accepted: status OK or CLAMPED (R9). -/
def Reply.accepted : Reply → Bool
  | .plain .ok _ => true
  | .clamped _ _ => true
  | _ => false

/-- The payload of a reply (R175): checks in ascending order, each once. -/
def Reply.payload : Reply → List Byte
  | .plain st data => byte (statusCode st) :: data
  | .clamped names data =>
      byte (statusCode .clamped) :: byte names.length :: (names.map byte ++ data)
  | .invalid checks =>
      let cs := Check.all.filter (fun c => checks.contains c)
      byte (statusCode .invalid) :: byte cs.length :: cs.map (fun c => byte c.code)

/-! ### Notices (11.6) -/

/-- The result of a watch action (06 6.4). -/
inductive ActionResult
  | done
  | doneVoice (v : VoiceId)
  | doneCount (n : Nat)
  | skippedPorts (ps : List MotorPort)
  | refused (st : Status)
  | notPerformed
  deriving DecidableEq, Repr

/-- A result as a composite value: a code and its part (log entry 8). -/
def ActionResult.bytes : ActionResult → List Byte
  | .done => [byte 0]
  | .doneVoice v => [byte 0, byte v.num]
  | .doneCount n => [byte 0, byte n]
  | .skippedPorts ps => byte 1 :: portBytes ps
  | .refused st => [byte 2, byte (statusCode st)]
  | .notPerformed => [byte 3]

/-- A voice's source as a composite value: a kind byte, 0 and a region id or 1 and a tone's frequency (log entries 8 and
75). -/
def sourceBytes : VoiceSource → List Byte
  | .region i => [byte 0, byte i]
  | .tone f => byte 1 :: leBytes 2 f

/-- The notices the part raises, with the data their rules list. -/
inductive Notice
  | ident (layout : List Byte)
  | segmentEnd (p : MotorPort) (kind : SegKind) (reqTag : Nat) (outcome : SegOutcome) (enc : Int)
      (target : Option Int) (left : Nat)
  | portEvent (p : SensorPort) (state : PortState) (reason : Option ErrorReason) (device : Option (Nat × Nat × Nat))
      (bank : Option (BankState × Nat)) (time : Word32)
  | report (layout : List Byte)
  | watchFired (i : WatchId) (value : Int) (depth : Nat) (state : WatchState) (fires : Nat)
      (results : List ActionResult) (time : Word32)
  | watchNote (i : WatchId) (code : Nat) (value : Int) (time : Word32)
  | voiceEnd (v : VoiceId) (source : VoiceSource) (outcome : VoiceOutcome) (passes position : Nat) (time : Word32)
  | cue (v : VoiceId) (region offset passes : Nat) (time : Word32)
  | powerEvent (left entered : PowerState) (vb lambda : Nat) (time : Word32)
  | pauseState (st : PauseState) (held : List MotorPort)
  | mirror (f : Frame)
  | forwardDropped (f : Frame)
  | seized (ps : List MotorPort)
  | captureEnd (c : Capture) (outcome : CaptureOutcome) (fill : Nat) (time : Word32)
  deriving DecidableEq, Repr

/-- The channel of a notice (11.6). -/
def Notice.channel : Notice → Byte
  | .ident _ => 0x60
  | .segmentEnd .. => 0x61
  | .portEvent .. => 0x62
  | .report _ => 0x63
  | .watchFired .. => 0x64
  | .watchNote .. => 0x64
  | .voiceEnd .. => 0x65
  | .cue .. => 0x66
  | .powerEvent .. => 0x67
  | .pauseState .. => 0x68
  | .mirror _ => 0x69
  | .forwardDropped _ => 0x6A
  | .seized _ => 0x6B
  | .captureEnd .. => 0x6C

/-- The time base as a field or a layout's number: 4 bytes. -/
def timeBytes (t : Word32) : List Byte := leBytes 4 t.toNat

def disabledReasonOf : WatchState → Option DisabledReason
  | .disabled r => some r
  | _ => none

/-- The kinds of WATCH_FIRED (R107): FIRED 0 and NOTE 1, the order in which R107 names them. The manual gives no list of
them, and the codes are the model's choice (log entry 75). -/
inductive WatchNoticeKind | fired | note
  deriving DecidableEq, Repr

def watchNoticeKindCode : WatchNoticeKind → Nat
  | .fired => 0 | .note => 1

/-- The payload of a notice. -/
def Notice.payload : Notice → List Byte
  | .ident layout => layout
  | .segmentEnd p kind reqTag outcome enc target left =>
      fieldNat 1 1 p.code ++ fieldNat 2 1 (segKindCode kind) ++ fieldNat 3 2 reqTag ++
        fieldNat 4 1 (segOutcomeCode outcome) ++ fieldInt 5 4 enc ++ fieldOpt target (fieldInt 6 4) ++
        fieldNat 7 1 left
  | .portEvent p state reason device bank time =>
      fieldNat 1 1 p.num ++ fieldNat 2 1 (portStateCode state) ++
        fieldOpt reason (fun r => fieldNat 3 1 (reasonCode r)) ++
        fieldOpt device (fun d => fieldNat 4 1 d.1 ++ fieldNat 5 1 d.2.1 ++ fieldNat 6 1 d.2.2) ++
        fieldOpt bank (fun b => fieldNat 7 1 (bankStateCode b.1) ++ fieldNat 8 1 b.2) ++ field 9 (timeBytes time)
  | .report layout => layout
  | .watchFired i value depth state fires results time =>
      fieldNat 1 1 i.num ++ fieldNat 2 1 (watchNoticeKindCode .fired) ++ fieldInt 3 4 value ++ fieldNat 4 1 depth ++
        fieldNat 5 1 (watchStateCode (some state)) ++
        fieldOpt (disabledReasonOf state) (fun r => fieldNat 6 1 (disabledReasonCode r)) ++ fieldNat 7 2 fires ++
        results.flatMap (fun r => field 8 r.bytes) ++ field 9 (timeBytes time)
  | .watchNote i code value time =>
      fieldNat 1 1 i.num ++ fieldNat 2 1 (watchNoticeKindCode .note) ++ fieldNat 3 1 code ++ fieldInt 4 4 value ++ field 5 (timeBytes time)
  | .voiceEnd v source outcome passes position time =>
      fieldNat 1 1 v.num ++ field 2 (sourceBytes source) ++ fieldNat 3 1 (voiceOutcomeCode outcome) ++
        fieldNat 4 1 passes ++ fieldNat 5 4 position ++ field 6 (timeBytes time)
  | .cue v region offset passes time =>
      fieldNat 1 1 v.num ++ fieldNat 2 1 region ++ fieldNat 3 4 offset ++ fieldNat 4 1 passes ++
        field 5 (timeBytes time)
  | .powerEvent left entered vb lambda time =>
      fieldNat 1 1 (powerCode left) ++ fieldNat 2 1 (powerCode entered) ++ fieldNat 3 2 vb ++ fieldNat 4 2 lambda ++
        field 5 (timeBytes time)
  | .pauseState st held => fieldNat 1 1 (pauseCode st) ++ field 2 (portBytes held)
  | .mirror f =>
      byte (classCode f.cls) :: f.channel :: f.tag :: byte f.payload.length :: f.payload.take 236
  | .forwardDropped f => fieldNat 1 1 (classCode f.cls) ++ fieldNat 2 1 f.channel.toNat ++ fieldNat 3 1 f.tag.toNat
  | .seized ps => field 1 (portBytes ps)
  | .captureEnd c outcome fill time =>
      fieldNat 1 1 c.port.num ++ fieldNat 2 1 c.region ++ fieldNat 3 1 (captureOutcomeCode outcome) ++
        fieldNat 4 4 c.written ++ fieldNat 5 4 c.offset ++ fieldNat 6 4 fill ++ fieldNat 7 1 (flagCode c.wrapped) ++
        field 8 (timeBytes time)

/-- A notice handed to the router for a link (R148). -/
structure Sent where
  link : Link
  notice : Notice
  deriving DecidableEq, Repr

/-- The frame a notice becomes, with the link's notice counter as its tag (R169). -/
def Notice.frame (n : Notice) (counter : Byte) : Frame :=
  { cls := .notice, channel := n.channel, tag := counter, payload := n.payload }

end Sys2Proof.Machine
end

