-- ==== Sys2Proof/Machine/Operands.lean ====
section
/-! DEFINITION. Decoding the payload of a request into its fields (R173, R174): every operand form a request has. -/

namespace Sys2Proof.Machine

/-- The tagged fields of a payload in order: field number and value. -/
abbrev Fields := List (Nat × List Byte)

/-- Take the fields apart (R174 item 1): `none` when a size carries past the end or a header is cut. The fuel is
the payload's length, and every field takes at least two bytes. -/
def parseFields : Nat → List Byte → Option Fields
  | _, [] => some []
  | 0, _ :: _ => none
  | _ + 1, [_] => none
  | n + 1, k :: size :: rest =>
    if rest.length < size.toNat then none
    else
      match parseFields n (rest.drop size.toNat) with
      | none => none
      | some fs => some ((k.toNat, rest.take size.toNat) :: fs)

/-- The fields of a payload, or `none` when the request is refused LENGTH. -/
def decodeFields (p : List Byte) : Option Fields := parseFields p.length p

/-- The value of a field: its last occurrence (R174 item 3). -/
def fieldValue (k : Nat) : Fields → Option (List Byte)
  | [] => none
  | (j, v) :: fs =>
    match fieldValue k fs with
    | some w => some w
    | none => if j = k then some v else none

/-- Every occurrence of a field in order, as the actions of WATCH_SET are listed (R174 item 3). -/
def fieldValues (k : Nat) (fs : Fields) : List (List Byte) :=
  (fs.filter (fun f => f.1 = k)).map (fun f => f.2)

/-- What decoding finds of one field: nothing, a field failure with its check (R174 items 2, 4, 5), or a value. -/
inductive Val (α : Type)
  | absent
  | bad (c : Check)
  | val (a : α)
  deriving DecidableEq, Repr

/-- The value when there is one. -/
def Val.get? {α : Type} : Val α → Option α
  | .val a => some a
  | _ => none

/-- The field failure of an optional field. -/
def Val.fails {α : Type} : Val α → List Check
  | .bad c => [c]
  | _ => []

/-- The field failure of a field the rule uses and gives no default: absence is MISSING_FIELD (R174 item 5). A check
that a rule names for the field's value is not taken as one of its absence, the model's choice (log entry 52). -/
def Val.need {α : Type} : Val α → List Check
  | .absent => [.missingField]
  | .bad c => [c]
  | .val _ => []

/-- Check a value further: a value the test refuses is a failure with the given check. -/
def Val.check {α β : Type} (c : Check) (g : α → Option β) : Val α → Val β
  | .absent => .absent
  | .bad d => .bad d
  | .val a => match g a with
    | none => .bad c
    | some b => .val b

/-- The check of the rule itself on a field that decoded: `[c]` when the test fails. -/
def Val.violates {α : Type} (v : Val α) (c : Check) (bad : α → Bool) : List Check :=
  match v with
  | .val a => if bad a then [c] else []
  | _ => []

/-- Sizes a master may use for a number (R173). -/
def numberSize (n : Nat) : Bool := n == 1 || n == 2 || n == 4 || n == 8

/-- An unsigned number. -/
def natField (k : Nat) (fs : Fields) : Val Nat :=
  match fieldValue k fs with
  | none => .absent
  | some v => if numberSize v.length then .val (leNat v) else .bad .field

/-- A signed number. -/
def intField (k : Nat) (fs : Fields) : Val Int :=
  match fieldValue k fs with
  | none => .absent
  | some v => if numberSize v.length then .val (leSigned v) else .bad .field

/-- An unsigned number with a range the rule neither checks by name nor clamps: outside it is FIELD. -/
def natFieldIn (k lo hi : Nat) (fs : Fields) : Val Nat :=
  (natField k fs).check .field (fun n => if lo ≤ n ∧ n ≤ hi then some n else none)

/-- An enumerated value whose rule names no check of its own: a code beyond the list is FIELD (R174 item 4). -/
def enumField {α : Type} (k : Nat) (ofCode : Nat → Option α) (fs : Fields) : Val α :=
  (natField k fs).check .field ofCode

/-- An enumerated value whose rule names the check. -/
def enumFieldAs {α : Type} (c : Check) (k : Nat) (ofCode : Nat → Option α) (fs : Fields) : Val α :=
  (natField k fs).check c ofCode

def flagOfCode : Nat → Option Bool
  | 0 => some false | 1 => some true | _ => none

def linkOfCode : Nat → Option Link
  | 0 => some .primary | 1 => some .remote | _ => none

def restOfCode : Nat → Option Rest
  | 0 => some .coast | 1 => some .brake | 2 => some .hold | _ => none

def segKindOfCode : Nat → Option SegKind
  | 0 => some .duty | 1 => some .speed | 2 => some .moveTo | 3 => some .moveBy | 4 => some .stop | _ => none

def policyOfCode : Nat → Option HoldPolicy
  | 0 => some .free | 1 => some .segmentEnd | 2 => some .queueEnd | 3 => some .immediate | _ => none

def bankOfCode : Nat → Option BankId
  | 0 => some .l | 1 => some .r | _ => none

def regionKindOfCode : Nat → Option RegionKind
  | 0 => some .clip | 1 => some .capture | _ => none

def writeModeOfCode : Nat → Option WriteMode
  | 0 => some .truncate | 1 => some .wrap | _ => none

def endModeOfCode : Nat → Option EndMode
  | 0 => some .stop | 1 => some .wrap | _ => none

def rearmOfCode : Nat → Option Rearm
  | 0 => some .once | 1 => some .edge | _ => none

def dispositionOfCode : Nat → Option Disposition
  | 0 => some .localOnly | 1 => some .localMirror | 2 => some .forward | _ => none

def abortOfCode : Nat → Option AbortMode
  | 0 => some .plain | 1 => some .strict | _ => none

def lossPolicyOfCode : Nat → Option LossPolicy
  | 0 => some .stop | 1 => some .finish | _ => none

def quantityOfCode : Nat → Option Quantity
  | 0 => some .position | 1 => some .speed | 2 => some .current | 3 => some .stall | _ => none

/-- A flag: no 0, yes 1 (R173). -/
def flagField (k : Nat) (fs : Fields) : Val Bool := enumField k flagOfCode fs

/-- The port of a motor request: outside A to F is PORT (R174 item 4). -/
def motorPortField (k : Nat) (fs : Fields) : Val MotorPort := (natField k fs).check .port MotorPort.ofCode

/-- The ports of a list of bytes, if every one is A to F. -/
def motorPorts : List Byte → Option (List MotorPort)
  | [] => some []
  | b :: bs =>
    match MotorPort.ofCode b.toNat, motorPorts bs with
    | some p, some ps => some (p :: ps)
    | _, _ => none

/-- A list of motor ports, one byte an element; an element outside A to F is PORT. -/
def motorPortsField (k : Nat) (fs : Fields) : Val (List MotorPort) :=
  match fieldValue k fs with
  | none => .absent
  | some v => (Val.val v).check .port motorPorts

/-- The sensor ports of a list of bytes, if every one is 1 to 8. -/
def sensorPorts : List Byte → Option (List SensorPort)
  | [] => some []
  | b :: bs =>
    match Num8.ofNum b.toNat, sensorPorts bs with
    | some p, some ps => some (p :: ps)
    | _, _ => none

/-- A composite value of WATCH_SET (R173): a field failure, a check of the rule, or the value. Bytes that follow the
parts its kind requires are ignored, the model's choice (log entry 59). -/
inductive Composite (α : Type)
  | short
  | invalid
  | val (a : α)
  deriving DecidableEq, Repr

/-- The source of WATCH_SET: a kind code and its parts (06 6.1, R108). -/
def parseSource : List Byte → Composite Source
  | [] => .short
  | k :: rest =>
    match k.toNat, rest with
    | 0, p :: m :: i :: _ =>
      match Num8.ofNum p.toNat with
      | some q => if m.toNat ≤ 7 ∧ i.toNat ≤ 3 then .val (.sensor q m.toNat i.toNat) else .invalid
      | none => .invalid
    | 0, _ => .short
    | 1, p :: q :: _ =>
      match MotorPort.ofCode p.toNat, quantityOfCode q.toNat with
      | some p, some q => .val (.motor p q)
      | _, _ => .invalid
    | 1, _ => .short
    | 2, i :: _ =>
      match Num8.ofNum i.toNat with
      | some i => .val (.virt i)
      | none => .invalid
    | 2, _ => .short
    | 3, r :: _ => if 1 ≤ r.toNat ∧ r.toNat ≤ 24 then .val (.cue r.toNat) else .invalid
    | 3, _ => .short
    | 4, _ => .val .battery
    | _, _ => .invalid

/-- The comparison of WATCH_SET: a kind code and its bounds, 4 bytes each (06 6.1). -/
def parseComparison : List Byte → Composite Comparison
  | [] => .short
  | k :: rest =>
    let first := leSigned (rest.take 4)
    let second := leSigned ((rest.drop 4).take 4)
    match k.toNat with
    | 0 => if rest.length < 4 then .short else .val (.above first)
    | 1 => if rest.length < 4 then .short else .val (.below first)
    | 2 => if rest.length < 8 then .short else .val (.inside first second)
    | 3 => if rest.length < 8 then .short else .val (.outside first second)
    | 4 => if rest.length < 4 then .short else .val (.equal first)
    | 5 => .val .change
    | _ => .invalid

/-- A watch action: a kind code and its fields (06 6.4). -/
def parseAction : List Byte → Composite Action
  | [] => .short
  | k :: rest =>
    match k.toNat, rest with
    | 0, ps =>
      match motorPorts ps with
      | some qs => if qs = [] then .invalid else .val (.brake (portSet qs))
      | none => .invalid
    | 1, ps =>
      match motorPorts ps with
      | some qs => if qs = [] then .invalid else .val (.coast (portSet qs))
      | none => .invalid
    | 2, g :: v :: p :: _ =>
      if 1 ≤ g.toNat ∧ g.toNat ≤ 24 ∧ p.toNat ≤ 7 then .val (.play g.toNat v.toNat p.toNat) else .invalid
    | 2, _ => .short
    | 3, _ => .val .stopVoices
    | 4, i :: v :: _ =>
      match Num8.ofNum i.toNat with
      | some j => if v.toNat ≤ 1 then .val (.setVirtual j v.toNat) else .invalid
      | none => .invalid
    | 4, _ => .short
    | 5, l :: c :: _ =>
      match linkOfCode l.toNat with
      | some m => .val (.notify m c.toNat)
      | none => .invalid
    | 5, _ => .short
    | _, _ => .invalid

/-- A composite field: too short is a field failure, a bad kind or part is the rule's check. -/
def compositeField {α : Type} (c : Check) (k : Nat) (parse : List Byte → Composite α) (fs : Fields) : Val α :=
  match fieldValue k fs with
  | none => .absent
  | some v =>
    match parse v with
    | .short => .bad .field
    | .invalid => .bad c
    | .val a => .val a

end Sys2Proof.Machine
end

