-- ==== Sys2Proof/Machine/Router.lean ====
section
/-! DEFINITION. The router's queues and records (09): placing notices (R148) and replies (R147), aborting a forwarded
ask (R154), choosing the next frame to send (R150), and the link events' work on the router (R155, R156). -/

namespace Sys2Proof.Machine

def Router.link (r : Router) : Link → LinkQueues
  | .primary => r.primary
  | .remote => r.remote

def Router.setLink (r : Router) (l : Link) (q : LinkQueues) : Router :=
  match l with
  | .primary => { r with primary := q }
  | .remote => { r with remote := q }

/-- The in-flight record of asks from a link. -/
def Router.record (r : Router) : Link → Option InFlight
  | .primary => r.toRemote
  | .remote => r.toPrimary

def Router.setRecord (r : Router) (origin : Link) (v : Option InFlight) : Router :=
  match origin with
  | .primary => { r with toRemote := v }
  | .remote => { r with toPrimary := v }

/-- Whether a frame of a notice queue is a REPORT (channel 0x63, 11.6). -/
def isReport (f : Frame) : Bool := f.channel == 0x63

/-- A notice joins the tail with the counter as its tag, and the counter rises (R169). -/
def LinkQueues.joinNotice (q : LinkQueues) (n : Notice) : LinkQueues :=
  { q with notices := q.notices ++ [n.frame q.counter], counter := q.counter + 1 }

/-- R148, for a link whose far side is there. -/
def LinkQueues.place (q : LinkQueues) (n : Notice) : LinkQueues :=
  if q.notices.length < 16 then q.joinNotice n
  else
    match n with
    | .report _ => q
    | _ =>
      if q.notices.any isReport then { q with notices := removeFirst isReport q.notices }.joinNotice n
      else { q with overflow := true }

/-- Whether the router would take a notice for a link at all: the remote link discards them while DOWN (R148). -/
def Router.reachable (r : Router) : Link → Bool
  | .primary => true
  | .remote => r.up

/-- R148: a notice handed to the router for a link. -/
def Router.place (r : Router) (l : Link) (n : Notice) : Router :=
  if r.reachable l then r.setLink l ((r.link l).place n) else r

/-- R148, for notices handed over in order. -/
def Router.placeAll (r : Router) (ns : List Sent) : Router :=
  ns.foldl (fun acc n => acc.place n.link n.notice) r

/-- The REPLY frame to an ask (R169). -/
def replyFrame (channel tag : Byte) (payload : List Byte) : Frame :=
  { cls := .reply, channel := channel, tag := tag, payload := payload }

/-- A reply uses the place its ASK reserved in the link's reply queue (R147). -/
def Router.placeReply (r : Router) (l : Link) (f : Frame) : Router :=
  let q := r.link l
  r.setLink l { q with replies := q.replies ++ [f] }

/-- The reply count rises when the router takes an ASK from a link (R147). -/
def Router.reserve (r : Router) (l : Link) : Router :=
  let q := r.link l
  r.setLink l { q with replyCount := q.replyCount + 1 }

/-- The answer of an abort (R154). -/
def abortStatus : AbortMode → Status
  | .plain => .ok
  | .strict => .noAnswer

/-- Whether a forward queue entry can be the ASK of a record: it joined as the record opened (R152). Of several such
entries the last is. -/
def isAskOf (rec : InFlight) (e : Forward) : Bool :=
  e.frame.cls == .ask && e.frame.channel == rec.channel && e.frame.tag == rec.tag && e.entered == rec.start

/-- R154: the ASK, if still there, leaves the far link's forward queue; the record closes; unless the link event
says otherwise the origin is answered. -/
def Router.abort (r : Router) (origin : Link) (answer : Bool) : Router :=
  match r.record origin with
  | none => r
  | some rec =>
    let far := r.link origin.other
    let r1 := r.setLink origin.other { far with forward := removeLast (isAskOf rec) far.forward }
    let r2 := r1.setRecord origin none
    if answer then
      r2.placeReply origin (replyFrame rec.channel rec.tag (Reply.refuse (abortStatus r.abortMode)).payload)
    else r2

/-- R152: an ASK or TELL to be carried to the other link; an ASK opens the record of its direction or is answered
BUSY on its origin link. -/
def Router.forwardFrame (r : Router) (origin : Link) (f : Frame) (now : Word32) : Router :=
  let far := r.link origin.other
  let joined := r.setLink origin.other { far with forward := far.forward ++ [{ frame := f, entered := now }] }
  match f.cls with
  | .ask =>
    match r.record origin with
    | some _ => r.placeReply origin (replyFrame f.channel f.tag (Reply.refuse .busy).payload)
    | none =>
      joined.setRecord origin
        (some { channel := f.channel, tag := f.tag, start := now, timer := if r.wait = 0 then none else some r.wait })
  | _ => joined

/-- R153: a REPLY taken from a link closes the record whose far link it is, when channel and tag match; otherwise
it is discarded. -/
def Router.matchReply (r : Router) (l : Link) (f : Frame) : Router :=
  match r.record l.other with
  | none => r
  | some rec =>
    if rec.channel = f.channel ∧ rec.tag = f.tag then
      (r.setRecord l.other none).placeReply l.other f
    else r

/-- R150: the queue the arbiter takes its frame from, and what is left. -/
def LinkQueues.choose (q : LinkQueues) : Option (Frame × LinkQueues) :=
  let takeForward (e : Forward) (es : List Forward) : Frame × LinkQueues :=
    (e.frame, { q with forward := es, last := .forward, sending := some e.frame })
  let takeNotice (n : Frame) (ns : List Frame) : Frame × LinkQueues :=
    (n, { q with notices := ns, last := .notice, sending := some n })
  match q.replies with
  | f :: fs => some (f, { q with replies := fs, replyCount := q.replyCount - 1, sending := some f })
  | [] =>
    match q.forward, q.notices with
    | e :: es, n :: ns =>
      match q.last with
      | .notice => some (takeForward e es)
      | .forward => some (takeNotice n ns)
    | e :: es, [] => some (takeForward e es)
    | [], n :: ns => some (takeNotice n ns)
    | [], [] => none

/-- A link's queues, count, flag, counter, receiver and frame in sending after a link reset of it (R155 steps 1 and
2, R156 steps 1 and 2, R169). -/
def LinkQueues.linkReset (q : LinkQueues) : LinkQueues :=
  { q with replies := [], replyCount := 0, notices := [], overflow := false, counter := 0, forward := [],
           sending := none, rx := Receiver.hunting }

/-- R155 steps 1 to 4: the remote link is lost. -/
def Router.loseRemote (r : Router) : Router :=
  let r1 := r.setLink .remote (r.link .remote).linkReset
  (r1.abort .remote false).abort .primary true

/-- R156 steps 1 to 4: a LINK reset of the primary link. -/
def Router.resetPrimary (r : Router) : Router :=
  let r1 := r.setLink .primary (r.link .primary).linkReset
  (r1.abort .primary false).abort .remote true

/-! ### The router in the whole part -/

/-- Hand a notice to the router for a link. -/
def State.notify (s : State) (l : Link) (n : Notice) : State := { s with router := s.router.place l n }

/-- Hand notices to the router in order. -/
def State.notifyAll (s : State) (ns : List Sent) : State := { s with router := s.router.placeAll ns }

/-- The time base (R81). -/
def State.now (s : State) : Word32 := s.sensors.time

end Sys2Proof.Machine
end

