-- ==== Sys2Proof/Machine/Motion.lean ====
section
/-! DEFINITION. The arithmetic of motion (02): profile steps (R28, R29, R31, R32, R34, R57), the control law (R36 to
R38), supply compensation (R39) and the current budget (R40). -/

namespace Sys2Proof.Machine

/-- A profile: position q in micro-degrees, speed S in mdps, phase. -/
structure Profile where
  q : Int
  spd : Int
  phase : Phase
  deriving DecidableEq, Repr

/-- Micro-degrees in a degree. -/
def microDeg : Int := 1000000

/-- R27: the range of q. -/
def clampQ (q : Int) : Int := clamp (-2000000000000000) 2000000000000000 q

/-- +1 or -1 for a value that is not 0 (R28). -/
def signOf (x : Int) : Int := if 0 < x then 1 else if x < 0 then -1 else 0

/-- R29: floor(v² / (2b)). -/
def brakingDistance (v b : Int) : Int := v * v / (2 * b)

/-- R27: the creep speed. -/
def creepSpeed (b : Int) : Int := max b 20000

/-- R31: whether the first step of a MOVE marks it SHORT. -/
def startsShort (q spd target b : Int) : Bool :=
  let d := target * microDeg - q
  let v := signOf d * spd
  if d = 0 then spd ≠ 0 else 0 < v ∧ brakingDistance v b > absInt d

/-- R29: the phase and the new speed toward the target, `v` not negative. -/
def approach (v d C a b : Int) : Phase × Int :=
  if 0 < v ∧ brakingDistance v b ≥ absInt d then
    if v - b > creepSpeed b then (.decel, v - b) else (.creep, creepSpeed b)
  else if v < C then (.accel, min (v + a) C)
  else if v > C then (.decel, max (v - b) C)
  else (.cruise, v)

/-- One MOVE step (R28, R29): target `T` in degrees, cruise `C` in mdps, rates `a` and `b`. -/
def moveStep (q spd T C a b : Int) : Profile :=
  let d := T * microDeg - q
  if d = 0 then { q := q, spd := 0, phase := .done }
  else
    let σ := signOf d
    let v := σ * spd
    if v < 0 then
      let w := min 0 (v + b)
      { q := clampQ (q + σ * w), spd := σ * w, phase := .reverse }
    else
      let r := approach v d C a b
      let s := min r.2 (absInt d)
      if s = absInt d then { q := clampQ (q + σ * s), spd := 0, phase := .done }
      else { q := clampQ (q + σ * s), spd := σ * r.2, phase := r.1 }

/-- R32: the phase and the new S of a SPEED step toward the signed cruise `C`. -/
def speedToward (spd C a b : Int) : Phase × Int :=
  if spd = C then (.cruise, spd)
  else if spd ≠ 0 ∧ signOf spd ≠ signOf C then (.decel, signOf spd * max (absInt spd - b) 0)
  else if absInt spd < absInt C then (.accel, signOf C * min (absInt spd + a) (absInt C))
  else (.decel, signOf C * max (absInt spd - b) (absInt C))

/-- One SPEED step (R32). -/
def speedStep (q spd C a b : Int) : Profile :=
  let r := speedToward spd C a b
  { q := clampQ (q + r.2), spd := r.2, phase := r.1 }

/-- S moved toward 0 by a rate, stopping at 0 (R34). -/
def slowed (spd rate : Int) : Int := signOf spd * max (absInt spd - rate) 0

/-- One stopping or holding step (R34). R34 names the steps of the phases STOPPING and HOLDING only; a channel that R25
computes in another phase, such as one in IDLE with rest action HOLD and phase DONE, takes the holding step with q as it
was left, the model's choice (log entry 71). -/
def stopStep (x : Profile) (rate : Int) : Profile :=
  if x.phase = .stopping then
    let w := slowed x.spd rate
    { q := clampQ (x.q + w), spd := w, phase := if w = 0 then .holding else .stopping }
  else { x with phase := .holding }

/-- One stopping step of a held MOVE, cut at its target `T` (R57). -/
def heldMoveStep (x : Profile) (rate T : Int) : Profile :=
  if x.phase = .stopping then
    let w := slowed x.spd rate
    let d := T * microDeg - x.q
    if w ≠ 0 ∧ (d = 0 ∨ signOf w = signOf d) ∧ absInt d ≤ absInt w then { q := T * microDeg, spd := 0, phase := .holding }
    else stopStep x rate
  else stopStep x rate

/-- What the control law keeps (R36 to R38): I, u_c and the saturated flag. -/
structure Control where
  integ : Int
  uc : Int
  sat : Bool
  deriving DecidableEq, Repr

/-- R36: the error, clamped. -/
def trackError (q enc : Int) : Int := clamp (-10000) 10000 (roundMicro q - enc)

/-- R37: the anti-windup condition. -/
def windsUp (c : Control) (e : Int) : Bool := c.sat && decide (e ≠ 0) && decide (signOf e = signOf c.uc)

/-- R37: the integral after an error. -/
def integrate (g : Gains) (c : Control) (e : Int) : Int :=
  if windsUp c e then c.integ else clamp (-(g.iLimit : Int)) g.iLimit (c.integ + e)

/-- R38: u_raw. -/
def rawOutput (g : Gains) (e i f : Int) : Int :=
  truncDiv (g.kp * e + truncDiv (g.ki * i) 256 + g.kf * f) 16

/-- One expiry of the control law (R36 to R38). -/
def controlLaw (g : Gains) (q spd enc : Int) (c : Control) : Control :=
  let e := trackError q enc
  let i := integrate g c e
  let raw := rawOutput g e i (truncDiv spd 1000)
  { integ := i, uc := clamp (-1000) 1000 raw, sat := decide (clamp (-1000) 1000 raw ≠ raw) }

/-- R39: supply compensation. -/
def compensate (uc vb : Int) : Int := clamp (-1000) 1000 (truncDiv (uc * 7200) vb)

/-- R40: the current budget. -/
def budgeted (u lam : Int) : Int := truncDiv (u * lam) 1000

end Sys2Proof.Machine
end

