-- ==== Sys2Proof/Machine/Segments.lean ====
section
/-! DEFINITION. What one motor channel does with its segments (01, 03): the motor kinds, ending segments, applying rest
actions, taking the head segment, the pause permission. Every function works on one channel record and gives the
SEGMENT_END notices it sends. -/

namespace Sys2Proof.Machine

/-! ### Motor kinds (01 1.1) -/

/-- The maximum speed in dps. -/
def MotorKind.maxSpeed : MotorKind → Nat
  | .none => 0 | .small => 1200 | .large => 900

/-- The economy cap in dps. -/
def MotorKind.economyCap : MotorKind → Nat
  | .none => 0 | .small => 840 | .large => 630

/-- The rated current in mA. -/
def MotorKind.ratedCurrent : MotorKind → Nat
  | .none => 0 | .small => 600 | .large => 1200

/-- The gains taken at attach; a port with no motor has none (log entry 5). -/
def MotorKind.gains : MotorKind → Gains
  | .none => { kp := 0, ki := 0, kf := 0, iLimit := 0 }
  | .small => { kp := 300, ki := 48, kf := 9, iLimit := 20000 }
  | .large => { kp := 400, ki := 64, kf := 12, iLimit := 20000 }

/-! ### Endings (R45) -/

def Segment.isMove (g : Segment) : Bool := g.kind == .moveTo || g.kind == .moveBy

/-- The target a SEGMENT_END or a MOTOR_STATUS shows for a current segment. -/
def Segment.shownTarget (g : Segment) : Option Int := if g.isMove then some g.target else none

/-- The SEGMENT_END notice of a segment, if its notify field asks for one (R45). -/
def segmentEnd (p : MotorPort) (g : Segment) (o : SegOutcome) (enc : Int) (target : Option Int) (left : Nat) :
    List Sent :=
  if g.notify then [{ link := g.origin, notice := .segmentEnd p g.kind g.reqTag o enc target left }] else []

/-- The deceleration R34 gives a stop after a segment ends: that of the segment, or of the one before a STOP. -/
def decelAfter (before : Option Nat) (g : Segment) : Option Nat :=
  if g.kind = .stop then before else some g.decel

/-- The rate R34 takes for a stop, 4000 when no segment ended before it. -/
def Channel.rateBefore (c : Channel) : Nat := c.decelBefore.getD 4000

/-- The current segment leaves the channel, with its step mark (R59). -/
def Channel.dropCurrent (c : Channel) : Channel :=
  match c.current with
  | none => c
  | some g =>
    { c with current := none, decelBefore := decelAfter c.decelBefore g,
             stepMark := if c.stepMark = .active then .none else c.stepMark }

/-- The notices of the current segment and then of each queued one, head to tail, all ended by one event. -/
def Channel.endNotices (p : MotorPort) (c : Channel) (first rest : SegOutcome) : List Sent :=
  (match c.current with
    | none => []
    | some g => segmentEnd p g first c.enc g.shownTarget 0) ++
  c.queue.flatMap (fun g => segmentEnd p g rest c.enc none 0)

/-- The channel once its current and queued segments have ended: no pause field of R61 is left. -/
def Channel.emptied (c : Channel) : Channel :=
  { c.dropCurrent with queue := [], allowance := 0, stepMark := .none, resume := none, heldAction := none,
                       stallTimer := 0, starved := false }

/-- How many segments an ending of all of them ends (R17): 0 to 9. -/
def Channel.segmentCount (c : Channel) : Nat := (if c.current.isSome then 1 else 0) + c.queue.length

/-! ### Rest actions (R6) -/

/-- The drive of a rest action that stops the computation (R26). R26 gives no drive for HOLD: a live channel that it
reaches with HOLD in force has its output off for that expiry, the model's choice (log entry 64). -/
def restDrive (live : Bool) (a : Rest) : Drive :=
  if live then (match a with | .coast => .off | .brake => .shorted | .hold => .off) else .off

/-- COAST or BRAKE takes hold: q follows E, S and the control state are 0, the output goes (R6, R33, R41). -/
def Channel.unwound (live : Bool) (a : Rest) (c : Channel) : Channel :=
  { c with q := c.enc * microDeg, spd := 0, phase := .done, integ := 0, uc := 0, sat := false, applied := 0,
           drive := restDrive live a }

/-- A stop begins at a rate: phase STOPPING, or HOLDING when S is 0 already (R34). -/
def Channel.beginStop (rate : Nat) (c : Channel) : Channel :=
  { c with phase := if c.spd = 0 then .holding else .stopping, stopRate := rate }

def Channel.profile (c : Channel) : Profile := { q := c.q, spd := c.spd, phase := c.phase }

def Channel.withProfile (c : Channel) (x : Profile) : Channel := { c with q := x.q, spd := x.spd, phase := x.phase }

/-- An action applied as R6 applies an end action, the last target removed by COAST and BRAKE (R4); `live` is
false in CRITICAL and SLEEP. -/
def Channel.applyAction (live : Bool) (a : Rest) (rate : Nat) (c : Channel) : Channel :=
  match a with
  | .hold => c.beginStop rate
  | _ => { c.unwound live a with lastTarget := none }

/-- The action becomes the rest action in force and is applied. -/
def Channel.takeRest (live : Bool) (a : Rest) (rate : Nat) (c : Channel) : Channel :=
  { c.applyAction live a rate with rest := a }

/-- An event stops the channel: segments gone, action applied, IDLE. The rate is that of the segment that was
current, or 4000 (R17). -/
def Channel.stopWith (live : Bool) (a : Rest) (c : Channel) : Channel :=
  let rate := if c.current.isSome then c.emptied.rateBefore else 4000
  { c.emptied.takeRest live a rate with state := .idle }

/-- A stop that OFF and FAULT outlast (R12, R22): OFF records the rest action (log entry 17), FAULT applies it with
its output off. -/
def Channel.stopKeeping (live : Bool) (a : Rest) (c : Channel) : Channel :=
  match c.state with
  | .off => { c.emptied with rest := a }
  | .fault => { c.emptied.takeRest live a 4000 with drive := .off }
  | _ => c.stopWith live a

/-! ### Becoming current (R3, R4, R27, R59) -/

/-- R4: the target of a MOVE_BY. -/
def moveByTarget (last : Option Int) (q distance : Int) : Int :=
  clamp (-1000000) 1000000 (last.getD (roundMicro q) + distance)

/-- A segment with its target in force, as it becomes current. -/
def Channel.planned (c : Channel) (g : Segment) : Segment :=
  if g.kind = .moveBy then { g with target := moveByTarget c.lastTarget c.q g.distance } else g

/-- A segment leaves the head of the queue and becomes current; a STOP applies its end action at once (R7). -/
def Channel.becomeCurrent (live : Bool) (g : Segment) (rest : List Segment) (c : Channel) : Channel :=
  let g' := c.planned g
  let c1 : Channel :=
    { c with queue := rest, current := some g', state := .running, short := false, firstStep := true, steps := 0,
             lastTarget := if g'.isMove then some g'.target else c.lastTarget,
             stepMark := if c.stepMark = .pending then .active else c.stepMark,
             allowance := min (c.allowance - 1) rest.length }
  if g.kind = .stop then c1.takeRest live g.endAction c1.rateBefore else c1

/-- R50: the channel waits at the barrier, stopping or holding. -/
def Channel.enterWait (c : Channel) : Channel :=
  { c.beginStop c.rateBefore with state := .syncWait, rest := .hold, stallTimer := 0, starved := false }

/-- What leads a channel to its head segment: a segment that has just ended, or the channel resting in IDLE. -/
inductive Boundary
  | ended (g : Segment)
  | resting
  deriving DecidableEq, Repr

/-- R56: the channel is held at a segment boundary. -/
def Channel.holdAt (live : Bool) (b : Boundary) (c : Channel) : Channel :=
  let c1 :=
    match b with
    | .resting => { c with heldAction := some c.rest }
    | .ended g =>
      match g.endAction with
      | .hold => { c.beginStop c.rateBefore with heldAction := some .hold }
      | a => { c.unwound live a with heldAction := some a }
  { c1 with state := .held, resume := some .idle, stallTimer := 0, starved := false }

/-- R6: the queue is empty at an ending. -/
def Channel.goIdle (live : Bool) (b : Boundary) (c : Channel) : Channel :=
  match b with
  | .resting => c
  | .ended g =>
    { c.takeRest live g.endAction c.rateBefore with state := .idle, stallTimer := 0, starved := false }

/-- R54: the permission to start the head segment. -/
def Channel.permitted (pause : PauseState) (c : Channel) : Bool :=
  pause == .running || c.policy == .free || (c.policy == .queueEnd && decide (0 < c.allowance)) ||
    c.stepMark == .pending

/-- A STOP that ends in the expiry in which it became current (R7). -/
def stopsAtOnce (g : Segment) (c : Channel) : Bool := g.kind == .stop && (g.endAction != .hold || c.spd == 0)

/-- The head segment starts; a STOP that ends at once gives its DONE. The channel after it, its notices, and the
segment that ended. -/
def Channel.startHead (live : Bool) (p : MotorPort) (g : Segment) (rest : List Segment) (c : Channel) :
    Channel × List Sent × Option Segment :=
  let c1 := c.becomeCurrent live g rest
  if stopsAtOnce g c1 then (c1.dropCurrent, segmentEnd p g .done c1.enc none rest.length, some g)
  else (c1, [], none)

/-- The channel moves on at a boundary (R3, R5, R6, R7, R50, R56). The fuel bounds the STOP segments that end in the
expiry in which they became current; a queue of n needs n + 1. -/
def Channel.moveOn (pause : PauseState) (live : Bool) (p : MotorPort) :
    Nat → Boundary → Channel → Channel × List Sent
  | 0, b, c => (c.goIdle live b, [])
  | n + 1, b, c =>
    match c.queue with
    | [] => (c.goIdle live b, [])
    | g :: rest =>
      if c.permitted pause then
        if g.syncTag = 0 then
          match c.startHead live p g rest with
          | (c1, ns, none) => (c1, ns)
          | (c1, ns, some e) =>
            let r := Channel.moveOn pause live p n (.ended e) c1
            (r.1, ns ++ r.2)
        else (c.enterWait, [])
      else (c.holdAt live b, [])

/-- A current segment ends DONE, SHORT or UNSETTLED and the channel moves on (R5). -/
def Channel.complete (pause : PauseState) (live : Bool) (p : MotorPort) (g : Segment) (o : SegOutcome) (c : Channel) :
    Channel × List Sent :=
  let c1 := c.dropCurrent
  let r := c1.moveOn pause live p (c1.queue.length + 1) (.ended g)
  (r.1, segmentEnd p g o c.enc g.shownTarget c.queue.length ++ r.2)

/-- The stopping step of this expiry brings S to 0 (R34). -/
def Channel.stopLands (live : Bool) (c : Channel) : Bool :=
  live && c.state == .running && (stopStep c.profile c.stopRate).spd == 0

/-- R7: a current STOP with HOLD takes the stopping step that brings S to 0 and ends DONE; the next head becomes
current in the same expiry (R5). That step moves q by 0, so the first step of the next segment is the one profile step
of the expiry (R25; log entry 13). -/
def Channel.finishStop (pause : PauseState) (live : Bool) (p : MotorPort) (c : Channel) : Channel × List Sent :=
  match c.current with
  | some g =>
    if g.kind = .stop ∧ c.stopLands live then
      (c.withProfile (stopStep c.profile c.stopRate)).complete pause live p g .done
    else (c, [])
  | none => (c, [])

/-- A head segment released at the barrier leaves the queue (R51). -/
def Channel.startReleased (pause : PauseState) (live : Bool) (p : MotorPort) (c : Channel) : Channel × List Sent :=
  match c.queue with
  | [] => (c, [])
  | g :: rest =>
    match c.startHead live p g rest with
    | (c1, ns, none) => (c1, ns)
    | (c1, ns, some e) =>
      let r := c1.moveOn pause live p (rest.length + 1) (.ended e)
      (r.1, ns ++ r.2)

/-- A member of a released group: its head becomes current and takes its first step in this expiry (R51), a STOP with
HOLD ending at once when that step brings S to 0 (R7). -/
def Channel.released (pause : PauseState) (live : Bool) (p : MotorPort) (c : Channel) : Channel × List Sent :=
  let r := c.startReleased pause live p
  let f := r.1.finishStop pause live p
  (f.1, r.2 ++ f.2)

/-! ### The sync group in a queue (R50, R53) -/

/-- Whether a segment belongs to a group. -/
def Segment.inGroup (g : Group) (s : Segment) : Bool := s.syncTag == g.tag && s.members == g.members

/-- The group of a segment. -/
def Segment.group (s : Segment) : Group := { tag := s.syncTag, members := s.members }

/-- Whether the channel waits at the barrier, paused or not (R52). -/
def Channel.waits (c : Channel) : Bool :=
  c.state == .syncWait || (c.state == .held && c.resume == some .syncWait)

/-- A queue without the segments that a break of groups ends, and those segments from head to tail: of each group the
first one counted from the head (R50, R53). -/
def takeBroken : List Group → List Segment → List Segment × List Segment
  | _, [] => ([], [])
  | gs, s :: rest =>
    if gs.contains s.group then
      let r := takeBroken (gs.filter (fun g => g != s.group)) rest
      (r.1, s :: r.2)
    else
      let r := takeBroken gs rest
      (s :: r.1, r.2)

/-- R53, on one member: of each broken group the first segment in its queue ends SYNC_BROKEN, head to tail, and every
notice carries what is left after them all (R45). -/
def Channel.breakGroups (gs : List Group) (p : MotorPort) (c : Channel) : Channel × List Sent :=
  match takeBroken gs c.queue with
  | (_, []) => (c, [])
  | (left, ended) =>
    let atHead := c.queue.head?.any (fun s => gs.contains s.group)
    let c1 : Channel :=
      { c with queue := left, allowance := min c.allowance left.length,
               stepMark := if atHead && c.stepMark == .pending then .none else c.stepMark }
    let c2 : Channel :=
      if atHead && c.waits then { c1 with state := .idle, rest := .hold, resume := none, heldAction := none } else c1
    (c2, ended.flatMap (fun s => segmentEnd p s .syncBroken c.enc none left.length))

/-! ### Attach, detach, fault, stall -/

/-- R43: the per-channel fields of endings, as a reset or an attach leaves them. -/
def Channel.endingsCleared (c : Channel) : Channel :=
  { c with settleTime := 0, inTol := 0, short := false, stallTimer := 0, starved := false, overCount := 0,
           prevEnc := 0, resume := none, heldAction := none, allowance := 0, stepMark := .none }

/-- R1: a motor attaches. -/
def Channel.attach (k : MotorKind) (c : Channel) : Channel :=
  { c.endingsCleared with
      kind := k, state := .idle, enc := 0, q := 0, spd := 0, phase := .done, integ := 0, uc := 0, sat := false,
      lastTarget := none, fault := none, gains := k.gains, decelBefore := none }

/-- R2: the motor detaches. -/
def Channel.detach (p : MotorPort) (c : Channel) : Channel × List Sent :=
  ({ c.emptied with state := .off, drive := .off, applied := 0, mA := 0, rest := .coast, kind := .none, fault := none },
   c.endNotices p .detached .detached)

/-- R48: the channel enters FAULT. -/
def Channel.enterFault (p : MotorPort) (c : Channel) : Channel × List Sent :=
  ({ c.emptied.unwound false .coast with
      state := .fault, fault := some .overcurrent, rest := .coast, overCount := 0 },
   c.endNotices p .fault .fault)

/-- R47: the channel stops for a stall. -/
def Channel.stallStop (live : Bool) (p : MotorPort) (c : Channel) : Channel × List Sent :=
  (c.stopWith live .coast, c.endNotices p .stalled .cancelled)

/-- R58: a policed channel is at rest, or the channel is not policed. -/
def Channel.atRest (c : Channel) : Bool :=
  c.policy == .free ||
    ((c.state == .held || c.state == .idle || c.state == .off || c.state == .fault) && c.phase != .stopping &&
      c.stepMark == .none)

end Sys2Proof.Machine
end

