-- ==== Sys2Proof/Machine/Groups.lean ====
section
/-! DEFINITION. What the motor controller does over its six channels: events on several ports, open sync groups and
their breaks (R50 to R53), the release of marked channels (R23), the pause test (R58). -/

namespace Sys2Proof.Machine

/-- Write one channel record. -/
def Motors.setCh (m : Motors) (p : MotorPort) (c : Channel) : Motors := { m with ch := m.ch.set p c }

/-- Apply an event to ports one by one, its notices in that order. -/
def Motors.onPorts (f : MotorPort → Channel → Channel × List Sent) : List MotorPort → Motors → Motors × List Sent
  | [], m => (m, [])
  | p :: ps, m =>
    let r := f p (m.ch.get p)
    let r2 := Motors.onPorts f ps (m.setCh p r.1)
    (r2.1, r.2 ++ r2.2)

/-- The group a channel waits for at the barrier. -/
def Channel.waitGroup (c : Channel) : Option Group :=
  if c.state = .syncWait then c.queue.head?.map Segment.group else none

/-- The groups of the channels in SYNC_WAIT that are not open yet, each once (R50). -/
def Motors.newGroups (m : Motors) : List Group :=
  MotorPort.all.foldl
    (fun acc p =>
      match (m.ch.get p).waitGroup with
      | none => acc
      | some g => if m.groups.contains g || acc.contains g then acc else acc ++ [g]) []

/-- A group is open from the entry of its first member into SYNC_WAIT (R50). -/
def Motors.noteGroups (m : Motors) : Motors := { m with groups := m.groups ++ m.newGroups }

/-- The groups of a list with the port as a member. -/
def groupsOf (p : MotorPort) (gs : List Group) : List Group := gs.filter (fun g => g.members.contains p)

/-- R53: the groups that one event breaks, broken together, port by port from A to F (R45; log entry 56). -/
def Motors.breakAll : List Group → Motors → Motors × List Sent
  | [], m => (m, [])
  | g :: gs, m =>
    Motors.onPorts (fun p c => c.breakGroups (groupsOf p (g :: gs)) p) MotorPort.all
      { m with groups := m.groups.filter (fun h => !(g :: gs).contains h) }

/-- The open groups with one of the ports as a member (R52). -/
def Motors.groupsOn (m : Motors) (ps : List MotorPort) : List Group :=
  m.groups.filter (fun g => g.members.any (fun p => ps.contains p))

/-- R23: a marked channel with nothing left to run is released. -/
def Channel.finishRelease (c : Channel) : Channel :=
  if c.lostLink && c.current.isNone && c.queue.isEmpty then { c with holder := none, lostLink := false } else c

/-- R23 on every channel. -/
def Motors.finishReleases (m : Motors) : Motors := { m with ch := m.ch.map Channel.finishRelease }

/-- The ports in HELD, as PAUSE_STATE carries them (R58); their order A to F is the model's choice (log entry 50). -/
def Motors.heldPorts (m : Motors) : List MotorPort := MotorPort.all.filter (fun p => (m.ch.get p).state == .held)

/-- PAUSE_STATE with the pause state as it stands (R58). -/
def Motors.pauseNotice (m : Motors) : List Sent :=
  [{ link := .primary, notice := .pauseState m.pause m.heldPorts }]

/-- The condition of R58. -/
def Motors.allAtRest (m : Motors) : Bool := MotorPort.all.all (fun p => (m.ch.get p).atRest)

/-- The test of R58. -/
def Motors.pauseTest (m : Motors) : Motors × List Sent :=
  if m.pause = .pausing ∧ m.allAtRest then
    let m1 := { m with pause := .paused }
    (m1, m1.pauseNotice)
  else (m, [])

/-- The last part of every event on the channels: `ps` are the ports on which R52 counts the event. Breaks follow
the event's own notices (R53), then R23 and R58. -/
def Motors.conclude (ps : List MotorPort) (m : Motors) : Motors × List Sent :=
  let m1 := m.noteGroups
  let r := Motors.breakAll (m1.groupsOn ps) m1
  let r2 := r.1.finishReleases.pauseTest
  (r2.1, r.2 ++ r2.2)

/-- An event on ports and its conclusion, every port counted by R52. -/
def Motors.event (f : MotorPort → Channel → Channel × List Sent) (ps : List MotorPort) (m : Motors) :
    Motors × List Sent :=
  let r := Motors.onPorts f ps m
  let r2 := r.1.conclude ps
  (r2.1, r.2 ++ r2.2)

/-! ### The examination of R51 -/

/-- Whether a channel waits with its segment of the group at the head. -/
def Channel.readyFor (g : Group) (c : Channel) : Bool := c.waitGroup == some g

/-- R51: every member waits with its segment of the group at the head. -/
def Motors.releases (m : Motors) (g : Group) : Bool := g.members.all (fun p => (m.ch.get p).readyFor g)

/-- R52: a member waits with a head segment of another tag or member set (log entry 31). -/
def Motors.mismatched (m : Motors) (g : Group) : Bool :=
  g.members.any (fun p =>
    let c := m.ch.get p
    c.waits && c.queue.head?.any (fun s => !s.inGroup g))

/-- Release one group after another, in the order in which the groups opened, the members of each from A to F (R51). The
order of groups released at one examination is the model's choice (log entry 72). -/
def Motors.releaseAll (live : Bool) : List Group → Motors → Motors × List Sent
  | [], m => (m, [])
  | g :: gs, m =>
    let r := Motors.onPorts (fun p c => c.released m.pause live p) g.members
      { m with groups := m.groups.filter (fun h => h != g) }
    let r2 := Motors.releaseAll live gs r.1
    (r2.1, r.2 ++ r2.2)

/-- R51 and R52: the examination of a list of open groups, all decided on the same states; then of the groups that the
releases themselves opened. The fuel bounds the STOP segments that can pass a barrier in one expiry. That every break
of an examination, with its notices, goes before its releases and theirs is the model's choice (log entry 73). -/
def Motors.examine (live : Bool) : Nat → List Group → Motors → Motors × List Sent
  | 0, _, m => (m, [])
  | n + 1, gs, m =>
    let r := Motors.breakAll (gs.filter m.mismatched) m
    let r2 := Motors.releaseAll live (gs.filter m.releases) r.1
    match r2.1.newGroups with
    | [] => (r2.1, r.2 ++ r2.2)
    | new =>
      let r3 := Motors.examine live n new r2.1.noteGroups
      (r3.1, r.2 ++ (r2.2 ++ r3.2))

end Sys2Proof.Machine
end

