-- ==== Sys2Proof/Machine/Expiry.lean ====
section
/-! DEFINITION. The control expiry (R25): ending checks (R33, R44, R46 to R48), handover and head segments, the
examination of the barrier, the computation of each channel and its output (R26, R41). The events that the table
names apart (DURATION_END, SEGMENT_SETTLED, SETTLE_LIMIT_REACHED, STALL, OVERCURRENT_FAULT) share its checks. -/

namespace Sys2Proof.Machine

/-- What a control expiry reads of the supply monitor: whether motors may be driven (neither CRITICAL nor SLEEP),
V_b and lambda (R25, R39, R40). -/
structure Feed where
  live : Bool
  vb : Nat
  lam : Nat
  deriving DecidableEq, Repr

/-- A channel after a check: its record, its notices, and whether R52 counts the event on it. -/
structure Checked where
  ch : Channel
  sent : List Sent
  flushed : Bool
  deriving DecidableEq, Repr

/-- A check that did nothing to the queue. -/
def Checked.quiet (c : Channel) : Checked := { ch := c, sent := [], flushed := false }

/-- Follow one check by the next. -/
def Checked.andThen (x : Checked) (f : Channel → Checked) : Checked :=
  let y := f x.ch
  { ch := y.ch, sent := x.sent ++ y.sent, flushed := x.flushed || y.flushed }

def Checked.ofPair (flushed : Bool) (r : Channel × List Sent) : Checked :=
  { ch := r.1, sent := r.2, flushed := flushed }

/-- R25 item 1: E and the measured current are read; E saturates (01 1.1). -/
def Channel.readInputs (r : MotorReading) (c : Channel) : Channel :=
  if c.kind = .none then c
  else { c with enc := clamp (-2000000000) 2000000000 (c.enc + r.delta), mA := r.current }

/-! ### The ending checks -/

/-- R48: the current is above twice the rated current. -/
def Channel.overCurrent (c : Channel) : Bool := decide (2 * (c.kind.ratedCurrent : Int) < absInt c.mA)

/-- Whether the overcurrent check applies to the channel (R48). -/
def Channel.currentChecked (c : Channel) : Bool := c.kind != .none && c.state != .fault

/-- R48. -/
def Channel.checkCurrent (p : MotorPort) (c : Channel) : Checked :=
  if c.currentChecked then
    if c.overCurrent then
      if 50 ≤ c.overCount + 1 then Checked.ofPair true (c.enterFault p)
      else Checked.quiet { c with overCount := c.overCount + 1 }
    else Checked.quiet { c with overCount := 0 }
  else Checked.quiet c

/-- R33: the duration of the current segment is used up. -/
def Channel.durationUsed (g : Segment) (c : Channel) : Bool :=
  c.state == .running && (g.kind == .duty || g.kind == .speed) && decide (g.duration ≤ c.steps)

/-- R44: the counts after one settling check. -/
def Channel.settleCounted (g : Segment) (c : Channel) : Channel :=
  { c with settleTime := c.settleTime + 1,
           inTol := if absInt (g.target - c.enc) ≤ g.tolerance then c.inTol + 1 else 0 }

/-- R44: the outcome of a settled MOVE. -/
def Channel.settledOutcome (c : Channel) : SegOutcome := if c.short then .short else .done

/-- R33, R44: the completion checks, with the handover. -/
def Channel.checkDone (pause : PauseState) (live : Bool) (p : MotorPort) (c : Channel) : Checked :=
  match c.current with
  | none => Checked.quiet c
  | some g =>
    if c.durationUsed g then Checked.ofPair false (c.complete pause live p g .done)
    else if c.state = .settling then
      let c1 := c.settleCounted g
      if g.settleCount ≤ c1.inTol then Checked.ofPair false (c1.complete pause live p g c1.settledOutcome)
      else if g.settleLimit ≤ c1.settleTime then Checked.ofPair false (c1.complete pause live p g .unsettled)
      else Checked.quiet c1
    else Checked.quiet c

/-- R46: the motor moved, or the applied output `u` of the previous expiry did not drive it hard. -/
def Channel.notBlocked (u : Int) (c : Channel) : Bool := c.enc != c.prevEnc || decide (absInt u < 900)

/-- R46, R47; `u` is the applied output that the previous expiry left (R25 item 2). -/
def Channel.checkStall (live : Bool) (lam : Nat) (u : Int) (p : MotorPort) (c : Channel) : Checked :=
  if c.state = .running ∨ c.state = .settling then
    if c.notBlocked u then Checked.quiet { c with stallTimer := 0, starved := false }
    else
      let c1 : Channel :=
        if lam < 1000 then { c with starved := true } else { c with stallTimer := c.stallTimer + 1, starved := false }
      if c1.stallTime ≤ c1.stallTimer then Checked.ofPair true (c1.stallStop live p) else Checked.quiet c1
  else Checked.quiet { c with stallTimer := 0, starved := false }

/-- R3: a channel in IDLE takes its head segment, or is held. -/
def Channel.takeHead (pause : PauseState) (live : Bool) (p : MotorPort) (c : Channel) : Checked :=
  if c.state = .idle then Checked.ofPair false (c.moveOn pause live p (c.queue.length + 1) .resting)
  else Checked.quiet c

/-- R25 items 1 to 3 on one channel, with the ending of a STOP (R7, log entry 13). Every check reads the applied output
as the previous expiry left it. -/
def Channel.expiryChecks (pause : PauseState) (f : Feed) (p : MotorPort) (r : MotorReading) (c : Channel) : Checked :=
  if c.kind = .none then Checked.quiet c
  else
    (((((Checked.quiet (c.readInputs r)).andThen (Channel.checkCurrent p)).andThen
      (Channel.checkDone pause f.live p)).andThen (Channel.checkStall f.live f.lam c.applied p)).andThen
      (Channel.takeHead pause f.live p)).andThen
      (fun d => Checked.ofPair false (d.finishStop pause f.live p))

/-! ### The stages (R25 item 4) -/

/-- R25: the conditions in which a channel is computed. A channel held at a segment boundary is computed only while its
held action is HOLD (R56). -/
def Channel.computed (live : Bool) (c : Channel) : Bool :=
  live &&
    (match c.state with
      | .running => true
      | .settling => true
      | .syncWait => true
      | .held => (c.phase == .stopping || c.phase == .holding) && c.heldAction.getD .hold == .hold
      | .idle => c.rest == .hold
      | .off => false
      | .fault => false)

/-- The stopping or holding step of R34, cut at the target of a held MOVE (R57). -/
def Channel.restStep (c : Channel) : Channel :=
  match c.current with
  | some g =>
    if c.state = .held ∧ g.isMove then c.withProfile (heldMoveStep c.profile c.stopRate g.target)
    else c.withProfile (stopStep c.profile c.stopRate)
  | none => c.withProfile (stopStep c.profile c.stopRate)

/-- The MOVE step with its SHORT mark and its landing (R28 to R31, R44). -/
def Channel.moveStep (g : Segment) (c : Channel) : Channel :=
  let x := Machine.moveStep c.q c.spd g.target (g.cruise * 1000) g.accel g.decel
  let c1 : Channel :=
    { c.withProfile x with
        short := if c.firstStep then startsShort c.q c.spd g.target g.decel else c.short, firstStep := false }
  if x.phase = .done then { c1 with state := .settling, settleTime := 0, inTol := 0 } else c1

/-- The SPEED step (R32), counted against the duration (R33). -/
def Channel.speedStep (g : Segment) (c : Channel) : Channel :=
  { c.withProfile (Machine.speedStep c.q c.spd (g.cruise * 1000) g.accel g.decel) with steps := c.steps + 1 }

/-- Stage 2 (R36 to R38). -/
def Channel.controlled (c : Channel) : Channel :=
  let k := controlLaw c.gains c.q c.spd c.enc { integ := c.integ, uc := c.uc, sat := c.sat }
  { c with integ := k.integ, uc := k.uc, sat := k.sat }

/-- The DUTY path (R35), counted against the duration (R33). -/
def Channel.dutyStep (g : Segment) (c : Channel) : Channel :=
  { c with q := c.enc * microDeg, spd := 0, phase := .done, integ := 0, uc := g.duty, sat := false,
           steps := c.steps + 1 }

/-- Stages 1 and 2 for the condition the channel is in (R25). -/
def Channel.commanded (c : Channel) : Channel :=
  match c.state, c.current with
  | .running, some g =>
    match g.kind with
    | .duty => c.dutyStep g
    | .speed => (c.speedStep g).controlled
    | .moveTo => (Channel.moveStep g c).controlled
    | .moveBy => (Channel.moveStep g c).controlled
    | .stop => c.restStep.controlled
  | .settling, _ => c.controlled
  | _, _ => c.restStep.controlled

/-- Stages 3 and 4, applied to the motor (R39 to R41). -/
def Channel.outputDriven (f : Feed) (c : Channel) : Channel :=
  { c with applied := budgeted (compensate c.uc f.vb) f.lam, drive := .driven }

/-- The action that stands for the rest action in R26. -/
def Channel.restInForce (c : Channel) : Rest :=
  if c.state = .held then c.heldAction.getD c.rest else c.rest

/-- R26: a channel that is not computed follows its motor. -/
def Channel.followMotor (live : Bool) (c : Channel) : Channel :=
  let a := c.restInForce
  let c1 := c.unwound (live && c.state != .fault) a
  { c1 with phase := if a = .hold then .holding else .done }

/-- R25 items 4 and 5 on one channel. -/
def Channel.work (f : Feed) (c : Channel) : Channel :=
  if c.kind = .none then c
  else
    let d := if c.computed f.live then c.commanded.outputDriven f else c.followMotor f.live
    { d with prevEnc := d.enc }

/-! ### The whole expiry -/

/-- R25 items 1 to 3 on the ports in order, with the ports on which R52 counts an event. -/
def Motors.checkPorts (f : Feed) (r : Six MotorReading) : List MotorPort → Motors → Motors × List Sent × List MotorPort
  | [], m => (m, [], [])
  | p :: ps, m =>
    let x := (m.ch.get p).expiryChecks m.pause f p (r.get p)
    let y := Motors.checkPorts f r ps (m.setCh p x.ch)
    (y.1, x.sent ++ y.2.1, if x.flushed then p :: y.2.2 else y.2.2)

/-- The control expiry of the motor controller (R25, R51). The whole expiry counts as the one event of R53: a break
that the stall or overcurrent check of one port causes is carried out after all six channels have made their checks and
taken their heads (log entry 48). -/
def Motors.expiry (f : Feed) (r : Six MotorReading) (m : Motors) : Motors × List Sent :=
  let x := Motors.checkPorts f r MotorPort.all m
  let m1 := x.1.noteGroups
  let b := Motors.breakAll (m1.groupsOn x.2.2) m1
  let e := Motors.examine f.live 9 b.1.groups b.1
  let t := ({ e.1 with ch := e.1.ch.map (Channel.work f) } : Motors).finishReleases.pauseTest
  (t.1, x.2.1 ++ (b.2 ++ (e.2 ++ t.2)))

/-- The sum a control expiry adds to the current sum (R164). -/
def Motors.totalCurrent (m : Motors) : Nat :=
  (MotorPort.all.map (fun p => if (m.ch.get p).kind = .none then 0 else (absInt (m.ch.get p).mA).toNat)).sum

/-! ### The events of the ending checks, taken apart (log entry 3) -/

/-- A check on one channel as an event of its own. -/
def Motors.oneCheck (p : MotorPort) (x : Checked) (m : Motors) : Motors × List Sent :=
  let r := (m.setCh p x.ch).conclude (if x.flushed then [p] else [])
  (r.1, x.sent ++ r.2)

/-- DURATION_END (R33). -/
def Motors.durationEnd (f : Feed) (p : MotorPort) (m : Motors) : Motors × List Sent :=
  let c := m.ch.get p
  match c.current with
  | some g =>
    if c.durationUsed g then m.oneCheck p (Checked.ofPair false (c.complete m.pause f.live p g .done)) else (m, [])
  | none => (m, [])

/-- SEGMENT_SETTLED (R44): this settling check reaches the settle count. -/
def Motors.segmentSettled (f : Feed) (p : MotorPort) (m : Motors) : Motors × List Sent :=
  let c := m.ch.get p
  match c.current with
  | some g =>
    let c1 := c.settleCounted g
    if c.state = .settling ∧ g.settleCount ≤ c1.inTol then
      m.oneCheck p (Checked.ofPair false (c1.complete m.pause f.live p g c1.settledOutcome))
    else (m, [])
  | none => (m, [])

/-- SETTLE_LIMIT_REACHED (R44): this settling check reaches the settle limit and not the settle count. -/
def Motors.settleLimit (f : Feed) (p : MotorPort) (m : Motors) : Motors × List Sent :=
  let c := m.ch.get p
  match c.current with
  | some g =>
    let c1 := c.settleCounted g
    if c.state = .settling ∧ ¬ g.settleCount ≤ c1.inTol ∧ g.settleLimit ≤ c1.settleTime then
      m.oneCheck p (Checked.ofPair false (c1.complete m.pause f.live p g .unsettled))
    else (m, [])
  | none => (m, [])

/-- STALL (R46, R47): this stall check reaches the stall time. -/
def Motors.stall (f : Feed) (p : MotorPort) (m : Motors) : Motors × List Sent :=
  let x := (m.ch.get p).checkStall f.live f.lam (m.ch.get p).applied p
  if x.flushed then m.oneCheck p x else (m, [])

/-- OVERCURRENT_FAULT (R48): this overcurrent check reaches 50. -/
def Motors.overcurrentFault (p : MotorPort) (m : Motors) : Motors × List Sent :=
  let x := (m.ch.get p).checkCurrent p
  if x.flushed then m.oneCheck p x else (m, [])

end Sys2Proof.Machine
end

