-- ==== Sys2Proof/Machine/MotorEvents.lean ====
section
/-! DEFINITION. Events on the motor controller other than its own expiry: PAUSE, STEP and RESUME (R55 to R60), the
power state (R8), the loss of the remote link (R22, R23), the watch cut (R104), the ID lines (R1, R2) and resets
(R24, R43). -/

namespace Sys2Proof.Machine

/-- A channel leaves SYNC_WAIT, RUNNING or SETTLING for HELD, to come back on RESUME. -/
def Channel.pauseIn (r : Resume) (c : Channel) : Channel :=
  { c with state := .held, resume := some r, heldAction := none, stallTimer := 0, starved := false }

/-- R57: a channel under IMMEDIATE stops; a STOP goes on at the rate it had. -/
def Channel.pauseAtOnce (r : Resume) (c : Channel) : Channel :=
  match c.current with
  | none => c.pauseIn r
  | some g => if g.kind = .stop then c.pauseIn r else (c.beginStop g.decel).pauseIn r

/-- R55: the set-up of a channel by its hold policy on entering PAUSING. -/
def Channel.pauseSetUp (c : Channel) : Channel :=
  match c.policy with
  | .free => c
  | .segmentEnd => if c.state = .syncWait then c.pauseIn .syncWait else c
  | .queueEnd => { c with allowance := c.queue.length }
  | .immediate =>
    match c.state with
    | .running => c.pauseAtOnce .running
    | .settling => c.pauseAtOnce .settling
    | .syncWait => c.pauseIn .syncWait
    | _ => c

/-- R55, in RUNNING: the notice carries the state the request leaves, PAUSING or at once PAUSED. -/
def Motors.pauseNow (m : Motors) : Motors × List Sent :=
  let m1 : Motors := { m with ch := m.ch.map Channel.pauseSetUp, pause := .pausing }
  let m2 : Motors := if m1.allAtRest then { m1 with pause := .paused } else m1
  (m2, m2.pauseNotice)

/-- R59: the channels a STEP picks out. -/
def Channel.steppable (c : Channel) : Bool :=
  c.policy == .segmentEnd && c.state == .held && (c.resume == some .idle || c.resume == some .syncWait) &&
    !c.queue.isEmpty

/-- R59: a stepped channel returns to its resume state (log entry 33). -/
def Channel.stepped (c : Channel) : Channel :=
  if c.steppable then
    { c with stepMark := .pending, state := if c.resume = some .syncWait then .syncWait else .idle, resume := none,
             heldAction := none }
  else c

/-- The ports a STEP picks out, as its reply carries them; their order A to F is the model's choice (log entry 50). -/
def Motors.steppablePorts (m : Motors) : List MotorPort := MotorPort.all.filter (fun p => (m.ch.get p).steppable)

/-- R59, in PAUSED with a channel to step. -/
def Motors.stepNow (m : Motors) : Motors × List Sent :=
  let m1 : Motors := { m with ch := m.ch.map Channel.stepped, pause := .pausing }
  (m1, m1.pauseNotice)

/-- R60: a held channel goes back to its resume state. A channel resumed to RUNNING has the phase HOLDING until its
next step, a choice (log entry 49): the rule names no phase. -/
def Channel.unheld (c : Channel) : Channel :=
  if c.state = .held then
    match c.resume with
    | some .syncWait => { c with state := .syncWait }
    | some .running => { c with state := .running, spd := 0, phase := .holding }
    | some .settling => { c with state := .settling, spd := 0, phase := .done, inTol := 0 }
    | _ => { c with state := .idle }
  else c

/-- R60: a channel released by RESUME. -/
def Channel.resumed (c : Channel) : Channel :=
  { c.unheld with allowance := 0, heldAction := none, resume := none, stepMark := .none }

/-- R60, in PAUSING or PAUSED. -/
def Motors.resumeNow (m : Motors) : Motors × List Sent :=
  let m1 : Motors := { m with ch := m.ch.map Channel.resumed, pause := .running }
  (m1, m1.pauseNotice)

/-- R8: whether entry into CRITICAL stops the channel. -/
def Channel.hasSegments (c : Channel) : Bool :=
  (c.current.isSome || !c.queue.isEmpty) && c.state != .off && c.state != .fault

/-- R8, R41: the drive goes. -/
def Channel.driveOff (c : Channel) : Channel := { c with applied := 0, drive := .off }

/-- R8: entry into CRITICAL. -/
def Motors.enterCritical (m : Motors) : Motors × List Sent :=
  let r := Motors.event (fun p c => (c.stopWith false .coast, c.endNotices p .power .power))
    (MotorPort.all.filter (fun p => (m.ch.get p).hasSegments)) m
  ({ r.1 with ch := r.1.ch.map Channel.driveOff }, r.2)

/-- R8: CRITICAL ends, and a rest action BRAKE takes effect again; HOLD does so at the next expiry. It counts as no
new application of R4 and leaves the last target, the model's choice (log entry 62). -/
def Channel.restAgain (c : Channel) : Channel :=
  if (c.state = .idle ∨ c.state = .held) ∧ c.restInForce = .brake then { c with drive := .shorted } else c

def Motors.leaveCritical (m : Motors) : Motors := { m with ch := m.ch.map Channel.restAgain }

/-- R22: a channel held by REMOTE is stopped and released. -/
def Channel.linkLost (live : Bool) (p : MotorPort) (c : Channel) : Channel × List Sent :=
  ({ c.stopKeeping live .brake with holder := none, lostLink := false }, c.endNotices p .linkLost .linkLost)

/-- R23: a channel held by REMOTE is marked. -/
def Channel.markLost (p : MotorPort) (c : Channel) : Channel × List Sent :=
  let _ := p
  ({ c with lostLink := true }, [])

/-- The ports held by REMOTE. -/
def Motors.remotePorts (m : Motors) : List MotorPort :=
  MotorPort.all.filter (fun p => (m.ch.get p).holder == some .remote)

/-- R22, R23: the loss of the remote link. Under FINISH no queue is flushed. Under STOP a channel that an earlier loss
under FINISH marked is stopped and released like any other that REMOTE holds, the model's choice (log entry 70): R23
says that a second loss report changes nothing while the mark is set. -/
def Motors.remoteLost (live : Bool) (policy : LossPolicy) (m : Motors) : Motors × List Sent :=
  match policy with
  | .stop => Motors.event (Channel.linkLost live) m.remotePorts m
  | .finish =>
    let r := Motors.onPorts Channel.markLost m.remotePorts m
    let r2 := r.1.conclude []
    (r2.1, r.2 ++ r2.2)

/-- R104: the SEGMENT_END notices of a watch cut; a channel in SYNC_WAIT ends its waiting head CUT. -/
def Channel.cutNotices (p : MotorPort) (c : Channel) : List Sent :=
  match c.state, c.queue with
  | .syncWait, g :: rest =>
    segmentEnd p g .cut c.enc none 0 ++ rest.flatMap (fun h => segmentEnd p h .cancelled c.enc none 0)
  | _, _ => c.endNotices p .cut .cancelled

/-- R104: a watch cut of one channel. -/
def Channel.cut (live : Bool) (a : Rest) (p : MotorPort) (c : Channel) : Channel × List Sent :=
  (c.stopWith live a, c.cutNotices p)

/-- R104: the ports an action skips. -/
def Channel.cutSkips (c : Channel) : Bool := c.kind == .none || c.state == .fault

/-- R104: a BRAKE or COAST action on a set of ports, with the ports skipped. -/
def Motors.watchCut (live : Bool) (a : Rest) (ps : List MotorPort) (m : Motors) :
    Motors × List Sent × List MotorPort :=
  let skipped := (portSet ps).filter (fun p => (m.ch.get p).cutSkips)
  let r := Motors.event (Channel.cut live a) ((portSet ps).filter (fun p => !(m.ch.get p).cutSkips)) m
  (r.1, r.2, skipped)

/-- The motor kind of an ID-line class (R1). -/
def motorKindOf : MotorIdClass → MotorKind
  | .openLine => .none | .small => .small | .large => .large

/-- R1, R2: one sample of a port's ID line; the second of two equal samples decides (log entry 16). The flag says
that the motor detached, so that R52 counts the event. -/
def Channel.idSample (p : MotorPort) (k : MotorIdClass) (c : Channel) : Checked :=
  let seen : Channel := { c with idLast := some k }
  if c.idLast = some k ∧ motorKindOf k ≠ c.kind then
    if c.kind = .none then Checked.quiet (seen.attach (motorKindOf k))
    else
      let r := seen.detach p
      Checked.ofPair true (if motorKindOf k = .none then r.1 else r.1.attach (motorKindOf k), r.2)
  else Checked.quiet seen

/-- R1, R2: the samples of the ports in order, with the ports whose motor detached. -/
def Motors.idSamples (k : Six MotorIdClass) : List MotorPort → Motors → Motors × List Sent × List MotorPort
  | [], m => (m, [], [])
  | p :: ps, m =>
    let x := (m.ch.get p).idSample p (k.get p)
    let y := Motors.idSamples k ps (m.setCh p x.ch)
    (y.1, x.sent ++ y.2.1, if x.flushed then p :: y.2.2 else y.2.2)

/-- MOTOR_ID_SAMPLE (R1, R2). The sample of all six ports counts as the one event of R53: the breaks that its detaches
cause follow the last port, so members that detach on one sample all end DETACHED, the model's choice (log entry 74). -/
def Motors.idSample (k : Six MotorIdClass) (m : Motors) : Motors × List Sent :=
  let x := Motors.idSamples k MotorPort.all m
  let r := x.1.conclude x.2.2
  (r.1, x.2.1 ++ r.2)

/-- R24, R43: a channel after a SOFT reset: as POWER_ON, with its motor kept. -/
def Channel.soft (c : Channel) : Channel :=
  { Channel.reset with kind := c.kind, state := if c.kind = .none then .off else .idle, gains := c.kind.gains }

/-- R24, R43: SOFT. -/
def Motors.soft (m : Motors) : Motors := { Motors.reset with ch := m.ch.map Channel.soft }

end Sys2Proof.Machine
end

