-- ==== Sys2Proof/Machine/MotorRequests.lean ====
section
/-! DEFINITION. The motor requests (R9 to R21, R49): their fields, checks, effects and replies. -/

namespace Sys2Proof.Machine

/-- The motor controller after a request: its record, the notices handed over, the reply. -/
structure MotorAnswer where
  motors : Motors
  sent : List Sent
  reply : Reply
  deriving DecidableEq, Repr

/-- A request that has no effect. -/
def MotorAnswer.none (m : Motors) (r : Reply) : MotorAnswer := { motors := m, sent := [], reply := r }

/-- What a changing request does to its channel; `flushed` says that R52 counts it as a flush. -/
structure Change where
  ch : Channel
  sent : List Sent
  flushed : Bool
  reply : Reply
  deriving DecidableEq, Repr

/-- A request that leaves its channel as it is. -/
def Change.none (c : Channel) (r : Reply) : Change := { ch := c, sent := [], flushed := false, reply := r }

/-- The requester holds the port, and a lost-link mark is cleared (R9, R23). -/
def Channel.claimedBy (l : Link) (c : Channel) : Channel := { c with holder := some l, lostLink := false }

/-- R9: the checks of a changing request and its effect with the implicit claim. -/
def Motors.changing (needsMotor : Bool) (l : Link) (p : MotorPort) (act : Channel → Change) (m : Motors) :
    MotorAnswer :=
  let c := m.ch.get p
  if needsMotor && c.kind == .none then MotorAnswer.none m (Reply.refuse .noMotor)
  else if c.holder = some l.other then MotorAnswer.none m (Reply.refuse .held)
  else
    let x := act c
    if x.reply.accepted then
      let r := (m.setCh p (x.ch.claimedBy l)).conclude (if x.flushed then [p] else [])
      { motors := r.1, sent := x.sent ++ r.2, reply := x.reply }
    else MotorAnswer.none m x.reply

/-- A request on a motor port: the port is read first, and its failure refuses the request with every field failure
(R174). -/
def Motors.onPort (port : Val MotorPort) (others : List Check) (act : MotorPort → MotorAnswer) (m : Motors) :
    MotorAnswer :=
  match port with
  | .val p => act p
  | v => MotorAnswer.none m (.invalid (v.need ++ others))

/-! ### CLAIM and RELEASE (R10 to R12) -/

/-- R11: a seize of one port. OFF records its rest action; FAULT keeps its own (log entry 17). -/
def Channel.seize (live : Bool) (p : MotorPort) (c : Channel) : Channel × List Sent :=
  let c1 : Channel :=
    match c.state with
    | .off => { c.emptied with rest := .brake }
    | .fault => c.emptied
    | _ => c.stopWith live .brake
  ({ c1 with holder := some .primary, lostLink := false }, c.endNotices p .seized .seized)

/-- The outcome of a claim or release for one port. -/
inductive PortOutcome | granted | seized | refused
  deriving DecidableEq, Repr

/-- R10: the outcome for a holder and a requester. -/
def claimOutcome (l : Link) (holder : Option Link) : PortOutcome :=
  match holder with
  | none => .granted
  | some h => if h = l then .granted else if l = .primary then .seized else .refused

/-- R10 on one port. -/
def Channel.claim (live : Bool) (l : Link) (p : MotorPort) (c : Channel) : Channel × List Sent × PortOutcome :=
  match claimOutcome l c.holder with
  | .granted => (c.claimedBy l, [], .granted)
  | .seized =>
    let r := c.seize live p
    (r.1, r.2, .seized)
  | .refused => (c, [], .refused)

/-- R12 on one port; the port is counted by R52 only when its segments were ended. -/
def Channel.release (live : Bool) (l : Link) (p : MotorPort) (c : Channel) : Channel × List Sent × PortOutcome :=
  match c.holder with
  | none => (c, [], .granted)
  | some h =>
    if h = l then
      ({ c.stopKeeping live .coast with holder := none, lostLink := false }, c.endNotices p .cancelled .cancelled,
        .seized)
    else (c, [], .refused)

/-- Ports taken one by one in the order listed, with the outcome of each. -/
def Motors.takePorts (f : MotorPort → Channel → Channel × List Sent × PortOutcome) :
    List MotorPort → Motors → Motors × List Sent × List (MotorPort × PortOutcome)
  | [], m => (m, [], [])
  | p :: ps, m =>
    let r := f p (m.ch.get p)
    let y := Motors.takePorts f ps (m.setCh p r.1)
    (y.1, r.2.1 ++ y.2.1, (p, r.2.2) :: y.2.2)

/-- The ports with one of the outcomes, as a set: in the order A to F, each once, whatever the order in which the
request names them. The order inside the sets of a reply and of SEIZED is the model's choice (log entry 50). -/
def portsWith (os : List PortOutcome) (xs : List (MotorPort × PortOutcome)) : List MotorPort :=
  portSet ((xs.filter (fun x => os.contains x.2)).map (fun x => x.1))

/-- The status of CLAIM and RELEASE. -/
def portsStatus (xs : List (MotorPort × PortOutcome)) : Status :=
  if xs.any (fun x => x.2 == .refused) then .held else .ok

/-- R11: the SEIZED notice, if a port was seized. -/
def seizedNotice (ps : List MotorPort) : List Sent :=
  if ps = [] then [] else [{ link := .remote, notice := .seized ps }]

/-- CLAIM (R10, R11). -/
def Motors.claim (live : Bool) (l : Link) (fs : Fields) (m : Motors) : MotorAnswer :=
  match motorPortsField 1 fs with
  | .val ps =>
    let x := Motors.takePorts (Channel.claim live l) ps m
    let seized := portsWith [.seized] x.2.2
    let r := x.1.conclude seized
    { motors := r.1, sent := x.2.1 ++ (r.2 ++ seizedNotice seized),
      reply := .plain (portsStatus x.2.2)
        (field 1 (portBytes (portsWith [.granted] x.2.2)) ++ field 2 (portBytes seized) ++
          field 3 (portBytes (portsWith [.refused] x.2.2))) }
  | v => MotorAnswer.none m (.invalid v.need)

/-- RELEASE (R12). -/
def Motors.release (live : Bool) (l : Link) (fs : Fields) (m : Motors) : MotorAnswer :=
  match motorPortsField 1 fs with
  | .val ps =>
    let x := Motors.takePorts (Channel.release live l) ps m
    let r := x.1.conclude (portsWith [.seized] x.2.2)
    { motors := r.1, sent := x.2.1 ++ r.2,
      reply := .plain (portsStatus x.2.2)
        (field 1 (portBytes (portsWith [.granted, .seized] x.2.2)) ++
          field 2 (portBytes (portsWith [.refused] x.2.2))) }
  | v => MotorAnswer.none m (.invalid v.need)

/-! ### QUEUE_SEGMENT (R13 to R15) -/

/-- The fields of a QUEUE_SEGMENT other than its port (11.5). -/
structure SegmentFields where
  kind : Val SegKind
  duty : Val Int
  duration : Val Nat
  cruise : Val Int
  accel : Val Nat
  decel : Val Nat
  target : Val Int
  distance : Val Int
  tolerance : Val Nat
  settleCount : Val Nat
  settleLimit : Val Nat
  endAction : Val Rest
  syncTag : Val Nat
  members : Val (List MotorPort)
  notify : Val Bool
  reqTag : Val Nat

/-- Reading them. -/
def SegmentFields.read (fs : Fields) : SegmentFields :=
  { kind := enumField 2 segKindOfCode fs, duty := intField 3 fs, duration := natField 4 fs, cruise := intField 5 fs,
    accel := natField 6 fs, decel := natField 7 fs, target := intField 8 fs, distance := intField 9 fs,
    tolerance := natField 10 fs, settleCount := natField 11 fs, settleLimit := natField 12 fs,
    endAction := enumField 13 restOfCode fs, syncTag := natField 14 fs, members := motorPortsField 15 fs,
    notify := flagField 16 fs, reqTag := natFieldIn 17 0 65535 fs }

/-- A field the kind does not use is ignored (R14). -/
def Val.onlyIf {α : Type} (b : Bool) (v : Val α) : Val α := if b then v else .absent

/-- Whether a kind is one of a list, none when the kind did not decode. -/
def Val.kindIn (v : Val SegKind) (ks : List SegKind) : Bool :=
  match v with
  | .val k => ks.contains k
  | _ => false

/-- The fields the kind uses, the others absent (R14; 1.3). With a kind that is absent or did not decode, no field that
depends on the kind is used, and with such a sync tag the member set is not, so none of them fails a check, not even
FIELD: the model's choice (log entry 68). -/
def SegmentFields.used (x : SegmentFields) : SegmentFields :=
  let moves := x.kind.kindIn [.moveTo, .moveBy]
  let ramps := x.kind.kindIn [.speed, .moveTo, .moveBy]
  { x with duty := x.duty.onlyIf (x.kind.kindIn [.duty]), duration := x.duration.onlyIf (x.kind.kindIn [.duty, .speed]),
           cruise := x.cruise.onlyIf ramps, accel := x.accel.onlyIf ramps, decel := x.decel.onlyIf ramps,
           target := x.target.onlyIf (x.kind.kindIn [.moveTo]), distance := x.distance.onlyIf (x.kind.kindIn [.moveBy]),
           tolerance := x.tolerance.onlyIf moves, settleCount := x.settleCount.onlyIf moves,
           settleLimit := x.settleLimit.onlyIf moves,
           members := x.members.onlyIf (x.syncTag.get?.any (fun n => n != 0)) }

/-- The failure of a field that a kind requires. -/
def Val.needIf {α : Type} (b : Bool) (v : Val α) : List Check := if b then v.need else v.fails

/-- The field failures of the used fields, MISSING_FIELD among them (R14, R174). -/
def SegmentFields.failures (x : SegmentFields) : List Check :=
  x.kind.need ++ x.duty.needIf (x.kind.kindIn [.duty]) ++ x.duration.needIf (x.kind.kindIn [.duty, .speed]) ++
    x.cruise.needIf (x.kind.kindIn [.speed, .moveTo, .moveBy]) ++ x.accel.fails ++ x.decel.fails ++
    x.target.needIf (x.kind.kindIn [.moveTo]) ++ x.distance.needIf (x.kind.kindIn [.moveBy]) ++ x.tolerance.fails ++
    x.settleCount.fails ++ x.settleLimit.fails ++ x.endAction.fails ++ x.syncTag.fails ++
    x.members.needIf (x.syncTag.get?.any (fun n => n != 0)) ++ x.notify.fails ++ x.reqTag.fails

/-- A value outside a range. -/
def outside (lo hi : Int) (x : Int) : Bool := decide (x < lo) || decide (hi < x)

def outsideNat (lo hi : Nat) (n : Nat) : Bool := decide (n < lo) || decide (hi < n)

/-- SPEED_RANGE. -/
def badCruise (k : Val SegKind) (c : Int) : Bool :=
  if k.kindIn [.speed] then c == 0 || decide (2000 < absInt c) else outside 1 2000 c

/-- SETTLE_ORDER, with the default for one that is absent (log entry 12); left out when one did not decode, the model's
choice (log entry 68). -/
def badOrder (count limit : Val Nat) : Bool :=
  match count, limit with
  | .val a, .val b => decide (b < a)
  | .val a, .absent => decide (1000 < a)
  | .absent, .val b => decide (b < 20)
  | _, _ => false

/-- SYNC_MASK for the members of a segment on a port. -/
def badMembers (m : Motors) (l : Link) (p : MotorPort) (ps : List MotorPort) : Bool :=
  !ps.contains p || ps.any (fun q => (m.ch.get q).kind == .none || (q != p && (m.ch.get q).holder != some l))

/-- The checks of R14 on the used fields. -/
def SegmentFields.checks (m : Motors) (l : Link) (p : MotorPort) (x : SegmentFields) : List Check :=
  x.duty.violates .dutyRange (outside (-1000) 1000) ++ x.duration.violates .durationRange (outsideNat 1 600000) ++
    x.cruise.violates .speedRange (badCruise x.kind) ++ x.accel.violates .accelRange (outsideNat 100 20000) ++
    x.decel.violates .decelRange (outsideNat 100 20000) ++
    x.target.violates .targetRange (outside (-1000000) 1000000) ++
    x.distance.violates .targetRange (fun d => d == 0 || outside (-1000000) 1000000 d) ++
    x.tolerance.violates .toleranceRange (outsideNat 0 30) ++
    x.settleCount.violates .toleranceRange (outsideNat 1 255) ++
    x.settleLimit.violates .toleranceRange (outsideNat 10 5000) ++
    (if badOrder x.settleCount x.settleLimit then [.settleOrder] else []) ++
    x.syncTag.violates .syncMask (fun n => decide (7 < n)) ++ x.members.violates .syncMask (badMembers m l p)

/-- The segment record of fields that passed (1.3), its cruise speed not yet clamped. -/
def SegmentFields.segment (l : Link) (x : SegmentFields) : Segment :=
  let accel := x.accel.get?.getD 4000
  { kind := x.kind.get?.getD .stop, duty := x.duty.get?.getD 0, duration := x.duration.get?.getD 0,
    cruise := x.cruise.get?.getD 0, accel := accel, decel := x.decel.get?.getD accel,
    target := x.target.get?.getD 0, distance := x.distance.get?.getD 0, tolerance := x.tolerance.get?.getD 2,
    settleCount := x.settleCount.get?.getD 20, settleLimit := x.settleLimit.get?.getD 1000,
    endAction := x.endAction.get?.getD .brake, syncTag := x.syncTag.get?.getD 0,
    members := portSet (x.members.get?.getD []), notify := x.notify.get?.getD true,
    reqTag := x.reqTag.get?.getD 0, origin := l }

/-- R15: the highest cruise speed taken now. -/
def cruiseLimit (power : PowerState) (k : MotorKind) : Nat :=
  if power = .economy then k.economyCap else k.maxSpeed

/-- R15: the cruise speed kept. -/
def keptCruise (power : PowerState) (k : MotorKind) (c : Int) : Int :=
  clamp (-(cruiseLimit power k : Int)) (cruiseLimit power k) c

/-- R13 checks 3 to 7 and the join. -/
def Channel.queueSegment (power : PowerState) (m : Motors) (l : Link) (p : MotorPort) (x : SegmentFields)
    (c : Channel) : Change :=
  let bad := x.failures ++ x.checks m l p
  if c.state = .fault then Change.none c (Reply.refuse .fault)
  else if power = .critical then Change.none c (Reply.refuse .power)
  else if 8 ≤ c.queue.length then Change.none c (Reply.refuse .full)
  else if bad ≠ [] then Change.none c (.invalid bad)
  else
    let g := x.segment l
    let kept := keptCruise power c.kind g.cruise
    let count := fieldNat 1 1 (c.queue.length + 1)
    { ch := { c with queue := c.queue ++ [{ g with cruise := kept }] }, sent := [], flushed := false,
      reply := if kept = g.cruise then .plain .ok count else .clamped [5] (count ++ fieldInt 2 2 kept) }

/-- QUEUE_SEGMENT (R13). -/
def Motors.queueSegment (power : PowerState) (l : Link) (fs : Fields) (m : Motors) : MotorAnswer :=
  let x := (SegmentFields.read fs).used
  m.onPort (motorPortField 1 fs) x.failures
    (fun p => m.changing true l p (Channel.queueSegment power m l p x))

/-! ### The other requests on a port -/

/-- R16: what FLUSH does to a channel. -/
def Channel.flush (p : MotorPort) (c : Channel) : Change :=
  let waiting := c.state == .syncWait || (c.state == .held && c.current.isNone)
  let c1 : Channel :=
    { c with queue := [], allowance := 0,
             stepMark := if c.stepMark = .pending ∧ c.queue ≠ [] then .none else c.stepMark }
  { ch := if waiting then { c1 with state := .idle, resume := none, heldAction := none, stepMark := .none } else c1,
    sent := c.queue.flatMap (fun g => segmentEnd p g .cancelled c.enc none 0), flushed := true,
    reply := .plain .ok (fieldNat 1 1 c.queue.length) }

/-- FLUSH (R16). -/
def Motors.flush (l : Link) (fs : Fields) (m : Motors) : MotorAnswer :=
  m.onPort (motorPortField 1 fs) [] (fun p => m.changing true l p (Channel.flush p))

/-- R17. -/
def Channel.stopNow (live : Bool) (a : Rest) (p : MotorPort) (c : Channel) : Change :=
  if c.state = .fault then Change.none c (Reply.refuse .fault)
  else
    { ch := c.stopWith live a, sent := c.endNotices p .cancelled .cancelled, flushed := true,
      reply := .plain .ok (fieldNat 1 1 c.segmentCount) }

/-- STOP_NOW (R17). -/
def Motors.stopNow (live : Bool) (l : Link) (fs : Fields) (m : Motors) : MotorAnswer :=
  let a := enumField 2 restOfCode fs
  m.onPort (motorPortField 1 fs) a.need
    (fun p =>
      match a with
      | .val a => m.changing true l p (Channel.stopNow live a p)
      | v => MotorAnswer.none m (.invalid v.need))

/-- R18. -/
def Channel.zeroCount (c : Channel) : Change :=
  if c.state = .idle ∧ c.spd = 0 ∧ c.phase ≠ .stopping then
    { ch := { c with enc := 0, q := 0, integ := 0, lastTarget := none }, sent := [], flushed := false,
      reply := Reply.ok }
  else Change.none c (Reply.refuse .busy)

/-- ZERO_COUNT (R18). -/
def Motors.zeroCount (l : Link) (fs : Fields) (m : Motors) : MotorAnswer :=
  m.onPort (motorPortField 1 fs) [] (fun p => m.changing true l p Channel.zeroCount)

/-- The fields of SET_GAINS: the gains in their order, and the defaults flag. -/
structure GainFields where
  kp : Val Nat
  ki : Val Nat
  kf : Val Nat
  iLimit : Val Nat
  defaults : Val Bool

def GainFields.read (fs : Fields) : GainFields :=
  { kp := natField 2 fs, ki := natField 3 fs, kf := natField 4 fs, iLimit := natField 5 fs,
    defaults := flagField 6 fs }

/-- R19: the fields ignored beside a set defaults flag fail nothing (log entry 11). -/
def GainFields.failures (x : GainFields) : List Check :=
  if x.defaults.get? = some true then []
  else x.kp.fails ++ x.ki.fails ++ x.kf.fails ++ x.iLimit.fails ++ x.defaults.fails

/-- R19: a gain replaced, clamped, or left. -/
def newGain (hi old : Nat) (v : Val Nat) : Nat :=
  match v.get? with
  | some n => min hi n
  | none => old

/-- R19: the field's number when its value was clamped. -/
def clampedName (k hi : Nat) (v : Val Nat) : List Nat := if (v.get?.getD 0) ≤ hi then [] else [k]

/-- I held within a new I_limit (R19). -/
def Channel.withGains (g : Gains) (c : Channel) : Channel :=
  { c with gains := g, integ := clamp (-(g.iLimit : Int)) g.iLimit c.integ }

/-- R19. A CLAMPED reply carries all four gains as fields 1 to 4, the model's choice (log entry 8). -/
def Channel.setGains (x : GainFields) (c : Channel) : Change :=
  if x.defaults.get? = some true then
    { ch := c.withGains c.kind.gains, sent := [], flushed := false, reply := Reply.ok }
  else
    let g : Gains :=
      { kp := newGain 4095 c.gains.kp x.kp, ki := newGain 4095 c.gains.ki x.ki, kf := newGain 4095 c.gains.kf x.kf,
        iLimit := newGain 1000000 c.gains.iLimit x.iLimit }
    let names := clampedName 2 4095 x.kp ++ clampedName 3 4095 x.ki ++ clampedName 4 4095 x.kf ++
      clampedName 5 1000000 x.iLimit
    { ch := c.withGains g, sent := [], flushed := false,
      reply := if names = [] then Reply.ok
        else .clamped names (fieldNat 1 2 g.kp ++ fieldNat 2 2 g.ki ++ fieldNat 3 2 g.kf ++ fieldNat 4 4 g.iLimit) }

/-- SET_GAINS (R19). It has no INVALID step, so a field failure refuses it at once (R174). -/
def Motors.setGains (l : Link) (fs : Fields) (m : Motors) : MotorAnswer :=
  let x := GainFields.read fs
  m.onPort (motorPortField 1 fs) x.failures
    (fun p =>
      if x.failures ≠ [] then MotorAnswer.none m (.invalid x.failures)
      else m.changing true l p (Channel.setGains x))

/-- R20. -/
def Channel.setPolicy (pause : PauseState) (policy : Val HoldPolicy) (stall : Val Nat) (c : Channel) : Change :=
  let bad := policy.fails ++ stall.fails ++ stall.violates .stallRange (outsideNat 50 2000)
  if bad ≠ [] then Change.none c (.invalid bad)
  else if policy.get?.isSome ∧ pause ≠ .running then Change.none c (Reply.refuse .busy)
  else
    { ch := { c with policy := policy.get?.getD c.policy, stallTime := stall.get?.getD c.stallTime }, sent := [],
      flushed := false, reply := Reply.ok }

/-- SET_POLICY (R20). A failing port refuses it at once with the field failures alone; POLICY and STALL_RANGE are the
rule's own checks and are not reached (R174). -/
def Motors.setPolicy (l : Link) (fs : Fields) (m : Motors) : MotorAnswer :=
  let policy := enumFieldAs .policy 2 policyOfCode fs
  let stall := natField 3 fs
  m.onPort (motorPortField 1 fs) ((natField 2 fs).fails ++ stall.fails)
    (fun p => m.changing false l p (Channel.setPolicy m.pause policy stall))

/-- R49. -/
def Channel.clearFault (live : Bool) (c : Channel) : Change :=
  { ch := if c.state = .fault then
      { c.takeRest live .coast 4000 with fault := none, overCount := 0, state := .idle } else c,
    sent := [], flushed := false, reply := Reply.ok }

/-- CLEAR_FAULT (R49). -/
def Motors.clearFault (live : Bool) (l : Link) (fs : Fields) (m : Motors) : MotorAnswer :=
  m.onPort (motorPortField 1 fs) [] (fun p => m.changing true l p (Channel.clearFault live))

/-- R21: the reply of MOTOR_STATUS, its fields in the order of the rule (log entry 8). -/
def Channel.statusData (c : Channel) : List Byte :=
  fieldNat 1 1 (motorKindCode c.kind) ++ fieldNat 2 1 (holderCode c.holder) ++ fieldNat 3 1 (chStateCode c.state) ++
    fieldNat 4 1 (restCode c.rest) ++ fieldNat 5 1 (phaseCode c.phase) ++ fieldNat 6 1 c.queue.length ++
    fieldNat 7 1 (flagCode c.lostLink) ++
    fieldOpt c.current (fun g =>
      fieldNat 8 1 (segKindCode g.kind) ++ fieldNat 9 2 g.reqTag ++ fieldNat 10 1 (linkCode g.origin) ++
        fieldOpt g.shownTarget (fieldInt 11 4)) ++
    fieldInt 12 4 c.enc ++ fieldInt 13 4 c.mA ++ fieldInt 14 2 c.applied ++ fieldNat 15 1 (flagCode c.starved) ++
    fieldOpt c.fault (fun _ => fieldNat 16 1 0) ++ fieldNat 17 2 c.gains.kp ++ fieldNat 18 2 c.gains.ki ++
    fieldNat 19 2 c.gains.kf ++ fieldNat 20 4 c.gains.iLimit ++ fieldNat 21 1 (policyCode c.policy) ++
    fieldNat 22 2 c.stallTime

/-- MOTOR_STATUS (R21). -/
def Motors.motorStatus (fs : Fields) (m : Motors) : MotorAnswer :=
  m.onPort (motorPortField 1 fs) [] (fun p => MotorAnswer.none m (.plain .ok (m.ch.get p).statusData))

end Sys2Proof.Machine
end

