-- ==== Sys2Proof/Machine/Store.lean ====
section
/-! DEFINITION. The sound store (07): the region table, the upload window, reading, compaction. What holds a region in
use besides the window stands outside the store and is given as two tests. -/

namespace Sys2Proof.Machine

/-- The voices that play a region and the captures that write into it, as tests on its id (R113). -/
structure Uses where
  voice : Nat → Bool
  capture : Nat → Bool

/-- The length rounded up to blocks of 64 bytes (7.1). -/
def Region.extent (r : Region) : Nat := ceilDiv r.length 64

/-- The base in blocks. -/
def Region.block (r : Region) : Nat := r.base / 64

/-- The blocks of the store. -/
def blockCount : Nat := 2048

/-- The region with an id. -/
def Store.find (st : Store) (id : Nat) : Option Region := st.regions.find? (fun r => r.id == id)

/-- Change the region with an id. -/
def Store.update (st : Store) (id : Nat) (f : Region → Region) : Store :=
  { st with regions := replaceFirst (fun r => r.id == id) f st.regions }

/-- Whether the open window targets a region. -/
def Store.windowOn (st : Store) (id : Nat) : Bool := st.window.any (fun w => w.region == id)

/-- R113. -/
def Store.inUse (st : Store) (u : Uses) (id : Nat) : Bool := u.voice id || u.capture id || st.windowOn id

/-- The gaps of free blocks after the block `at`, lowest first: first block and size (R115). -/
def gapsFrom (start : Nat) : List Region → List (Nat × Nat)
  | [] => if start < blockCount then [(start, blockCount - start)] else []
  | r :: rs =>
    (if start < r.block then [(start, r.block - start)] else []) ++ gapsFrom (r.block + r.extent) rs

def Store.gaps (st : Store) : List (Nat × Nat) := gapsFrom 0 st.regions

/-- The number of free blocks. -/
def Store.freeBlocks (st : Store) : Nat := (st.gaps.map (fun g => g.2)).sum

/-- The size of the largest gap in blocks. -/
def Store.largestGap (st : Store) : Nat := (st.gaps.map (fun g => g.2)).foldl max 0

/-- The lowest gap that holds `n` blocks. -/
def Store.firstFit (st : Store) (n : Nat) : Option Nat := (st.gaps.find? (fun g => decide (n ≤ g.2))).map (fun g => g.1)

/-- A region takes its place in the order of base. -/
def insertRegion (r : Region) : List Region → List Region
  | [] => [r]
  | x :: xs => if r.base < x.base then r :: x :: xs else x :: insertRegion r xs

/-- A store after a request, with the reply. -/
structure StoreAnswer where
  store : Store
  reply : Reply
  deriving DecidableEq, Repr

/-- A request that changes nothing. -/
def StoreAnswer.none (st : Store) (r : Reply) : StoreAnswer := { store := st, reply := r }

/-- Check an id against 1 to 24 under a name. -/
def idField (c : Check) (k : Nat) (fs : Fields) : Val Nat :=
  (natField k fs).check c (fun n => if 1 ≤ n ∧ n ≤ 24 then some n else none)

/-! ### DEFINE_REGION and DELETE_REGION (R115, R116) -/

/-- LENGTH: outside 64 to 131,072, or odd for a CAPTURE. With a kind that is absent or did not decode an odd length does
not fail, the model's choice (log entry 68). -/
def badLength (kind : Val RegionKind) (n : Nat) : Bool :=
  outsideNat 64 131072 n || (kind.get? == some .capture && n % 2 == 1)

/-- The region placed at a block, its extent zeroed (R115). -/
def Store.define (st : Store) (id : Nat) (kind : RegionKind) (length block : Nat) : Store :=
  let r : Region := { id := id, kind := kind, base := block * 64, length := length, ready := false, fill := 0,
                      layout := none }
  { st with regions := insertRegion r st.regions, mem := Memory.clear r.base (r.extent * 64) st.mem }

/-- DEFINE_REGION (R115). -/
def Store.defineRegion (fs : Fields) (st : Store) : StoreAnswer :=
  let id := idField .id 1 fs
  let kind := enumFieldAs .kind 2 regionKindOfCode fs
  let length := natField 3 fs
  match id, kind, length with
  | .val i, .val k, .val n =>
    if badLength kind n then StoreAnswer.none st (.invalid [.length])
    else if 24 ≤ st.regions.length then StoreAnswer.none st (Reply.refuse .full)
    else if (st.find i).isSome then StoreAnswer.none st (Reply.refuse .access)
    else
      match st.firstFit (ceilDiv n 64) with
      | none => StoreAnswer.none st (.plain .noSpace (fieldNat 1 2 st.freeBlocks ++ fieldNat 2 2 st.largestGap))
      | some b =>
        let st1 := st.define i k n b
        { store := st1,
          reply := .plain .ok (fieldNat 1 4 (b * 64) ++ fieldNat 2 2 (ceilDiv n 64) ++ fieldNat 3 2 st1.freeBlocks) }
  | _, _, _ =>
    StoreAnswer.none st (.invalid (id.need ++ kind.need ++ length.need ++ length.violates .length (badLength kind)))

/-- DELETE_REGION (R116). An absent id is MISSING_FIELD and not REGION (log entry 52). -/
def Store.deleteRegion (u : Uses) (fs : Fields) (st : Store) : StoreAnswer :=
  match idField .region 1 fs with
  | .val i =>
    if (st.find i).isNone then StoreAnswer.none st (.invalid [.region])
    else if st.inUse u i then StoreAnswer.none st (Reply.refuse .access)
    else
      let st1 := { st with regions := st.regions.filter (fun r => r.id != i) }
      { store := st1, reply := .plain .ok (fieldNat 1 2 st1.freeBlocks) }
  | v => StoreAnswer.none st (.invalid v.need)

/-! ### SET_CLIP (R117) and SET_LOOP_START (R137) -/

/-- The fields of a SET_CLIP other than its region (11.5). An area length above 131,072 adds no check of its own: it
fails LAYOUT_SUM, which stands for its range, the model's choice (log entry 57). -/
structure ClipFields where
  rate : Val Nat
  head : Val Nat
  loop : Val Nat
  tail : Val Nat
  loopStart : Val Nat
  cue : Val Nat
  reverse : Val Bool

def ClipFields.read (fs : Fields) : ClipFields :=
  { rate := natField 2 fs, head := natField 3 fs, loop := natField 4 fs, tail := natField 5 fs,
    loopStart := natField 6 fs, cue := natField 7 fs, reverse := flagField 8 fs }

/-- The field failures, MISSING_FIELD among them. -/
def ClipFields.failures (x : ClipFields) : List Check :=
  x.rate.need ++ x.head.need ++ x.loop.need ++ x.tail.need ++ x.loopStart.fails ++ x.cue.fails ++ x.reverse.fails

/-- The sum of the three areas, when all are there. Where one is absent or fails to decode, LAYOUT_SUM and CUE_RANGE are
left out of the failed checks, the model's choice (log entry 66). -/
def ClipFields.sum (x : ClipFields) : Val Nat :=
  match x.head, x.loop, x.tail with
  | .val h, .val l, .val t => .val (h + l + t)
  | _, _, _ => .absent

/-- The LOOP_START check for a loop length (R117, R137). -/
def badLoopStart (loop start : Nat) : Bool := if loop = 0 then start != 0 else decide (loop ≤ start)

/-- The checks of R117 item 4 for a region of the fill length given. A check of which one field is absent or did not
decode is left out, the model's choice for the latter (log entry 68). -/
def ClipFields.checks (fill : Nat) (x : ClipFields) : List Check :=
  x.rate.violates .rate (fun r => r != 8000 && r != 16000 && r != 22050) ++
    x.sum.violates .layoutSum (fun n => n != fill || n == 0) ++
    x.loop.violates .loopStart (fun l => x.loopStart.get?.any (badLoopStart l)) ++
    x.loop.violates .loopShort (fun l => decide (1 ≤ l) && decide (l ≤ 63)) ++
    x.sum.violates .cueRange (fun n => x.cue.get?.any (fun c => decide (n ≤ c))) ++
    x.loop.violates .reverseLoop (fun l => l != 0 && x.reverse.get? == some true)

/-- The layout of fields that passed. -/
def ClipFields.layout (x : ClipFields) : Layout :=
  { rate := x.rate.get?.getD 0, head := x.head.get?.getD 0, loop := x.loop.get?.getD 0, tail := x.tail.get?.getD 0,
    loopStart := x.loopStart.get?.getD 0, cue := x.cue.get?, reverse := x.reverse.get?.getD false }

/-- SET_CLIP (R117). Its first check is that of the region: an id outside 1 to 24 is REGION alone, as is one with no
region; a region field that fails to decode is answered with every field failure (R174), an absent one as MISSING_FIELD
and not REGION (log entry 52). -/
def Store.setClip (u : Uses) (fs : Fields) (st : Store) : StoreAnswer :=
  let x := ClipFields.read fs
  match idField .region 1 fs with
  | .val i =>
    match st.find i with
    | none => StoreAnswer.none st (.invalid [.region])
    | some r =>
      let bad := x.failures ++ x.checks r.fill
      if r.kind = .capture then StoreAnswer.none st (.invalid [.kind])
      else if !r.ready || u.voice i || st.windowOn i then StoreAnswer.none st (Reply.refuse .access)
      else if bad ≠ [] then StoreAnswer.none st (.invalid bad)
      else { store := st.update i (fun r => { r with layout := some x.layout }), reply := Reply.ok }
  | .bad .region => StoreAnswer.none st (.invalid [.region])
  | v => StoreAnswer.none st (.invalid (v.need ++ x.failures))

/-- SET_LOOP_START (R137). Its first INVALID step is that of the region. An absent region or loop start is MISSING_FIELD
(log entry 52). -/
def Store.setLoopStart (fs : Fields) (st : Store) : StoreAnswer :=
  match idField .region 1 fs, natField 2 fs with
  | .val i, .val n =>
    match st.find i with
    | none => StoreAnswer.none st (.invalid [.region])
    | some r =>
      if r.kind = .capture then StoreAnswer.none st (.invalid [.kind])
      else
        match r.layout with
        | none => StoreAnswer.none st (Reply.refuse .access)
        | some y =>
          if badLoopStart y.loop n then StoreAnswer.none st (.invalid [.loopStart])
          else
            { store := st.update i (fun r => { r with layout := some { y with loopStart := n } }), reply := Reply.ok }
  | .val i, w => StoreAnswer.none st (.invalid ((if (st.find i).isNone then [.region] else []) ++ w.need))
  | v, w => StoreAnswer.none st (.invalid (v.need ++ w.need))

/-! ### The upload window (R119 to R122) -/

/-- WRITE_START (R119). -/
def Store.writeStart (u : Uses) (l : Link) (fs : Fields) (st : Store) : StoreAnswer :=
  let id := idField .region 1 fs
  let offset := natField 2 fs
  let mode := enumFieldAs .mode 3 writeModeOfCode fs
  match id, offset, mode with
  | .val i, .val o, .val md =>
    match st.find i with
    | none => StoreAnswer.none st (.invalid [.region])
    | some r =>
      if st.window.isSome then StoreAnswer.none st (Reply.refuse .busy)
      else if r.kind == .capture || u.voice i then StoreAnswer.none st (Reply.refuse .access)
      else if r.length ≤ o then StoreAnswer.none st (.invalid [.offset])
      else
        { store := { st.update i (fun r => { r with ready := false, layout := none }) with
                     window := some { region := i, owner := l, mode := md, cursor := o, accepted := 0 } },
          reply := .plain .ok (fieldNat 1 4 r.length ++ fieldNat 2 4 r.fill) }
  | _, _, _ => StoreAnswer.none st (.invalid (id.need ++ offset.need ++ mode.need))

/-- What a WRITE_DATA leaves: the bytes, the cursor, the fill length, the number of bytes written. -/
structure Upload where
  mem : Memory
  cursor : Nat
  fill : Nat
  written : Nat
  deriving DecidableEq, Repr

/-- R120: bytes written one after another at the cursor. -/
def uploadBytes (base length : Nat) (mode : WriteMode) : List Byte → Upload → Upload
  | [], x => x
  | b :: bs, x =>
    if length ≤ x.cursor then x
    else
      let next := x.cursor + 1
      uploadBytes base length mode bs
        { mem := Memory.write (base + x.cursor) b x.mem,
          cursor := if next = length ∧ mode = .wrap then 0 else next, fill := max x.fill next,
          written := x.written + 1 }

/-- WRITE_DATA (R120), after the BUSY and POWER of R126. -/
def Store.writeData (l : Link) (data : List Byte) (st : Store) : StoreAnswer :=
  if data = [] then StoreAnswer.none st (Reply.refuse .length)
  else
    match st.window with
    | none => StoreAnswer.none st (Reply.refuse .busy)
    | some w =>
      if w.owner ≠ l then StoreAnswer.none st (Reply.refuse .access)
      else
        match st.find w.region with
        | none => StoreAnswer.none st (Reply.refuse .busy)
        | some r =>
          let x := uploadBytes r.base r.length w.mode data
            { mem := st.mem, cursor := w.cursor, fill := r.fill, written := 0 }
          let info := fieldNat 1 1 x.written ++ fieldNat 2 4 x.cursor
          { store := { st.update w.region (fun r => { r with fill := x.fill }) with
                       mem := x.mem,
                       window := some { w with cursor := x.cursor, accepted := addCount w.accepted x.written } },
            reply := if x.written = data.length then .plain .ok info else .clamped [1] info }

/-- WRITE_END (R121). -/
def Store.writeEnd (l : Link) (st : Store) : StoreAnswer :=
  match st.window with
  | none => StoreAnswer.none st (Reply.refuse .busy)
  | some w =>
    if w.owner ≠ l then StoreAnswer.none st (Reply.refuse .access)
    else
      { store := { st.update w.region (fun r => { r with ready := true }) with window := none },
        reply := .plain .ok
          (fieldNat 1 4 (((st.find w.region).map (fun r => r.fill)).getD 0) ++ fieldNat 2 4 w.accepted) }

/-- R122: the remote link is lost; a window that REMOTE owns closes, its region left OPEN. -/
def Store.remoteLost (st : Store) : Store :=
  if st.window.any (fun w => w.owner == .remote) then { st with window := none } else st

/-! ### READ_REGION (R123) -/

/-- The bytes a READ_REGION returns before its limit of 232. -/
def readable (r : Region) (offset count : Nat) : Nat := min (offset + count) r.fill - offset

/-- The fixed layout of the reply (11.7). -/
def Store.readReply (st : Store) (r : Region) (offset count : Nat) : Reply :=
  let n := min (readable r offset count) 232
  .plain .ok (byte (flagCode r.ready) :: (leBytes 4 r.fill ++
    (byte n :: byte (flagCode (decide (232 < readable r offset count))) ::
      Memory.slice (r.base + offset) n st.mem)))

/-- The check OFFSET of an absent offset (R123, log entry 28). -/
def offsetNeed (v : Val Nat) : List Check :=
  match v with
  | .absent => [.offset]
  | w => w.need

/-- READ_REGION (R123). -/
def Store.readRegion (fs : Fields) (st : Store) : StoreAnswer :=
  let id := idField .region 1 fs
  let offset := natField 2 fs
  let count := (natField 3 fs).check .count (fun n => if 1 ≤ n ∧ n ≤ 240 then some n else none)
  match id, offset, count with
  | .val i, .val o, .val n =>
    match st.find i with
    | none => StoreAnswer.none st (.invalid [.region])
    | some r => StoreAnswer.none st (st.readReply r o n)
  | _, _, _ => StoreAnswer.none st (.invalid (id.need ++ offsetNeed offset ++ count.need))

/-! ### Compaction (R124, R125) -/

/-- The moves of a compaction: each region that does not lie at `next` (a byte address), with the ms at which its copy
completes after `moved` bytes before it. -/
def compactPlan (next moved : Nat) : List Region → List RegionMove
  | [] => []
  | r :: rs =>
    let size := r.extent * 64
    if r.base = next then compactPlan (next + size) moved rs
    else
      { region := r.id, base := next, due := 1 + ceilDiv (moved + size) 4096 } ::
        compactPlan (next + size) (moved + size) rs

/-- R124: the ms at which a compaction ends. -/
def planDue (plan : List RegionMove) : Nat := plan.foldl (fun _ m => m.due) 1

/-- COMPACT begins (R124), its checks passed. -/
def Store.beginCompaction (asker : Option (Link × Byte)) (st : Store) : Store :=
  let plan := compactPlan 0 0 st.regions
  { st with compaction := some { plan := plan, due := planDue plan, elapsed := 0, moved := plan.length,
                                 asker := asker, soft := false } }

/-- The refusal of a COMPACT, if any (R124). -/
def Store.compactRefusal (u : Uses) (power : PowerState) (st : Store) : Option Status :=
  if power = .critical then some .power
  else if st.window.isSome || st.regions.any (fun r => st.inUse u r.id) then some .access
  else none

/-- A move is made: every byte of the extent, then the table entry (R124). -/
def Store.applyMove (mv : RegionMove) (st : Store) : Store :=
  match st.find mv.region with
  | none => st
  | some r =>
    { st.update mv.region (fun r => { r with base := mv.base }) with
      mem := Memory.copy r.base mv.base (r.extent * 64) st.mem }

/-- COMPACT_REGION_COPIED (R124): the copy that completes now. Under a SOFT reset it is the last (R125). -/
def Store.regionCopied (st : Store) : Store :=
  match st.compaction with
  | none => st
  | some k =>
    match k.plan with
    | [] => st
    | mv :: rest =>
      if mv.due ≤ k.elapsed then
        { st.applyMove mv with compaction := if k.soft then none else some { k with plan := rest } }
      else st

/-- The reply of a COMPACT (R124). -/
def Store.compactReply (st : Store) (k : Compaction) : Reply :=
  .plain .ok (fieldNat 1 1 k.moved ++ fieldNat 2 2 st.freeBlocks)

/-- COMPACT_COMPLETE (R124): compaction ends, with the ASK to answer and its reply. -/
def Store.compactComplete (st : Store) : Store × Option (Link × Byte × Reply) :=
  match st.compaction with
  | none => (st, none)
  | some k =>
    if k.plan = [] ∧ k.due ≤ k.elapsed ∧ k.soft = false then
      ({ st with compaction := none }, k.asker.map (fun a => (a.1, a.2, st.compactReply k)))
    else (st, none)

/-- R125, R128: what a SOFT reset makes of a running compaction: it stops at the copy under way, or at once. -/
def softCompaction (k : Compaction) : Option Compaction :=
  match k.plan with
  | [] => none
  | mv :: _ => if k.elapsed = 0 then none else some { k with plan := [mv], asker := none, soft := true }

/-- R122, R128: SOFT. -/
def Store.soft (st : Store) : Store :=
  { st with window := none, compaction := st.compaction.bind softCompaction }

/-! ### The store's part of SOUND_STATUS (R127) -/

/-- One region as a composite value. A flag says whether it has a layout, and the layout follows only then. The cue
offset of a layout stands behind a byte of its own, 0 for an absent one and 1 before one that is present, the model's
choice: the 0xFF of other absent parts could not be told from the first byte of an offset (log entry 8). -/
def Store.regionBytes (st : Store) (u : Uses) (r : Region) : List Byte :=
  byte r.id :: byte (regionKindCode r.kind) :: (leBytes 4 r.base ++ leBytes 4 r.length ++ leBytes 2 r.extent ++
    [byte (flagCode r.ready)] ++ leBytes 4 r.fill ++
    (match r.layout with
      | none => [byte 0]
      | some y =>
        byte 1 :: (leBytes 2 y.rate ++ leBytes 4 y.head ++ leBytes 4 y.loop ++ leBytes 4 y.tail ++
          leBytes 4 y.loopStart ++
          (match y.cue with
            | none => [byte 0]
            | some c => byte 1 :: leBytes 4 c) ++ [byte (flagCode y.reverse)])) ++
    [byte (flagCode (u.voice r.id)), byte (flagCode (u.capture r.id)), byte (flagCode (st.windowOn r.id))])

/-- Fields 1 to 10 of SOUND_STATUS (R127, log entry 8). -/
def Store.statusData (st : Store) (u : Uses) : List Byte :=
  fieldNat 1 2 st.freeBlocks ++ fieldNat 2 2 st.largestGap ++ fieldNat 3 1 (flagCode st.compaction.isSome) ++
    fieldNat 4 1 (flagCode st.window.isSome) ++
    fieldOpt st.window (fun w =>
      fieldNat 5 1 w.region ++ fieldNat 6 1 (linkCode w.owner) ++ fieldNat 7 1 (writeModeCode w.mode) ++
        fieldNat 8 4 w.cursor ++ fieldNat 9 4 w.accepted) ++
    st.regions.flatMap (fun r => field 10 (st.regionBytes u r))

end Sys2Proof.Machine
end

