-- ==== Sys2Proof/Machine/Mixer.lean ====
section
/-! DEFINITION. Voices and the mixer (08): the allocation arbiter, starting and ending voices, the output event, the
master volume, the mixer under a pause and in each power state, and its requests. -/

namespace Sys2Proof.Machine

/-- Write one voice record. -/
def Mixer.setVoice (x : Mixer) (v : VoiceId) (r : Voice) : Mixer := { x with voices := x.voices.set v r }

/-- Whether a voice is playing, FROZEN included (8.1). -/
def Voice.playing (v : Voice) : Bool := v.state != .free

/-- The integer part of a position. -/
def Voice.index (v : Voice) : Nat := v.pos / 65536

/-- The link of an origin; LOCAL has none. -/
def Origin.link? : Origin → Option Link
  | .primary => some .primary
  | .remote => some .remote
  | .localUnit => none

def linkOrigin : Link → Origin
  | .primary => .primary
  | .remote => .remote

/-- Whether a voice plays a region (R113). -/
def Mixer.plays (x : Mixer) (id : Nat) : Bool :=
  Num4.all.any (fun v => (x.voices.get v).playing && (x.voices.get v).source == some (.region id))

/-! ### Endings (R142) -/

/-- The VOICE_END notice of a voice, if its notify field asks for one. Passes and position are a clip's; a tone's notice
carries the 0 its record holds for both, the model's choice (log entry 58). -/
def voiceEndNotice (time : Word32) (i : VoiceId) (v : Voice) (o : VoiceOutcome) : List Sent :=
  match v.notify, v.origin.link?, v.source with
  | true, some l, some src => [{ link := l, notice := .voiceEnd i src o v.passes v.index time }]
  | _, _, _ => []

/-- A voice becomes FREE; its prior state is made absent (R141). -/
def Voice.freed (v : Voice) : Voice := { v with state := .free, prior := none }

/-- A playing voice ends. -/
def Mixer.endVoice (time : Word32) (o : VoiceOutcome) (i : VoiceId) (x : Mixer) : Mixer × List Sent :=
  let v := x.voices.get i
  if v.playing then (x.setVoice i v.freed, voiceEndNotice time i v o) else (x, [])

/-- Voices end one after another, in the order given. -/
def Mixer.endVoices (time : Word32) (o : VoiceOutcome) : List VoiceId → Mixer → Mixer × List Sent
  | [], x => (x, [])
  | i :: is, x =>
    let r := x.endVoice time o i
    let r2 := Mixer.endVoices time o is r.1
    (r2.1, r.2 ++ r2.2)

/-! ### Allocation (R130) -/

/-- The voices the arbiter considers. -/
def arbiterVoices (power : PowerState) : List VoiceId := if power = .economy then [.n1, .n2] else Num4.all

/-- Whether a voice is picked before another: lower priority, then older. -/
def Voice.picksBefore (a b : Voice) : Bool :=
  decide (a.priority < b.priority) || (a.priority == b.priority && decide (a.order < b.order))

/-- The voice of lowest priority, the oldest of these. -/
def Mixer.pick (x : Mixer) : List VoiceId → Option VoiceId
  | [] => none
  | i :: is =>
    match Mixer.pick x is with
    | none => some i
    | some j => if (x.voices.get j).picksBefore (x.voices.get i) then some j else some i

/-- What the arbiter decides. -/
inductive Grant
  | free (v : VoiceId)
  | steal (v : VoiceId)
  | refused
  deriving DecidableEq, Repr

/-- R130. -/
def Mixer.arbiter (x : Mixer) (power : PowerState) (priority : Nat) : Grant :=
  let vs := arbiterVoices power
  match vs.find? (fun i => !(x.voices.get i).playing) with
  | some i => .free i
  | none =>
    match x.pick vs with
    | none => .refused
    | some i => if (x.voices.get i).priority ≤ priority then .steal i else .refused

/-- The playing voices in the order of their start orders, for the renumbering of R130. -/
def Mixer.rank (x : Mixer) (i : VoiceId) : Nat :=
  (Num4.all.filter (fun j => (x.voices.get j).playing && decide ((x.voices.get j).order < (x.voices.get i).order))).length

/-- R130: the start counter rises by 1; past its range the playing voices are renumbered. -/
def Mixer.countStart (x : Mixer) : Mixer :=
  if x.startCounter < 4294967295 then { x with startCounter := x.startCounter + 1 }
  else
    { x with voices := Four.ofFn (fun i =>
               if (x.voices.get i).playing then { x.voices.get i with order := x.rank i } else x.voices.get i),
             startCounter := (Num4.all.filter (fun i => (x.voices.get i).playing)).length }

/-- A granted voice is filled in for the new sound. -/
def Mixer.fillVoice (x : Mixer) (i : VoiceId) (v : Voice) : Mixer :=
  (x.setVoice i { v with order := x.startCounter }).countStart

/-- The origin of a stolen voice, for the reply. -/
structure Started where
  voice : VoiceId
  stolen : Option Origin
  deriving DecidableEq, Repr

/-- R130: a start asks the arbiter; `none` is NO_VOICE. -/
def Mixer.start (power : PowerState) (time : Word32) (v : Voice) (x : Mixer) :
    Mixer × List Sent × Option Started :=
  match x.arbiter power v.priority with
  | .refused => (x, [], none)
  | .free i => (x.fillVoice i v, [], some { voice := i, stolen := none })
  | .steal i =>
    let r := x.endVoice time .stolen i
    (r.1.fillVoice i v, r.2, some { voice := i, stolen := some (x.voices.get i).origin })

/-! ### Starting a clip or a tone (R131 to R134, R141) -/

/-- What a start asks for besides its sound. -/
structure StartOptions where
  volume : Nat
  priority : Nat
  free : Bool
  notify : Bool
  origin : Origin
  deriving DecidableEq, Repr

/-- R133: the step of a clip voice. -/
def clipStep (rate pitch : Nat) : Nat := rate * pitch * 65536 / (32000 * 1000)

/-- R131: a pitch within 250 to 4000. -/
def keptPitch (pitch : Nat) : Nat := min 4000 (max 250 pitch)

/-- The number of samples of a layout. -/
def Layout.total (y : Layout) : Nat := y.head + y.loop + y.tail

/-- R131, R134: the state a clip starts in. -/
def Layout.startState (y : Layout) : VoiceState :=
  if y.reverse then .tail else if y.head ≠ 0 then .head else if y.loop ≠ 0 then .loop else .tail

/-- A voice that begins FROZEN under a pause, its free flag clear (R131, R141). -/
def Voice.begun (paused : Bool) (v : Voice) : Voice :=
  if paused && !v.free then { v with state := .frozen, prior := some v.state } else v

/-- R131: the voice of a clip. -/
def clipVoice (paused : Bool) (id : Nat) (y : Layout) (pitch loopCount : Nat) (o : StartOptions) : Voice :=
  Voice.begun paused
    { Voice.cleared with
        state := y.startState, source := some (.region id),
        pos := if y.reverse then (y.total - 1) * 65536 else 0, step := clipStep y.rate pitch, volume := o.volume,
        priority := o.priority, loopCount := loopCount, loopCopy := y.loopStart, origin := o.origin, free := o.free,
        notify := o.notify, pathMark := if y.reverse then y.total else 0 }

/-- R132: the voice of a tone. Its step, loop count and passes, which 8.1 gives to clips, are 0, and SOUND_STATUS
reports them so, the model's choice (log entry 58). -/
def toneVoice (paused : Bool) (freq duration : Nat) (o : StartOptions) : Voice :=
  Voice.begun paused
    { Voice.cleared with
        state := .tone, source := some (.tone freq), left := duration * 32, volume := o.volume,
        priority := o.priority, origin := o.origin, free := o.free, notify := o.notify }

/-- R131 checks 4 and 5: the layout of a region that can be played, or the refusal. -/
def Store.playable (st : Store) (id : Nat) : Except Reply Layout :=
  match st.find id with
  | none => .error (.invalid [.region])
  | some r =>
    if r.kind = .capture then .error (.invalid [.kind])
    else
      match r.layout with
      | none => .error (Reply.refuse .access)
      | some y => if !r.ready || st.windowOn id then .error (Reply.refuse .access) else .ok y

/-! ### The output event (R133 to R135, R138) -/

/-- A cue event of one output event (R135): the voice and what its CUE notice carries. -/
structure CueEvent where
  voice : VoiceId
  region : Nat
  offset : Nat
  passes : Nat
  link : Option Link
  deriving DecidableEq, Repr

/-- The position reduced at a wrap; `fuel` bounds the repetitions of R133 item 2. -/
def Voice.wrapLoop (y : Layout) : Nat → Voice → Voice
  | 0, v => v
  | n + 1, v =>
    if y.head + y.loop ≤ v.index then
      let passes := min 255 (v.passes + 1)
      let v1 : Voice := { v with passes := passes }
      if v.release || (v.loopCount != 0 && passes == v.loopCount) then { v1 with state := .tail }
      else
        Voice.wrapLoop y n
          { v1 with loopCopy := y.loopStart, pos := v.pos - (y.loop - y.loopStart) * 65536,
                    covered := v.covered ++ [(v.pathMark, y.head + y.loop - 1)], pathMark := y.head + y.loopStart }
    else v

/-- R133 item 1; a released voice goes past the loop to its tail (log entry 19). -/
def Voice.leaveHead (y : Layout) (v : Voice) : Voice :=
  if v.state = .head ∧ y.head ≤ v.index then
    if y.loop ≠ 0 ∧ v.release = false then { v with state := .loop }
    else if y.loop = 0 then { v with state := .tail }
    else
      { v with state := .tail, pos := v.pos + y.loop * 65536,
               covered := v.covered ++ [(v.pathMark, y.head - 1)], pathMark := y.head + y.loop }
  else v

/-- R133: the checks after a FORWARD advance. -/
def Voice.afterAdvance (y : Layout) (v : Voice) : Voice :=
  let v1 := v.leaveHead y
  let v2 := if v1.state = .loop then Voice.wrapLoop y (v1.index + 1) v1 else v1
  if v2.state = .tail ∧ y.total ≤ v2.index then v2.freed else v2

/-- R133, R134: the voice moves on by its step after its read; the path of R135 begins anew. A REVERSE voice that
would pass below 0 ends with position 0 (log entry 19). -/
def Voice.advanced (y : Layout) (v : Voice) : Voice :=
  if y.reverse then
    if v.pos < v.step then { v.freed with pos := 0, covered := [], pathMark := v.index }
    else { v with pos := v.pos - v.step, covered := [], pathMark := v.index }
  else Voice.afterAdvance y { v with pos := v.pos + v.step, covered := [], pathMark := v.index + 1 }

/-- R135: whether the path from the previous read to the present one covers an index. -/
def Voice.crosses (y : Layout) (c : Nat) (v : Voice) : Bool :=
  if y.reverse then decide (v.index ≤ c) && decide (c < v.pathMark)
  else v.covered.any (fun r => decide (r.1 ≤ c) && decide (c ≤ r.2)) ||
    (decide (v.pathMark ≤ c) && decide (c ≤ v.index))

/-- The signed sample of a clip at an index. -/
def Store.sample (st : Store) (r : Region) (i : Nat) : Int := (Memory.read (r.base + i) st.mem).toInt

/-- R132: the sample of a tone. -/
def toneSample (phase : Nat) : Int := if phase < 32000 then 100 else -100

/-- R132: a tone moves on. -/
def Voice.toneAdvanced (freq : Nat) (v : Voice) : Voice :=
  let v1 : Voice := { v with tonePhase := (v.tonePhase + 2 * freq) % 64000, left := v.left - 1 }
  if v1.left = 0 then v1.freed else v1

/-- What one voice does at an output event: the sample read, the record after, the cue raised. -/
structure Played where
  sample : Int
  voice : Voice
  cue : Option CueEvent
  deriving DecidableEq, Repr

/-- The cue event of a voice at its read (R135). -/
def Voice.cueEvent (i : VoiceId) (id : Nat) (y : Layout) (v : Voice) : Option CueEvent :=
  y.cue.bind (fun c =>
    if v.crosses y c then
      some { voice := i, region := id, offset := c, passes := v.passes,
             link := if v.notify then v.origin.link? else none }
    else none)

/-- A voice at an output event (R132 to R135). -/
def Voice.play (st : Store) (i : VoiceId) (v : Voice) : Played :=
  let silent : Played := { sample := 0, voice := v, cue := none }
  match v.state, v.source with
  | .tone, some (.tone f) => { sample := toneSample v.tonePhase, voice := v.toneAdvanced f, cue := none }
  | .free, _ => silent
  | .frozen, _ => silent
  | _, some (.region id) =>
    match st.find id with
    | some r =>
      match r.layout with
      | some y => { sample := st.sample r v.index, voice := v.advanced y, cue := v.cueEvent i id y }
      | none => silent
    | none => silent
  | _, _ => silent

/-- R138: the sample as the power state has it. -/
def mixSample (power : PowerState) (s : Int) : Int := if power = .economy then s / 16 * 16 else s

/-- R138: the master volume in force. -/
def masterVolume (power : PowerState) (m : Nat) : Nat := if power = .economy then min m 128 else m

/-- R138: the output before its clamp. -/
def scaleMix (sum : Int) (me : Nat) : Int := truncDiv (sum * me) 8192

/-- What an output event gives: the mixer, its VOICE_ENDs, its cue events in voice order. -/
structure OutputResult where
  mixer : Mixer
  sent : List Sent
  cues : List CueEvent
  deriving DecidableEq, Repr

/-- R138 with R133 to R135: one output event, up to the handling of its cues. -/
def Mixer.outputEvent (power : PowerState) (time : Word32) (st : Store) (x : Mixer) : OutputResult :=
  let p := Four.ofFn (fun i => (x.voices.get i).play st i)
  let sum : Int := (Num4.all.map (fun i => mixSample power (p.get i).sample * (x.voices.get i).volume)).sum
  let raw := scaleMix sum (masterVolume power x.volume)
  let out := clamp (-2048) 2047 raw
  { mixer := { x with voices := p.map (fun y => y.voice), output := if x.amp then out else 0,
                      clipped := x.clipped || decide (out ≠ raw) },
    sent := Num4.all.flatMap (fun i =>
      if (x.voices.get i).playing && !(p.get i).voice.playing then voiceEndNotice time i (p.get i).voice .ended else []),
    cues := Num4.all.filterMap (fun i => (p.get i).cue) }

/-- The CUE notice of a cue event (R135, R142). -/
def CueEvent.notices (time : Word32) (c : CueEvent) : List Sent :=
  match c.link with
  | some l => [{ link := l, notice := .cue c.voice c.region c.offset c.passes time }]
  | none => []

/-- TONE_END (R132): the last sample of a tone has been played (log entry 3). -/
def Mixer.toneEnd (time : Word32) (i : VoiceId) (x : Mixer) : Mixer × List Sent :=
  let v := x.voices.get i
  if v.state = .tone ∧ v.left ≤ 1 then
    (x.setVoice i { v.freed with left := 0 }, voiceEndNotice time i v .ended)
  else (x, [])

/-! ### Master volume (R139) -/

/-- VOLUME_RAMP_STEP: every 4 ms of a ramp M moves one step. -/
def Mixer.rampStep (x : Mixer) : Mixer :=
  if x.ramping ∧ 4 ≤ x.rampTimer then
    let m := if x.volume < x.target then x.volume + 1 else x.volume - 1
    { x with volume := m, rampTimer := 0, ramping := decide (m ≠ x.target) }
  else x

/-- R139: SET_VOLUME with its fields in range. -/
def Mixer.setVolume (target : Nat) (ramp : Bool) (x : Mixer) : Mixer :=
  if ramp then { x with target := target, rampTimer := 0, ramping := decide (x.volume ≠ target) }
  else { x with volume := target, target := target, rampTimer := 0, ramping := false }

/-! ### Pause and power (R140, R141) -/

/-- R141: the freeze signal. -/
def Voice.frozen (v : Voice) : Voice :=
  if v.playing && v.state != .frozen && !v.free then { v with state := .frozen, prior := some v.state } else v

/-- R141: the continue signal. -/
def Voice.continued (v : Voice) : Voice :=
  if v.state = .frozen then { v with state := v.prior.getD .free, prior := none } else v

def Mixer.freeze (x : Mixer) : Mixer := { x with voices := x.voices.map Voice.frozen }

def Mixer.unfreeze (x : Mixer) : Mixer := { x with voices := x.voices.map Voice.continued }

/-- R140: the mixer takes a new power state. -/
def Mixer.powerChanged (time : Word32) (old new : PowerState) (x : Mixer) : Mixer × List Sent :=
  match new with
  | .economy =>
    let r := x.endVoices time .power [.n3, .n4]
    (if old = .critical then { r.1 with amp := true } else r.1, r.2)
  | .critical =>
    let r := x.endVoices time .power Num4.all
    ({ r.1 with amp := false, output := 0 }, r.2)
  | _ => (x, [])

/-! ### Requests -/

/-- The mixer after a request: its record, notices, reply. -/
structure MixerAnswer where
  mixer : Mixer
  sent : List Sent
  reply : Reply
  deriving DecidableEq, Repr

def MixerAnswer.none (x : Mixer) (r : Reply) : MixerAnswer := { mixer := x, sent := [], reply := r }

/-- What a start reads of the other blocks. -/
structure SoundFeed where
  power : PowerState
  paused : Bool
  time : Word32
  deriving DecidableEq, Repr

/-- The origin of a stolen voice as a reply field. -/
def stolenField (k : Nat) (s : Started) : List Byte := fieldOpt s.stolen (fun o => fieldNat k 1 (originCode o))

/-- The fields of PLAY in their order (11.5). -/
structure PlayFields where
  region : Val Nat
  volume : Val Nat
  priority : Val Nat
  pitch : Val Nat
  loopCount : Val Nat
  free : Val Bool
  notify : Val Bool

/-- An id that is absent or out of range is REGION in PLAY (R131). -/
def playRegion (fs : Fields) : Val Nat :=
  match idField .region 1 fs with
  | .absent => .bad .region
  | v => v

def PlayFields.read (fs : Fields) : PlayFields :=
  { region := playRegion fs, volume := natField 2 fs, priority := natField 3 fs, pitch := natField 4 fs,
    loopCount := natField 5 fs, free := flagField 6 fs, notify := flagField 7 fs }

/-- R131 item 3. -/
def PlayFields.bad (x : PlayFields) : List Check :=
  x.region.fails ++ x.volume.fails ++ x.priority.fails ++ x.pitch.fails ++ x.loopCount.fails ++ x.free.fails ++
    x.notify.fails ++ x.volume.violates .volume (fun n => decide (255 < n)) ++
    x.priority.violates .priority (fun n => decide (7 < n)) ++
    x.loopCount.violates .loopCount (fun n => decide (255 < n))

/-- R131 items 4 to 6: a clip is started, or the refusal. -/
def Mixer.startClip (f : SoundFeed) (st : Store) (id pitch loopCount : Nat) (o : StartOptions) (x : Mixer) :
    Mixer × List Sent × Except Reply Started :=
  match st.playable id with
  | .error r => (x, [], .error r)
  | .ok y =>
    match x.start f.power f.time (clipVoice f.paused id y (keptPitch pitch) loopCount o) with
    | (x1, ns, some s) => (x1, ns, .ok s)
    | (_, _, none) => (x, [], .error (Reply.refuse .noVoice))

/-- PLAY (R131), after the BUSY of compaction. -/
def Mixer.play (f : SoundFeed) (st : Store) (l : Link) (fs : Fields) (x : Mixer) : MixerAnswer :=
  let p := PlayFields.read fs
  if f.power = .critical then MixerAnswer.none x (Reply.refuse .power)
  else if p.bad ≠ [] then MixerAnswer.none x (.invalid p.bad)
  else
    let pitch := p.pitch.get?.getD 1000
    match x.startClip f st (p.region.get?.getD 0) pitch (p.loopCount.get?.getD 1)
        { volume := p.volume.get?.getD 255, priority := p.priority.get?.getD 0, free := p.free.get?.getD false,
          notify := p.notify.get?.getD true, origin := linkOrigin l } with
    | (x1, ns, .ok s) =>
      let info := fieldNat 2 1 s.voice.num ++ stolenField 3 s
      { mixer := x1, sent := ns,
        reply := if keptPitch pitch = pitch then .plain .ok info
          else .clamped [4] (fieldNat 1 2 (keptPitch pitch) ++ info) }
    | (_, _, .error r) => MixerAnswer.none x r

/-- The fields of PLAY_TONE in their order (11.5). -/
structure ToneFields where
  freq : Val Nat
  duration : Val Nat
  volume : Val Nat
  priority : Val Nat
  free : Val Bool
  notify : Val Bool

def ToneFields.read (fs : Fields) : ToneFields :=
  { freq := natField 1 fs, duration := natField 2 fs, volume := natField 3 fs, priority := natField 4 fs,
    free := flagField 5 fs, notify := flagField 6 fs }

/-- The checks of R132. -/
def ToneFields.bad (x : ToneFields) : List Check :=
  x.freq.need ++ x.duration.need ++ x.volume.fails ++ x.priority.fails ++ x.free.fails ++ x.notify.fails ++
    x.freq.violates .frequency (outsideNat 50 8000) ++ x.duration.violates .duration (outsideNat 1 60000) ++
    x.volume.violates .volume (fun n => decide (255 < n)) ++ x.priority.violates .priority (fun n => decide (7 < n))

/-- PLAY_TONE (R132), after the BUSY of compaction. -/
def Mixer.playTone (f : SoundFeed) (l : Link) (fs : Fields) (x : Mixer) : MixerAnswer :=
  let p := ToneFields.read fs
  if f.power = .critical then MixerAnswer.none x (Reply.refuse .power)
  else if p.bad ≠ [] then MixerAnswer.none x (.invalid p.bad)
  else
    let o : StartOptions :=
      { volume := p.volume.get?.getD 255, priority := p.priority.get?.getD 0, free := p.free.get?.getD false,
        notify := p.notify.get?.getD true, origin := linkOrigin l }
    match x.start f.power f.time (toneVoice f.paused (p.freq.get?.getD 50) (p.duration.get?.getD 1) o) with
    | (x1, ns, some s) =>
      { mixer := x1, sent := ns, reply := .plain .ok (fieldNat 1 1 s.voice.num ++ stolenField 2 s) }
    | (_, _, none) => MixerAnswer.none x (Reply.refuse .noVoice)

/-- The voice a request names (R136 item 1); an absent one is MISSING_FIELD and not VOICE (log entry 52). -/
def voiceField (fs : Fields) : Val VoiceId := (natField 1 fs).check .voice Num4.ofNum

/-- R136: the checks of RELEASE_VOICE and STOP_VOICE in their order, the origin before the state, then the effect on a
playing voice. A FREE voice keeps the origin of its last sound (log entry 38). -/
def Mixer.onVoice (l : Link) (fs : Fields) (act : VoiceId → Mixer → Mixer × List Sent) (x : Mixer) : MixerAnswer :=
  match voiceField fs with
  | .val i =>
    let v := x.voices.get i
    if l = .remote ∧ v.origin = .primary then MixerAnswer.none x (Reply.refuse .denied)
    else if !v.playing then MixerAnswer.none x (.invalid [.state])
    else
      let r := act i x
      { mixer := r.1, sent := r.2, reply := .plain .ok (fieldNat 1 1 (voiceStateCode (r.1.voices.get i).state)) }
  | v => MixerAnswer.none x (.invalid v.need)

/-- R136: a release, by the state or the prior state. -/
def Mixer.releaseVoice (time : Word32) (i : VoiceId) (x : Mixer) : Mixer × List Sent :=
  let v := x.voices.get i
  match (if v.state = .frozen then v.prior.getD .free else v.state) with
  | .head => (x.setVoice i { v with release := true }, [])
  | .loop => (x.setVoice i { v with release := true }, [])
  | .tone => x.endVoice time .ended i
  | _ => (x, [])

/-- SET_VOLUME (R139). An absent target is MISSING_FIELD and not VOLUME (log entry 52). -/
def Mixer.volumeRequest (fs : Fields) (x : Mixer) : MixerAnswer :=
  let target := natField 1 fs
  let ramp := flagField 2 fs
  let bad := target.need ++ ramp.fails ++ target.violates .volume (fun n => decide (255 < n))
  if bad ≠ [] then MixerAnswer.none x (.invalid bad)
  else
    let x1 := x.setVolume (target.get?.getD 0) (ramp.get?.getD false)
    { mixer := x1, sent := [], reply := .plain .ok (fieldNat 1 1 x1.volume ++ fieldNat 2 1 x1.target) }

/-- One voice of SOUND_STATUS as a composite value (R143, log entry 8). For a tone the step, loop count and passes are
the 0 of its record, the model's choice (log entry 58). -/
def Voice.statusBytes (v : Voice) : List Byte :=
  byte (voiceStateCode v.state) :: byte (priorStateCode v.prior) ::
    ((match v.source with
        | none => [byte 255]
        | some s => sourceBytes s) ++
      (match v.source with
        | some (.tone _) => leBytes 4 v.left
        | _ => leBytes 4 v.index) ++
      leBytes 4 v.step ++
      [byte v.volume, byte v.priority, byte v.loopCount, byte v.passes, byte (flagCode v.release),
       byte (originCode v.origin), byte (flagCode v.free), byte (flagCode v.notify)])

/-- Fields 11 to 17 of SOUND_STATUS (R143, log entry 8). -/
def Mixer.statusData (power : PowerState) (x : Mixer) : List Byte :=
  Num4.all.flatMap (fun i => field 11 (x.voices.get i).statusBytes) ++ fieldNat 12 1 x.volume ++
    fieldNat 13 1 x.target ++ fieldNat 14 1 (masterVolume power x.volume) ++ fieldNat 15 1 (flagCode x.amp) ++
    fieldNat 16 1 (powerCode power) ++ fieldNat 17 1 (flagCode x.clipped)

end Sys2Proof.Machine
end

