-- ==== Sys2Proof/Machine/Watch.lean ====
section
/-! DEFINITION. The watch unit (06): comparisons (R102), firing and chains (R103, R106), actions (R104 to R107), the
scan (R100), re-examination (R99), and the watch requests (R108 to R112). -/

namespace Sys2Proof.Machine

/-- What a chain of evaluations can change: the watch unit, the motor controller, the mixer, the router. -/
structure Reach where
  watch : WatchUnit
  motors : Motors
  mixer : Mixer
  router : Router
  deriving DecidableEq, Repr

/-- What a chain reads of the other blocks. -/
structure WatchFeed where
  live : Bool
  power : PowerState
  time : Word32
  store : Store
  deriving DecidableEq, Repr

/-- Hand notices to the router. -/
def Reach.send (w : Reach) (ns : List Sent) : Reach := { w with router := w.router.placeAll ns }

/-- Write one entry. -/
def WatchUnit.setEntry (u : WatchUnit) (i : WatchId) (e : Option Watch) : WatchUnit :=
  { u with entries := u.entries.set i e }

/-- Change an entry that is not EMPTY. -/
def Reach.update (w : Reach) (i : WatchId) (f : Watch → Watch) : Reach :=
  { w with watch := w.watch.setEntry i ((w.watch.entries.get i).map f) }

/-- R103: the run state is cleared. -/
def Watch.cleared (e : Watch) : Watch := { e with cond := false, trueCount := 0, latch := false }

/-! ### Evaluation (R102, R103) -/

/-- When a comparison makes a false condition true (R102). -/
def Comparison.rises (c : Comparison) (last : Option Int) (v : Int) : Bool :=
  match c with
  | .above t => decide (t < v)
  | .below t => decide (v < t)
  | .inside lo hi => decide (lo ≤ v) && decide (v ≤ hi)
  | .outside lo hi => decide (v < lo) || decide (hi < v)
  | .equal t => v == t
  | .change => last.any (fun x => x != v)

/-- When a comparison with hysteresis makes a true condition false (R102). -/
def Comparison.falls (c : Comparison) (h : Int) (last : Option Int) (v : Int) : Bool :=
  match c with
  | .above t => decide (v < t - h)
  | .below t => decide (t + h < v)
  | .inside lo hi => decide (v < lo - h) || decide (hi + h < v)
  | .outside lo hi => decide (lo + h ≤ v) && decide (v ≤ hi - h)
  | .equal t => v != t
  | .change => !last.any (fun x => x != v)

/-- R102: the new condition state. -/
def Watch.newCond (e : Watch) (v : Int) : Bool :=
  if e.cond then !e.cmp.falls e.hyst e.last v else e.cmp.rises e.last v

/-- R102, R103: the entry after the value is seen, before any firing. -/
def Watch.seen (e : Watch) (v : Int) : Watch :=
  let c := e.newCond v
  { e with cond := c, last := some v, trueCount := if c then min e.debounce (e.trueCount + 1) else 0,
           latch := c && e.latch }

/-- R103: whether the entry fires after an evaluation. -/
def Watch.fires? (e : Watch) : Bool :=
  e.cond && e.state == .active && !e.latch && decide (e.debounce ≤ e.trueCount)

/-- Whether an entry is evaluated on a source. -/
def Watch.on (t : Source → Bool) (e : Watch) : Bool := e.state == .active && t e.source

/-- R103 item 3: the state after a firing. -/
def Watch.afterFiring (e : Watch) : Watch :=
  if e.state = .active then
    match e.rearm with
    | .once => { e with state := .fired }
    | .edge => { e with latch := true }
  else e

/-- R107: where the WATCH_FIRED of a firing goes. -/
def Watch.firedLink (e : Watch) : Option Link :=
  match e.notify with
  | some l => some l
  | none => if e.state = .disabled .loop then some .primary else none

/-! ### Actions (R104 to R107) -/

/-- R104. -/
def Reach.cut (f : WatchFeed) (a : Rest) (ps : List MotorPort) (w : Reach) : Reach × ActionResult :=
  let r := w.motors.watchCut f.live a ps
  ({ w with motors := r.1 }.send r.2.1, if r.2.2 = [] then .done else .skippedPorts r.2.2)

/-- The status of a refusal. -/
def refusalStatus : Reply → Status
  | .plain st _ => st
  | .clamped _ _ => .clamped
  | .invalid _ => .invalid

/-- R105: a PLAY action. -/
def Reach.play (f : WatchFeed) (region volume priority : Nat) (w : Reach) : Reach × ActionResult :=
  if f.store.compaction.isSome then (w, .refused .busy)
  else if f.power = .critical then (w, .refused .power)
  else
    match w.mixer.startClip { power := f.power, paused := w.motors.pause != .running, time := f.time } f.store region
        1000 1 { volume := volume, priority := priority, free := false, notify := false, origin := .localUnit } with
    | (x, ns, .ok s) => ({ w with mixer := x }.send ns, .doneVoice s.voice)
    | (_, _, .error r) => (w, .refused (refusalStatus r))

/-- R105: STOP_VOICES. -/
def Reach.stopVoices (f : WatchFeed) (w : Reach) : Reach × ActionResult :=
  let n := (Num4.all.filter (fun i => (w.mixer.voices.get i).playing)).length
  let r := w.mixer.endVoices f.time .stopped Num4.all
  ({ w with mixer := r.1 }.send r.2, .doneCount n)

/-- Whether an entry watches a virtual input. -/
def watchesInput (i : VirtualId) (s : Source) : Bool := s == .virt i

/-- Whether an ACTIVE entry watches a virtual input. -/
def WatchUnit.watched (u : WatchUnit) (i : VirtualId) : Bool :=
  Num16.all.any (fun k => (u.entries.get k).any (Watch.on (watchesInput i)))

/-- A virtual input takes a value. -/
def Reach.setInput (w : Reach) (i : VirtualId) (v : Int) : Reach :=
  { w with watch := { w.watch with virt := w.watch.virt.set i v } }

/-- An evaluation of one entry: the parts reached after it and the firings it caused. -/
abbrev Evaluate := WatchId → Int → Reach → Reach × Nat

/-- Evaluate the ACTIVE entries on a source in ascending order of id, each with the value `value` gives it; gives how
many were evaluated and how many firings there were. An entry is taken if it is ACTIVE when its turn comes, after the
firings of the entries before it (log entry 61). -/
def evalEach (ev : Evaluate) (t : Source → Bool) (value : Watch → Int) : List WatchId → Reach → Reach × Nat × Nat
  | [], w => (w, 0, 0)
  | i :: is, w =>
    match w.watch.entries.get i with
    | none => evalEach ev t value is w
    | some e =>
      if e.on t then
        let r := ev i (value e) w
        let r2 := evalEach ev t value is r.1
        (r2.1, r2.2.1 + 1, r.2 + r2.2.2)
      else evalEach ev t value is w

/-- R101: a write of a virtual input and the evaluations it starts. -/
def writeInput (ev : Evaluate) (i : VirtualId) (v : Int) (w : Reach) : Reach × Nat × Nat :=
  evalEach ev (watchesInput i) (fun _ => v) Num16.all (w.setInput i v)

/-- R106: a SET_VIRTUAL action. `inner` evaluates one depth deeper; at depth 4 there is none. The flag says that the
action was performed. -/
def Reach.writeAction (inner : Option Evaluate) (self : WatchId) (i : VirtualId) (v : Nat) (w : Reach) :
    Reach × Nat × Bool :=
  match inner with
  | some ev =>
    let r := writeInput ev i v w
    (r.1, r.2.2, true)
  | none =>
    if w.watch.watched i then (w.update self (fun e => { e with state := .disabled .loop }), 0, false)
    else (w.setInput i v, 0, true)

/-- R103 item 1: the actions in list order: the parts reached, the results, the firings inside. `v` is the value that
made the condition true. A write refused at depth 4 ends the actions of that firing (R106); the outer firings of the
same chain, of the same entry included, go on with their remaining actions (log entry 54). -/
def performActions (f : WatchFeed) (inner : Option Evaluate) (self : WatchId) (v : Int) :
    List Action → Reach → Reach × List ActionResult × Nat
  | [], w => (w, [], 0)
  | a :: as, w =>
    let go (x : Reach) (r : ActionResult) (n : Nat) : Reach × List ActionResult × Nat :=
      let y := performActions f inner self v as x
      (y.1, r :: y.2.1, n + y.2.2)
    match a with
    | .brake ps => go (w.cut f .brake ps).1 (w.cut f .brake ps).2 0
    | .coast ps => go (w.cut f .coast ps).1 (w.cut f .coast ps).2 0
    | .play g vol pr => go (w.play f g vol pr).1 (w.play f g vol pr).2 0
    | .stopVoices => go (w.stopVoices f).1 (w.stopVoices f).2 0
    | .notify l c => go (w.send [{ link := l, notice := .watchNote self c v f.time }]) .done 0
    | .setVirtual i b =>
      match w.writeAction inner self i b with
      | (x, n, true) => go x .done n
      | (x, n, false) => (x, .notPerformed :: as.map (fun _ => .notPerformed), n)

/-- R103 items 1 to 3: an entry fires at a depth. -/
def Reach.fire (f : WatchFeed) (depth : Nat) (inner : Option Evaluate) (i : WatchId) (v : Int) (e : Watch)
    (w : Reach) : Reach × Nat :=
  let w1 := w.update i (fun _ => { e with fires := min 65535 (e.fires + 1) })
  let r := performActions f inner i v e.actions w1
  let w2 := r.1.update i Watch.afterFiring
  match w2.watch.entries.get i with
  | none => (w2, r.2.2 + 1)
  | some e2 =>
    match e2.firedLink with
    | none => (w2, r.2.2 + 1)
    | some l =>
      (w2.send [{ link := l, notice := .watchFired i v depth e2.state e2.fires r.2.1 f.time }], r.2.2 + 1)

/-- R102, R103: one evaluation of an entry. -/
def evaluate (f : WatchFeed) (depth : Nat) (inner : Option Evaluate) : Evaluate := fun i v w =>
  match w.watch.entries.get i with
  | none => (w, 0)
  | some e =>
    let e1 := e.seen v
    if e1.fires? then w.fire f depth inner i v e1 else (w.update i (fun _ => e1), 0)

/-- R106: evaluation with `n` deeper levels left; depth 1 has three, depth 4 none. -/
def evalWith (f : WatchFeed) : Nat → Evaluate
  | 0 => evaluate f 4 none
  | n + 1 => evaluate f (3 - n) (some (evalWith f n))

/-- An evaluation at depth 1. -/
def evalFirst (f : WatchFeed) : Evaluate := evalWith f 3

/-! ### Arrivals (R98, R100, R101) -/

/-- Whether a source is a sensor port. -/
def Source.onPort (p : SensorPort) : Source → Bool
  | .sensor q _ _ => q == p
  | _ => false

/-- The value a SENSOR entry takes from a sample. -/
def Watch.sensorValue (values : List Int) (e : Watch) : Int :=
  match e.source with
  | .sensor _ _ i => values.getD i 0
  | _ => 0

/-- R98: a sample on a port reaches the watch unit. -/
def Reach.sample (f : WatchFeed) (p : SensorPort) (values : List Int) (w : Reach) : Reach :=
  (evalEach (evalFirst f) (Source.onPort p) (Watch.sensorValue values) Num16.all w).1

/-- R101: a cue event reaches the watch unit. -/
def Reach.cue (f : WatchFeed) (region : Nat) (v : VoiceId) (w : Reach) : Reach :=
  (evalEach (evalFirst f) (fun s => s == .cue region) (fun _ => v.num) Num16.all w).1

/-- R100: MOTOR SPEED of a change of the encoder count; past the range of a value, a free value (log entry 47). -/
def motorSpeed (d : Int) : Int :=
  if -2147483648 ≤ d * 100 ∧ d * 100 ≤ 2147483647 then d * 100
  else clamp (-2147483648) 2147483647 (Config.speedPast d)

/-- R100: the value of a motor quantity at a scan. -/
def motorValue (m : Motors) (old : Six Int) (p : MotorPort) (q : Quantity) : Int :=
  let c := m.ch.get p
  match q with
  | .position => c.enc
  | .speed => motorSpeed (c.enc - old.get p)
  | .current => c.mA
  | .stall => c.stallTimer

/-- R100: whether an ACTIVE entry is on a motor port with no motor. -/
def Watch.motorless (m : Motors) (e : Watch) : Bool :=
  match e.source with
  | .motor p _ => (m.ch.get p).kind == .none
  | _ => false

/-- R100: whether a source is evaluated at a scan. -/
def Source.scanned (m : Motors) : Source → Bool
  | .motor p _ => (m.ch.get p).kind != .none
  | .battery => true
  | _ => false

/-- R100: the value of an entry at a scan. -/
def Watch.scanValue (m : Motors) (old : Six Int) (vb : Nat) (e : Watch) : Int :=
  match e.source with
  | .motor p q => motorValue m old p q
  | .battery => vb
  | _ => 0

/-- R100: entries on motorless ports lose their run state. -/
def WatchUnit.clearMotorless (m : Motors) (u : WatchUnit) : WatchUnit :=
  { u with entries := u.entries.map (fun o =>
      o.map (fun e => if e.state = .active ∧ e.motorless m then e.cleared else e)) }

/-- R100: the encoder counts kept for the next scan. Only a scan that finds no motor and ZERO_COUNT make a kept count 0:
a motor exchanged for one of the other kind between two scans leaves it, so that MOTOR SPEED then shows the change of
the count (log entry 55). -/
def keptCounts (m : Motors) : Six Int := m.ch.map (fun c => if c.kind = .none then 0 else c.enc)

/-- WATCH_SCAN (R100): motor values as the scan finds them. -/
def Reach.scan (f : WatchFeed) (vb : Nat) (w : Reach) : Reach :=
  let m := w.motors
  let old := w.watch.scanEnc
  let w1 : Reach := { w with watch := { w.watch.clearMotorless m with scanEnc := keptCounts m } }
  (evalEach (evalFirst f) (Source.scanned m) (Watch.scanValue m old vb) Num16.all w1).1

/-- WATCH_FIRE: an evaluation of an ACTIVE entry that reaches its debounce (log entry 3). -/
def Reach.fireNow (f : WatchFeed) (i : WatchId) (v : Int) (w : Reach) : Reach :=
  match w.watch.entries.get i with
  | none => w
  | some e => if e.state = .active ∧ (e.seen v).fires? then (evalFirst f i v w).1 else w

/-! ### Re-examination (R99) -/

/-- R99: the test an entry passes to be ACTIVE; only SENSOR entries can fail it. -/
def Source.fits (ports : Eight Port) : Source → Bool
  | .sensor p m i =>
    let q := ports.get p
    q.state == .ready && q.mode == m &&
      q.desc.any (fun d => d.modes.any (fun y => y.number == m && decide (i < y.valueCount)))
  | _ => true

/-- R99 on one entry. -/
def Watch.reexamined (ports : Eight Port) (e : Watch) : Watch :=
  match e.state with
  | .active => if e.source.fits ports then e else { e.cleared with state := .dormant }
  | .dormant => if e.source.fits ports then { e.cleared with state := .active, last := none } else e
  | _ => e

/-- R99: the SENSOR entries on a port are re-examined. -/
def WatchUnit.reexamine (ports : Eight Port) (p : SensorPort) (u : WatchUnit) : WatchUnit :=
  { u with entries := u.entries.map (fun o =>
      o.map (fun e => if e.source.onPort p then e.reexamined ports else e)) }

/-- The state an entry takes when a request makes it ACTIVE (R99). -/
def Watch.activated (ports : Eight Port) (e : Watch) : Watch :=
  { e.cleared with state := if e.source.fits ports then .active else .dormant }

/-! ### Composite values of WATCH_STATUS (R173) -/

def Source.bytes : Source → List Byte
  | .sensor p m i => [byte 0, byte p.num, byte m, byte i]
  | .motor p q => [byte 1, byte p.code, byte (quantityCode q)]
  | .virt i => [byte 2, byte i.num]
  | .cue r => [byte 3, byte r]
  | .battery => [byte 4]

def Comparison.bytes : Comparison → List Byte
  | .above t => byte 0 :: leInt 4 t
  | .below t => byte 1 :: leInt 4 t
  | .inside lo hi => byte 2 :: (leInt 4 lo ++ leInt 4 hi)
  | .outside lo hi => byte 3 :: (leInt 4 lo ++ leInt 4 hi)
  | .equal t => byte 4 :: leInt 4 t
  | .change => [byte 5]

def Action.bytes : Action → List Byte
  | .brake ps => byte 0 :: portBytes ps
  | .coast ps => byte 1 :: portBytes ps
  | .play g v p => [byte 2, byte g, byte v, byte p]
  | .stopVoices => [byte 3]
  | .setVirtual i v => [byte 4, byte i.num, byte v]
  | .notify l c => [byte 5, byte (linkCode l), byte c]

/-! ### Requests (R108 to R112) -/

/-- The watch unit after a request that starts no evaluation. -/
structure WatchAnswer where
  watch : WatchUnit
  reply : Reply
  deriving DecidableEq, Repr

def WatchAnswer.none (u : WatchUnit) (r : Reply) : WatchAnswer := { watch := u, reply := r }

/-- The id of a watch request; outside 1 to 16 is RANGE, an absent one MISSING_FIELD (log entry 52). -/
def watchIdField (fs : Fields) : Val WatchId := (natField 1 fs).check .range Num16.ofNum

/-- The state of an entry as a reply field. -/
def stateField (e : Option Watch) : List Byte := fieldNat 1 1 (watchStateCode (e.map (fun x => x.state)))

/-- The actions of a WATCH_SET, one for each occurrence of its field (R174 item 3). -/
def actionValues (fs : Fields) : List (Composite Action) := (fieldValues 7 fs).map parseAction

/-- ACTIONS and the field failures of the actions. -/
def badActions (as : List (Composite Action)) : List Check :=
  (if as = [] ∨ 3 < as.length ∨ as.contains .invalid then [.actions] else []) ++
    (if as.contains .short then [.field] else [])

/-- The actions that decoded. -/
def goodActions : List (Composite Action) → List Action
  | [] => []
  | .val a :: as => a :: goodActions as
  | _ :: as => goodActions as

/-- The fields of a WATCH_SET (11.5). -/
structure WatchFields where
  source : Val Source
  cmp : Val Comparison
  hyst : Val Nat
  debounce : Val Nat
  rearm : Val Rearm
  actions : List (Composite Action)
  notify : Val Link

def WatchFields.read (fs : Fields) : WatchFields :=
  { source := compositeField .source 2 parseSource fs, cmp := compositeField .comparison 3 parseComparison fs,
    hyst := natField 4 fs, debounce := natField 5 fs, rearm := enumFieldAs .range 6 rearmOfCode fs,
    actions := actionValues fs, notify := enumFieldAs .range 8 linkOfCode fs }

/-- COMPARISON for bounds and hysteresis (R108). -/
def badBounds (h : Nat) : Comparison → Bool
  | .inside lo hi => decide (hi < lo)
  | .outside lo hi => decide (hi < lo) || decide (hi - lo < 2 * (h : Int))
  | _ => false

/-- R108: an absent field under the check the rule names for it. -/
def Val.needAs {α : Type} (c : Check) : Val α → List Check
  | .absent => [c]
  | .bad d => [d]
  | .val _ => []

/-- The checks of R108 item 2 other than the id's. A hysteresis that did not decode counts as 0 in the bounds of an
OUTSIDE, the model's choice (log entry 68). -/
def WatchFields.bad (x : WatchFields) : List Check :=
  x.source.needAs .source ++ x.cmp.needAs .comparison ++
    x.cmp.violates .comparison (badBounds (x.hyst.get?.getD 0)) ++ x.hyst.fails ++
    x.hyst.violates .range (fun n => decide (65535 < n)) ++ x.debounce.fails ++
    x.debounce.violates .range (outsideNat 1 50) ++ x.rearm.fails ++ x.notify.fails ++ badActions x.actions

/-- The field failures among checks (R174 items 2 and 5). -/
def fieldFailures (cs : List Check) : List Check := cs.filter (fun c => c == .field || c == .missingField)

/-- The entry of fields that passed. -/
def WatchFields.entry (l : Link) (x : WatchFields) : Watch :=
  { state := .active, owner := l, source := x.source.get?.getD .battery, cmp := x.cmp.get?.getD .change,
    hyst := x.hyst.get?.getD 0, debounce := x.debounce.get?.getD 1, rearm := x.rearm.get?.getD .once,
    actions := goodActions x.actions, notify := x.notify.get?, cond := false, trueCount := 0, latch := false,
    last := none, fires := 0 }

/-- Whether a link may not change an entry (R108, R109). -/
def deniedOn (l : Link) (e : Option Watch) : Bool := l == .remote && e.any (fun x => x.owner == .primary)

/-- WATCH_SET (R108). An id that does not decode is read by the first check, so it refuses the request at once. -/
def WatchUnit.set (ports : Eight Port) (l : Link) (fs : Fields) (u : WatchUnit) : WatchAnswer :=
  let x := WatchFields.read fs
  match natField 1 fs with
  | .val n =>
    match Num16.ofNum n with
    | none => WatchAnswer.none u (.invalid (.range :: x.bad))
    | some i =>
      if deniedOn l (u.entries.get i) then WatchAnswer.none u (Reply.refuse .denied)
      else if x.bad ≠ [] then WatchAnswer.none u (.invalid x.bad)
      else
        let e := some ((x.entry l).activated ports)
        { watch := u.setEntry i e, reply := .plain .ok (stateField e) }
  | v => WatchAnswer.none u (.invalid (v.need ++ fieldFailures x.bad))

/-- R109: range and ownership, then the effect. -/
def WatchUnit.onEntry (l : Link) (fs : Fields) (others : List Check) (act : WatchId → Option Watch → WatchAnswer)
    (u : WatchUnit) : WatchAnswer :=
  match watchIdField fs with
  | .val i =>
    if others ≠ [] then WatchAnswer.none u (.invalid others)
    else if deniedOn l (u.entries.get i) then WatchAnswer.none u (Reply.refuse .denied)
    else act i (u.entries.get i)
  | v => WatchAnswer.none u (.invalid (v.need ++ others))

/-- WATCH_CLEAR (R109). -/
def WatchUnit.clear (l : Link) (fs : Fields) (u : WatchUnit) : WatchAnswer :=
  u.onEntry l fs [] (fun i _ => { watch := u.setEntry i none, reply := Reply.ok })

/-- An accepted request on an entry, with its state as the reply. -/
def WatchUnit.put (i : WatchId) (e : Watch) (u : WatchUnit) : WatchAnswer :=
  { watch := u.setEntry i (some e), reply := .plain .ok (stateField (some e)) }

/-- WATCH_REARM (R109). -/
def WatchUnit.rearm (ports : Eight Port) (l : Link) (fs : Fields) (u : WatchUnit) : WatchAnswer :=
  u.onEntry l fs [] (fun i o =>
    match o with
    | none => WatchAnswer.none u (.invalid [.state])
    | some e =>
      match e.state with
      | .fired => u.put i (e.activated ports)
      | .active => u.put i (if e.rearm = .edge then e.cleared else e)
      | .dormant => u.put i e
      | .disabled _ => WatchAnswer.none u (.invalid [.state]))

/-- R110: the entry after WATCH_ENABLE. -/
def Watch.enabled (ports : Eight Port) (yes : Bool) (e : Watch) : Watch :=
  match e.state, yes with
  | .disabled _, true => e.activated ports
  | .disabled _, false => { e with state := .disabled .byRequest }
  | _, true => e
  | _, false => { e.cleared with state := .disabled .byRequest }

/-- WATCH_ENABLE (R110). -/
def WatchUnit.enable (ports : Eight Port) (l : Link) (fs : Fields) (u : WatchUnit) : WatchAnswer :=
  let flag := flagField 2 fs
  u.onEntry l fs flag.need (fun i o =>
    match o with
    | none => WatchAnswer.none u (.invalid [.state])
    | some e => u.put i (e.enabled ports (flag.get?.getD false)))

/-- The virtual inputs as repeated reply fields (log entry 8). -/
def WatchUnit.inputFields (k : Nat) (u : WatchUnit) : List Byte :=
  Num8.all.flatMap (fun i => fieldInt k 4 (u.virt.get i))

/-- The disabled reason of an entry. -/
def reasonOf (e : Option Watch) : Option DisabledReason := e.bind (fun x => disabledReasonOf x.state)

/-- R111, id 1 to 16 (log entry 8). The condition state and the latch are written as flags, true and set as 1, the
model's choice (log entry 63). -/
def WatchUnit.entryData (u : WatchUnit) (o : Option Watch) : List Byte :=
  stateField o ++ fieldOpt (reasonOf o) (fun r => fieldNat 2 1 (disabledReasonCode r)) ++
    fieldOpt o (fun e =>
      fieldNat 3 1 (linkCode e.owner) ++ field 4 e.source.bytes ++ field 5 e.cmp.bytes ++ fieldNat 6 2 e.hyst ++
        fieldNat 7 1 e.debounce ++ fieldNat 8 1 (rearmCode e.rearm) ++ e.actions.flatMap (fun a => field 9 a.bytes) ++
        fieldOpt e.notify (fun l => fieldNat 10 1 (linkCode l)) ++ fieldNat 11 1 (flagCode e.cond) ++
        fieldNat 12 1 e.trueCount ++ fieldNat 13 1 (flagCode e.latch) ++ fieldOpt e.last (fieldInt 14 4) ++
        fieldNat 15 2 e.fires) ++ u.inputFields 16

/-- R111, id 0 (log entry 8). -/
def WatchUnit.summaryData (u : WatchUnit) : List Byte :=
  Num16.all.flatMap (fun i =>
    let o := u.entries.get i
    field 1 (byte (watchStateCode (o.map (fun x => x.state))) ::
      byte (((reasonOf o).map disabledReasonCode).getD 255) :: leBytes 2 ((o.map (fun x => x.fires)).getD 0))) ++
    u.inputFields 2

/-- WATCH_STATUS (R111). An absent id is MISSING_FIELD and not RANGE (log entry 52). -/
def WatchUnit.status (fs : Fields) (u : WatchUnit) : Reply :=
  match natField 1 fs with
  | .val n =>
    if n = 0 then .plain .ok u.summaryData
    else
      match Num16.ofNum n with
      | some i => .plain .ok (u.entryData (u.entries.get i))
      | none => .invalid [.range]
  | v => .invalid v.need

/-- SET_VIRTUAL (R112): the parts reached and the reply. -/
def Reach.setVirtual (f : WatchFeed) (fs : Fields) (w : Reach) : Reach × Reply :=
  let input := (natField 1 fs).check .input Num8.ofNum
  let value := (intField 2 fs).check .field (fun v => if outside (-2147483648) 2147483647 v then none else some v)
  match input, value with
  | .val i, .val v =>
    let r := writeInput (evalFirst f) i v w
    (r.1, .plain .ok (fieldNat 1 1 r.2.1 ++ fieldNat 2 2 r.2.2))
  | a, b => (w, .invalid (a.need ++ b.need))

end Sys2Proof.Machine
end

