-- ==== Sys2Proof/Machine/Parts.lean ====
section
/-! DEFINITION. The blocks as parts of the whole: what one block reads of the others, and how the results of a block's
work go back into the state. -/

namespace Sys2Proof.Machine

/-- Motors may be driven: the power state is neither CRITICAL nor SLEEP (R25). -/
def State.live (s : State) : Bool := s.supply.power == .run || s.supply.power == .economy

/-- The part is not asleep. -/
def State.awake (s : State) : Bool := s.supply.power != .sleep

/-- What a control expiry reads. -/
def State.feed (s : State) : Feed := { live := s.live, vb := s.supply.vb, lam := s.supply.lambda }

/-- What a start of a voice reads. -/
def State.soundFeed (s : State) : SoundFeed :=
  { power := s.supply.power, paused := s.motors.pause != .running, time := s.now }

/-- What a chain of evaluations reads. -/
def State.watchFeed (s : State) : WatchFeed :=
  { live := s.live, power := s.supply.power, time := s.now, store := s.store }

/-- What a chain of evaluations can change. -/
def State.reach (s : State) : Reach := { watch := s.watch, motors := s.motors, mixer := s.mixer, router := s.router }

/-- The parts reached go back. -/
def State.withReach (s : State) (w : Reach) : State :=
  { s with watch := w.watch, motors := w.motors, mixer := w.mixer, router := w.router }

/-- The motor controller after an event, its notices handed over. -/
def State.withMotors (s : State) (r : Motors × List Sent) : State := { s with motors := r.1 }.notifyAll r.2

/-- The mixer after an event, its notices handed over. -/
def State.withMixer (s : State) (r : Mixer × List Sent) : State := { s with mixer := r.1 }.notifyAll r.2

/-- Whether a running capture writes into a region. -/
def Sensors.capturing (x : Sensors) (id : Nat) : Bool := x.captures.any (fun c => c.region == id)

/-- What holds regions in use besides the window (R113). -/
def State.uses (s : State) : Uses := { voice := s.mixer.plays, capture := s.sensors.capturing }

/-- Whether compaction runs (R125). -/
def State.compacting (s : State) : Bool := s.store.compaction.isSome

end Sys2Proof.Machine
end

