-- ==== Sys2Proof/Machine/Sensors.lean ====
section
/-! DEFINITION. Sensor banks and ports (04): bank supplies (R63 to R66), the ID line (R68, R69), passive devices (R70),
the handshake (R71 to R73), described ports (R74 to R77), PORT_EVENT (R78), and the arrival of a sample (R82) with
the capture that takes it (R92 to R95). -/

namespace Sys2Proof.Machine

/-! ### Records -/

def Sensors.bank (x : Sensors) : BankId → Bank
  | .l => x.bankL
  | .r => x.bankR

def Sensors.setBank (x : Sensors) (b : BankId) (k : Bank) : Sensors :=
  match b with
  | .l => { x with bankL := k }
  | .r => { x with bankR := k }

/-- The port record. -/
def State.port (s : State) (p : SensorPort) : Port := s.sensors.ports.get p

/-- Write a port record. -/
def State.setPort (s : State) (p : SensorPort) (q : Port) : State :=
  { s with sensors := { s.sensors with ports := s.sensors.ports.set p q } }

/-- Write a bank's supply record. -/
def State.setBank (s : State) (b : BankId) (k : Bank) : State := { s with sensors := s.sensors.setBank b k }

/-- The mode of a descriptor with a number. -/
def Descriptor.find (d : Descriptor) (n : Nat) : Option ModeDesc := d.modes.find? (fun m => m.number == n)

/-- The selected mode of a port with a descriptor. -/
def Port.modeDesc (q : Port) : Option ModeDesc := q.desc.bind (fun d => d.find q.mode)

/-- A smart device is attached and described. -/
def Port.smart (q : Port) : Bool := q.desc.any (fun d => d.speed.isSome)

/-- READY or SWITCHING. -/
def Port.described (q : Port) : Bool := q.state == .ready || q.state == .switching

/-! ### Captures at a port (R92 to R95) -/

/-- The capture running on a port. -/
def Sensors.captureOn (x : Sensors) (p : SensorPort) : Option Capture := x.captures.find? (fun c => c.port == p)

/-- R94, R95: a capture ends: its entry is free, its region READY, CAPTURE_END goes to its starter. -/
def State.finishCapture (s : State) (c : Capture) (o : CaptureOutcome) : State :=
  let fill := ((s.store.find c.region).map (fun r => r.fill)).getD 0
  { s with sensors := { s.sensors with captures := s.sensors.captures.filter (fun d => d.port != c.port) },
           store := s.store.update c.region (fun r => { r with ready := true }) }.notify c.starter
    (.captureEnd c o fill s.now)

/-- R94: the capture on a port ends, if one runs. -/
def State.endCapture (s : State) (p : SensorPort) (o : CaptureOutcome) : State :=
  match s.sensors.captureOn p with
  | none => s
  | some c => s.finishCapture c o

/-- R92: the bytes of a recorded value. -/
def captureBytes (v : Int) : List Byte := leInt 2 (clamp (-32768) 32767 v)

/-- R92: a value is written at the write offset. -/
def Store.record (st : Store) (id offset : Nat) (v : Int) : Store :=
  match st.find id with
  | none => st
  | some r =>
    let bs := captureBytes v
    { st.update id (fun r => { r with fill := max r.fill (offset + 2) }) with
      mem := Memory.write (r.base + offset + 1) (bs.getD 1 0) (Memory.write (r.base + offset) (bs.getD 0 0) st.mem) }

/-- R93: the capture record after a value is recorded in a region of the length given; `none` when it ends FULL. -/
def Capture.recorded (length : Nat) (c : Capture) : Capture × Bool :=
  let c1 : Capture := { c with count := 0, offset := c.offset + 2, written := addCount c.written 1 }
  if c1.offset < length then (c1, false)
  else
    match c.endMode with
    | .stop => (c1, true)
    | .wrap => ({ c1 with offset := 0, wrapped := true }, false)

/-- Write a capture record. -/
def Sensors.setCapture (x : Sensors) (c : Capture) : Sensors :=
  { x with captures := replaceFirst (fun d => d.port == c.port) (fun _ => c) x.captures }

/-- R93: a sample is offered to the capture on its port. -/
def State.offer (s : State) (p : SensorPort) (values : List Int) : State :=
  match s.sensors.captureOn p with
  | none => s
  | some c =>
    if c.count + 1 < c.decim then { s with sensors := s.sensors.setCapture { c with count := c.count + 1 } }
    else
      let length := ((s.store.find c.region).map (fun r => r.length)).getD 0
      let x := c.recorded length
      let s1 : State :=
        { s with sensors := s.sensors.setCapture x.1,
                 store := s.store.record c.region c.offset (values.getD c.index 0) }
      if x.2 then s1.finishCapture x.1 .full else s1

/-! ### Port changes (R78, R99) -/

/-- Whether R78 reports an entry into a state. -/
def reportedState : PortState → Bool
  | .ready => true | .empty => true | .error => true | .unpowered => true
  | .probing => false | .handshake => false | .switching => false

/-- PORT_EVENT (R78) for a port as it stands. -/
def State.portNotice (s : State) (p : SensorPort) : Notice :=
  let q := s.port p
  let k := s.sensors.bank (bankOf p)
  .portEvent p q.state (if q.state = .error then q.reason else none)
    (if q.state = .ready then q.desc.map (fun d => (d.kind, d.modes.length, q.mode)) else none)
    (if q.state = .unpowered then some (k.state, k.trips) else none) s.now

/-- A port changes state: PORT_EVENT if R78 asks for it, the watch entries on it re-examined (R99), and the capture
on it ended when the change is a cause of R94; the port event's own notice comes first. -/
def State.changePort (s : State) (p : SensorPort) (q : Port) (o : Option CaptureOutcome) : State :=
  let s1 := s.setPort p q
  let s2 := if reportedState q.state then s1.notify .primary (s1.portNotice p) else s1
  let s3 : State := { s2 with watch := s2.watch.reexamine s2.sensors.ports p }
  match o with
  | none => s3
  | some x => s3.endCapture p x

/-- R67: the bank leaves ON. -/
def Port.unpower (q : Port) : Port := { Port.unpowered with arrival := q.arrival, mode := q.mode }

/-- R64, R67: the bank powers up. -/
def Port.powerUp (q : Port) : Port := { Port.probing with arrival := q.arrival }

/-- R75: entry into ERROR. -/
def Port.enterError (r : ErrorReason) (q : Port) : Port :=
  { q with state := .error, reason := some r, desc := none, hs := none, candidate := none, departing := none,
           errTime := 0 }

/-- R75: the error time has run out. -/
def Port.reprobe (q : Port) : Port := { q with state := .probing, reason := none, candidate := none, departing := none }

/-! ### The ID line (R68 to R70) -/

/-- 4.4: the part's own descriptor for a band. -/
def passiveDescriptor (kind : Nat) (lo hi : Int) : Descriptor :=
  { kind := kind, speed := none,
    modes := [{ number := 0, valueCount := 1, format := .int16, min := lo, max := hi, interval := 5 }] }

/-- R70: a passive device is installed. -/
def Port.install (d : Descriptor) (q : Port) : Port :=
  { q with state := .ready, desc := some d, mode := 0, ring := [], hs := none }

/-- R71: HANDSHAKE begins with attempt count 0, on a line of 9600 bit/s. -/
def Port.beginHandshake (q : Port) : Port :=
  { q with state := .handshake, lineSpeed := 9600,
           hs := some { stage := .describe, pending := none, attempts := 0, wait := 0 } }

/-- R68: a port is decided by a class; what it held of a device before is gone. -/
def Port.decidedBy (c : IdClass) (q : Port) : Port :=
  let q1 : Port := { q with cls := some c, candidate := none, departing := none, desc := none, hs := none }
  match c with
  | .openLine => { q1 with state := .empty }
  | .short => q1.enterError .short
  | .band1 => q1.install (passiveDescriptor 251 0 1)
  | .band2 => q1.install (passiveDescriptor 252 0 1000)
  | .band3 => q1.install (passiveDescriptor 253 (-550) 1500)
  | .band4 => q1.install (passiveDescriptor 254 0 5000)
  | .serial => q1.beginHandshake

/-- R68, R69: PORT_ID_MEASURE. A departure ends the capture on its port DETACHED, also where the new class SHORT takes
the port to ERROR: R94 names both outcomes and gives neither precedence (log entry 53). Where the new class takes the
port from READY straight to READY, the watch entries on it are re-examined once, on the new state (R99), and an ACTIVE
entry that fits it keeps its run state and last value, the model's choice (log entry 65). -/
def State.measureId (s : State) (p : SensorPort) (c : IdClass) : State :=
  let q := s.port p
  match q.state with
  | .unpowered => s
  | .error => s
  | .empty =>
    if c = .openLine then s else s.changePort p { q with state := .probing, candidate := some c } none
  | .probing =>
    if q.candidate = some c then s.changePort p (q.decidedBy c) none else s.setPort p { q with candidate := some c }
  | _ =>
    if q.cls = some c then s.setPort p { q with departing := none }
    else if q.departing = some c then s.changePort p (q.decidedBy c) (some .detached)
    else s.setPort p { q with departing := some c }

/-! ### Banks (R63 to R66) -/

/-- A change of every port of a bank in ascending order (R78), each with the end of its capture: that the CAPTURE_END of
one port goes before the PORT_EVENT of the next is the model's reading (log entry 69). -/
def State.changePorts (s : State) (f : Port → Port) (o : Option CaptureOutcome) : List SensorPort → State
  | [] => s
  | p :: ps => State.changePorts (s.changePort p (f (s.port p)) o) f o ps

/-- R63: the supply record of a bank that trips. -/
def Bank.trip (k : Bank) : Bank :=
  { state := if k.trips + 1 = 3 then .locked else .tripped, trips := k.trips + 1, overTime := 0, retry := 0, clean := 0 }

/-- R63: the bank trips. -/
def State.tripBank (s : State) (b : BankId) : State :=
  State.changePorts (s.setBank b (s.sensors.bank b).trip) Port.unpower (some .unpowered) b.ports

/-- R64: the bank powers up. -/
def State.powerUpBank (s : State) (b : BankId) (trips : Nat) : State :=
  State.changePorts (s.setBank b { s.sensors.bank b with state := .on, trips := trips, overTime := 0, clean := 0 })
    Port.powerUp none b.ports

/-- R63: the over-current time after a reading. -/
def overTimeAfter (k : Bank) (mA : Nat) : Nat := if 250 < mA then k.overTime + 1 else 0

/-- BANK_CURRENT_MEASURE (R63). -/
def State.measureBank (s : State) (b : BankId) (mA : Nat) : State :=
  let k := s.sensors.bank b
  if k.state = .on then
    if 5 ≤ overTimeAfter k mA then s.tripBank b else s.setBank b { k with overTime := overTimeAfter k mA }
  else s

/-- BANK_TRIP (R63): this millisecond above the threshold is the fifth (log entry 3). -/
def State.bankTrip (s : State) (b : BankId) : State :=
  let k := s.sensors.bank b
  if k.state = .on ∧ 5 ≤ k.overTime + 1 then s.tripBank b else s

/-- RETRY_END (R64). -/
def State.retryEnd (s : State) (b : BankId) : State :=
  let k := s.sensors.bank b
  if k.state = .tripped ∧ 1000 ≤ k.retry then s.powerUpBank b k.trips else s

/-- CLEAN_TIME_REACHED (R64). -/
def State.cleanTimeReached (s : State) (b : BankId) : State :=
  let k := s.sensors.bank b
  if k.state = .on ∧ 10000 ≤ k.clean then s.setBank b { k with trips := 0 } else s

/-- BANK_R_POWER_UP (R66). -/
def State.bankRPowerUp (s : State) : State :=
  match s.sensors.bankRWait with
  | none => s
  | some n =>
    if 20 ≤ n then
      { s with sensors := { s.sensors with bankRWait := none } }.powerUpBank .r s.sensors.bankR.trips
    else s

/-! ### Arrival of a sample (R82) -/

/-- The port after a sample joined its ring (R82 item 1). -/
def Port.join (q : Port) (time : Word32) (values : List Int) : Port :=
  let x : Sample := { time := time, mode := q.mode, values := values, arrival := q.arrival + 1 }
  { q with arrival := q.arrival + 1, ring := (if q.ring.length < 16 then q.ring else q.ring.drop 1) ++ [x] }

/-- The three stages of R82. -/
def State.arrive (s : State) (p : SensorPort) (values : List Int) : State :=
  let s1 := s.setPort p ((s.port p).join s.now values)
  let s2 := s1.offer p values
  s2.withReach (s2.reach.sample s2.watchFeed p values)

/-- A reading in the selected mode is accepted: values clamped, a switch ended (R74, R77), the sample taken. -/
def State.accept (s : State) (p : SensorPort) (m : ModeDesc) (values : List Int) : State :=
  let q : Port := { s.port p with silence := 0 }
  let s1 := if q.state = .switching then s.changePort p { q with state := .ready } none else s.setPort p q
  s1.arrive p (values.map (clamp m.min m.max))

/-- PASSIVE_SAMPLE (R70, R77). -/
def State.passiveSample (s : State) (p : SensorPort) (v : Int) : State :=
  let q := s.port p
  match q.modeDesc with
  | none => s
  | some m => if q.described && !q.smart then s.accept p m [v] else s

/-! ### The handshake (R71 to R73) -/

/-- Write the handshake record of a port. -/
def State.setHandshake (s : State) (p : SensorPort) (h : Handshake) : State :=
  s.setPort p { s.port p with hs := some h }

/-- R72: an attempt fails. -/
def State.failAttempt (s : State) (p : SensorPort) (h : Handshake) : State :=
  if h.attempts + 1 < 3 then
    s.setHandshake p { stage := .describe, pending := none, attempts := h.attempts + 1, wait := 0 }
  else s.changePort p ((s.port p).enterError .noHandshake) (some .portError)

/-- The handshake record of a port in HANDSHAKE. -/
def Port.handshake (q : Port) : Option Handshake := if q.state = .handshake then q.hs else none

/-- 4.5: a DESCRIBE with its fields in range. -/
def describeOk (kind count speed : Nat) : Bool :=
  decide (1 ≤ kind) && decide (kind ≤ 250) && decide (1 ≤ count) && decide (count ≤ 8) &&
    (speed == 57600 || speed == 115200)

/-- DESCRIBE_RECORD (R71). -/
def State.describeRecord (s : State) (p : SensorPort) (kind count speed : Nat) : State :=
  match (s.port p).handshake with
  | none => s
  | some h =>
    match h.stage with
    | .describe =>
      if describeOk kind count speed then
        s.setHandshake p { h with stage := .modes, wait := 0,
                                  pending := some { kind := kind, count := count, speed := speed, modes := [] } }
      else s.failAttempt p h
    | .modes => s.failAttempt p h
    | .accepting => s

/-- The range of a value format (R71). -/
def formatRange : ValueFormat → Int × Int
  | .int8 => (-128, 127)
  | .int16 => (-32768, 32767)
  | .int32 => (-2147483648, 2147483647)

/-- R71: the MODE record a description expects next. -/
def modeOk (d : PendingDesc) (m : ModeDesc) : Bool :=
  decide (d.modes.length < d.count) && m.number == d.modes.length && decide (1 ≤ m.valueCount) &&
    decide (m.valueCount ≤ 4) && decide (10 ≤ m.interval) && decide (m.interval ≤ 1000) && decide (m.min ≤ m.max) &&
    decide ((formatRange m.format).1 ≤ m.min) && decide (m.max ≤ (formatRange m.format).2)

/-- MODE_RECORD (R71). -/
def State.modeRecord (s : State) (p : SensorPort) (m : ModeDesc) : State :=
  match (s.port p).handshake with
  | none => s
  | some h =>
    match h.stage, h.pending with
    | .modes, some d =>
      if modeOk d m then s.setHandshake p { h with wait := 0, pending := some { d with modes := d.modes ++ [m] } }
      else s.failAttempt p h
    | .modes, none => s.failAttempt p h
    | _, _ => s

/-- END_RECORD (R71, R73): after the full count of modes the part sends ACCEPT. -/
def State.endRecord (s : State) (p : SensorPort) : State :=
  match (s.port p).handshake with
  | none => s
  | some h =>
    match h.stage, h.pending with
    | .modes, some d =>
      if d.modes.length = d.count then
        s.setPort p { s.port p with hs := some { h with stage := .accepting, wait := 0 }, lastSent := some .accept }
      else s.failAttempt p h
    | .modes, none => s.failAttempt p h
    | _, _ => s

/-- R73: the port of a device whose ACCEPT has been sent. -/
def Port.accepted (d : PendingDesc) (q : Port) : Port :=
  { q.install { kind := d.kind, speed := some d.speed, modes := d.modes } with silence := 0, lineSpeed := d.speed }

/-- ACCEPT_SENT (R73). -/
def State.acceptSent (s : State) (p : SensorPort) : State :=
  match (s.port p).handshake with
  | none => s
  | some h =>
    match h.stage, h.pending with
    | .accepting, some d => s.changePort p ((s.port p).accepted d) none
    | _, _ => s

/-- HANDSHAKE_TIMEOUT (R71). -/
def State.handshakeTimeout (s : State) (p : SensorPort) : State :=
  match (s.port p).handshake with
  | none => s
  | some h => if h.stage ≠ .accepting ∧ 100 ≤ h.wait then s.failAttempt p h else s

/-- A record that fails an attempt collecting modes and is ignored at every other time (R71, R74, R75). -/
def State.otherRecord (s : State) (p : SensorPort) : State :=
  match (s.port p).handshake with
  | none => s
  | some h => if h.stage = .modes then s.failAttempt p h else s

/-! ### A described port at work (R74 to R77) -/

/-- DATA_RECORD (R74, R77). -/
def State.dataRecord (s : State) (p : SensorPort) (mode : Nat) (values : List Int) : State :=
  let q := s.port p
  if q.state = .handshake then s.otherRecord p
  else
    match q.modeDesc with
    | none => s
    | some m =>
      if q.described ∧ q.smart ∧ mode = q.mode ∧ values.length = m.valueCount then s.accept p m values else s

/-- R74: the silence limit of a mode. -/
def silenceLimit (m : ModeDesc) : Nat := max 300 (3 * m.interval)

/-- R74: a smart port is silent. -/
def Port.silent (q : Port) : Bool :=
  q.described && q.smart && q.modeDesc.any (fun m => decide (silenceLimit m ≤ q.silence))

/-- SILENCE_TIMEOUT (R74, R75). -/
def State.silenceTimeout (s : State) (p : SensorPort) : State :=
  if (s.port p).silent then s.changePort p ((s.port p).enterError .silent) (some .portError) else s

/-- ERROR_TIME_END (R75). -/
def State.errorTimeEnd (s : State) (p : SensorPort) : State :=
  let q := s.port p
  if q.state = .error ∧ 500 ≤ q.errTime then s.changePort p q.reprobe none else s

/-- R76: a mode is selected. -/
def Port.select (n : Nat) (q : Port) : Port :=
  { q with mode := n, ring := [], silence := 0, state := .switching,
           lastSent := if q.smart then some (.select n) else q.lastSent }

/-! ### SOFT (R66, R80) -/

/-- R80: a port after a SOFT reset. -/
def Port.soft (q : Port) : Port :=
  let q1 : Port := { q with arrival := 0, mode := if q.desc.isSome then 0 else q.mode }
  if q.described && q.smart then q1.select 0 else q1

/-- R66: a bank after a SOFT reset. -/
def Bank.soft (k : Bank) : Bank :=
  if k.state = .locked then { k with state := .on, trips := 0, overTime := 0, clean := 0 } else { k with trips := 0 }

/-- R66, R67, R80: a port with its bank. -/
def Sensors.softPort (x : Sensors) (p : SensorPort) : Port :=
  if (x.bank (bankOf p)).state = .locked then { (x.ports.get p).powerUp with arrival := 0 } else (x.ports.get p).soft

/-- R66, R80, R81, R86, R94: the sensor controller after a SOFT reset. -/
def Sensors.soft (x : Sensors) : Sensors :=
  { bankL := x.bankL.soft, bankR := x.bankR.soft, bankRWait := x.bankRWait, ports := Eight.ofFn x.softPort,
    streams := Eight.fill none, captures := [], time := 0 }

end Sys2Proof.Machine
end

