-- ==== Sys2Proof/Machine/SensorRequests.lean ====
section
/-! DEFINITION. The sensor requests and streams (04 R65, R76, R79; 05): SENSOR_STATUS, SELECT_MODE, READ_SAMPLES,
STREAM_OPEN, STREAM_CLOSE, CAPTURE_START, CAPTURE_STOP, BANK_RESTORE, and the report of a stream (R84, R87 to
R89). -/

namespace Sys2Proof.Machine

/-- A sensor port; outside 1 to 8 it is PORT. -/
def sensorPortField (k : Nat) (fs : Fields) : Val SensorPort := (natField k fs).check .port Num8.ofNum

/-- A request's effect on the whole part with its reply. -/
abbrev Outcome := State × Reply

/-! ### Ports -/

/-- One mode of a descriptor as a composite value (R79, log entry 8). -/
def modeBytes (m : ModeDesc) : List Byte :=
  byte m.number :: byte m.valueCount :: byte (formatCode m.format) ::
    (leInt 4 m.min ++ leInt 4 m.max ++ leBytes 2 m.interval)

/-- The data of SENSOR_STATUS (R79, log entry 8). -/
def State.sensorData (s : State) (p : SensorPort) : List Byte :=
  let q := s.port p
  let k := s.sensors.bank (bankOf p)
  fieldNat 1 1 (portStateCode q.state) ++
    fieldOpt (if q.state = .error then q.reason else none) (fun r => fieldNat 2 1 (reasonCode r)) ++
    fieldNat 3 1 (bankIdCode (bankOf p)) ++ fieldNat 4 1 (bankStateCode k.state) ++ fieldNat 5 1 k.trips ++
    (if k.state = .tripped then fieldNat 6 2 (1000 - k.retry) else []) ++
    fieldOpt q.desc (fun d =>
      fieldNat 7 1 d.kind ++ fieldOpt d.speed (fieldNat 8 4) ++ d.modes.flatMap (fun m => field 9 (modeBytes m))) ++
    fieldNat 10 1 q.mode ++ fieldNat 11 1 q.ring.length

/-- SENSOR_STATUS (R79). An absent port is MISSING_FIELD and not PORT (log entry 52). -/
def State.sensorStatus (fs : Fields) (s : State) : Outcome :=
  match sensorPortField 1 fs with
  | .val p => (s, .plain .ok (s.sensorData p))
  | v => (s, .invalid v.need)

/-- SELECT_MODE (R76). An absent port or mode is MISSING_FIELD and neither PORT nor MODE (log entry 52). -/
def State.selectMode (fs : Fields) (s : State) : Outcome :=
  match sensorPortField 1 fs, natField 2 fs with
  | .val p, .val n =>
    let q := s.port p
    if !q.described then (s, Reply.refuse .noDevice)
    else if (q.desc.bind (fun d => d.find n)).isNone then (s, .invalid [.mode])
    else (s.changePort p (q.select n) (some .modeChanged), Reply.ok)
  | a, b => (s, .invalid (a.need ++ b.need))

/-- The bytes of a sample's value (R83). -/
def valueBytes (f : ValueFormat) (v : Int) : List Byte := leInt (formatBytes f) v

/-- A sample in a fixed layout (11.7). -/
def sampleBytes (f : ValueFormat) (x : Sample) : List Byte :=
  timeBytes x.time ++ (byte x.mode :: x.values.flatMap (valueBytes f))

/-- The bytes a sample takes (R83, R88). -/
def sampleSize (f : ValueFormat) (values : Nat) : Nat := 5 + values * formatBytes f

/-- The newest `n` samples of a ring, newest first. -/
def newest (n : Nat) (ring : List Sample) : List Sample := (ring.reverse).take n

/-- The layout of the reply to READ_SAMPLES (R83, 11.7). With no descriptor, mode and format are absent, and so is the
value count when the ring is empty. -/
def Port.samplesData (q : Port) (n : Nat) : List Byte :=
  let wanted := newest n q.ring
  match q.modeDesc with
  | some m =>
    let got := wanted.take (233 / sampleSize m.format m.valueCount)
    byte (portStateCode q.state) :: byte q.mode :: byte m.valueCount :: byte (formatCode m.format) ::
      byte got.length :: byte (flagCode (decide (got.length < wanted.length))) :: got.flatMap (sampleBytes m.format)
  | none =>
    let width := (q.ring.head?.map (fun x => x.values.length)).getD 255
    let got := wanted.take (233 / sampleSize .int32 width)
    byte (portStateCode q.state) :: byte 255 :: byte width :: byte 255 :: byte got.length ::
      byte (flagCode (decide (got.length < wanted.length))) :: got.flatMap (sampleBytes .int32)

/-- READ_SAMPLES (R83). An absent port or count is MISSING_FIELD and neither PORT nor COUNT (log entry 52). -/
def State.readSamples (fs : Fields) (s : State) : Outcome :=
  let count := (natField 2 fs).check .count (fun n => if 1 ≤ n ∧ n ≤ 16 then some n else none)
  match sensorPortField 1 fs, count with
  | .val p, .val n => (s, .plain .ok ((s.port p).samplesData n))
  | a, b => (s, .invalid (a.need ++ b.need))

/-- BANK_RESTORE (R65). From the remote link it is DENIED before anything is read (log entry 26). An absent bank is
MISSING_FIELD and not BANK (log entry 52). -/
def State.bankRestore (fs : Fields) (s : State) : Outcome :=
  match enumFieldAs .bank 1 bankOfCode fs with
  | .val b =>
    let s1 := if (s.sensors.bank b).state = .locked then s.powerUpBank b 0 else s
    let k := s1.sensors.bank b
    (s1, .plain .ok (fieldNat 1 1 (bankStateCode k.state) ++ fieldNat 2 1 k.trips))
  | v => (s, .invalid v.need)

/-! ### Captures (R90, R91, R96) -/

/-- The fields of CAPTURE_START (11.5). -/
structure CaptureFields where
  port : Val SensorPort
  region : Val Nat
  index : Val Nat
  decim : Val Nat
  endMode : Val EndMode

def CaptureFields.read (fs : Fields) : CaptureFields :=
  { port := sensorPortField 1 fs, region := idField .region 2 fs,
    index := (natField 3 fs).check .valueIndex (fun n => if n ≤ 3 then some n else none),
    decim := (natField 4 fs).check .decimation (fun n => if 1 ≤ n ∧ n ≤ 100 then some n else none),
    endMode := enumFieldAs .endMode 5 endModeOfCode fs }

/-- R90 items 2 to 7: the refusal of a CAPTURE_START, if any, for a region's record. -/
def State.captureRefusal (s : State) (p : SensorPort) (id index : Nat) : Option Reply :=
  match s.store.find id with
  | none => some (.invalid [.region])
  | some r =>
    if r.kind = .clip then some (.invalid [.kind])
    else if (s.sensors.captureOn p).isSome then some (Reply.refuse .busy)
    else if 4 ≤ s.sensors.captures.length then some (Reply.refuse .full)
    else if s.store.windowOn id || s.sensors.capturing id then some (Reply.refuse .access)
    else if (s.port p).state ≠ .ready then some (Reply.refuse .noDevice)
    else if (s.port p).modeDesc.any (fun m => decide (index < m.valueCount)) then none
    else some (.invalid [.valueIndex])

/-- R91: the capture record of a start on a region. -/
def newCapture (p : SensorPort) (l : Link) (index decim : Nat) (e : EndMode) (r : Region) : Capture :=
  let around := e == .wrap && r.fill == r.length
  { port := p, region := r.id, index := index, decim := decim, endMode := e, starter := l, count := 0,
    offset := if around then 0 else r.fill, written := 0, wrapped := around }

/-- R91: the capture begins; a STOP capture on a full region ends FULL at once. -/
def State.beginCapture (s : State) (c : Capture) (r : Region) : State :=
  let s1 : State :=
    { s with sensors := { s.sensors with captures := s.sensors.captures ++ [c] },
             store := s.store.update r.id (fun r => { r with ready := false }) }
  if c.endMode = .stop ∧ r.fill = r.length then s1.finishCapture c .full else s1

/-- CAPTURE_START (R90, R91). The BUSY of compaction comes before the payload is decoded (R125). -/
def State.captureStart (l : Link) (fs : Fields) (s : State) : Outcome :=
  let x := CaptureFields.read fs
  match x.port, x.region, x.index, x.decim, x.endMode with
  | .val p, .val i, .val k, .val d, .val e =>
    match s.captureRefusal p i k, s.store.find i with
    | none, some r => (s.beginCapture (newCapture p l k d e r) r, Reply.ok)
    | some r, _ => (s, r)
    | none, none => (s, .invalid [.region])
  | a, b, c, d, e => (s, .invalid (a.need ++ b.need ++ c.need ++ d.need ++ e.need))

/-- CAPTURE_STOP (R96). An absent port is MISSING_FIELD and not PORT (log entry 52). -/
def State.captureStop (l : Link) (fs : Fields) (s : State) : Outcome :=
  match sensorPortField 1 fs with
  | .val p =>
    match s.sensors.captureOn p with
    | none => (s, .invalid [.capture])
    | some c =>
      if l = .remote ∧ c.starter = .primary then (s, Reply.refuse .denied)
      else (s.finishCapture c .stopped, .plain .ok (fieldNat 1 4 c.written ++ fieldNat 2 4 c.offset))
  | v => (s, .invalid v.need)

/-! ### Streams (R84 to R89) -/

/-- The lowest free stream id (R85). -/
def Sensors.freeStream (x : Sensors) : Option StreamId := Num8.all.find? (fun i => (x.streams.get i).isNone)

/-- The ports of a stream request as a set in ascending order, or PORTS (R85). -/
def streamPorts (fs : Fields) : Val (List SensorPort) :=
  match fieldValue 1 fs with
  | none => .bad .ports
  | some v =>
    match sensorPorts v with
    | none => .bad .ports
    | some ps => if ps = [] then .bad .ports else .val (Num8.all.filter (fun p => ps.contains p))

/-- INTERVAL: absent, or above 10,000 (R85). -/
def intervalField (fs : Fields) : Val Nat :=
  match (natField 2 fs).check .interval (fun n => if n ≤ 10000 then some n else none) with
  | .absent => .bad .interval
  | v => v

/-- BURST: absent, or outside 1 to 16 (R85). -/
def burstField (fs : Fields) : Val Nat :=
  match (natField 3 fs).check .burst (fun n => if 1 ≤ n ∧ n ≤ 16 then some n else none) with
  | .absent => .bad .burst
  | v => v

/-- DESTINATION: not a link, or REMOTE while that link is DOWN (R85). -/
def destinationField (up : Bool) (fs : Fields) : Val Link :=
  (enumFieldAs .destination 4 linkOfCode fs).check .destination (fun l => if l = .remote ∧ up = false then none else some l)

/-- Write a stream record. -/
def Sensors.setStream (x : Sensors) (i : StreamId) (r : Option Stream) : Sensors :=
  { x with streams := x.streams.set i r }

/-- STREAM_OPEN (R85). -/
def State.streamOpen (l : Link) (fs : Fields) (s : State) : Outcome :=
  match s.sensors.freeStream with
  | none => (s, Reply.refuse .full)
  | some i =>
    let dest := destinationField s.router.up fs
    match streamPorts fs, intervalField fs, burstField fs, dest.fails with
    | .val ps, .val n, .val b, [] =>
      let interval := max 10 n
      let r : Stream :=
        { opener := l, dest := dest.get?.getD l, interval := interval, burst := b,
          next := s.now + BitVec.ofNat 32 interval, marks := ps.map (fun p => (p, (s.port p).arrival)) }
      let info := fieldNat 1 1 i.num ++ fieldNat 2 2 interval
      ({ s with sensors := s.sensors.setStream i (some r) },
        if n < 10 then .clamped [2] info else .plain .ok info)
    | a, b, c, d => (s, .invalid (a.fails ++ b.fails ++ c.fails ++ d))

/-- STREAM_CLOSE (R86). An absent id is MISSING_FIELD and not ID (log entry 52). -/
def State.streamClose (l : Link) (fs : Fields) (s : State) : Outcome :=
  match (natField 1 fs).check .id Num8.ofNum with
  | .val i =>
    match s.sensors.streams.get i with
    | none => (s, .invalid [.id])
    | some r =>
      if l = .remote ∧ r.opener = .primary then (s, Reply.refuse .denied)
      else ({ s with sensors := s.sensors.setStream i none }, Reply.ok)
  | v => (s, .invalid v.need)

/-- R84: how far an arrival number lies after a mark; 0 when it does not. -/
def newCount (mark arrival : Word32) : Nat :=
  let n := (arrival - mark).toNat
  if n < 2147483648 then n else 0

/-- A section of a REPORT: its bytes, and whether it carried samples (R87). -/
structure Section where
  bytes : List Byte
  carried : Bool
  deriving DecidableEq, Repr

/-- The section of a port that is not READY, or whose mode is unknown: no samples. -/
def plainSection (p : SensorPort) (q : Port) : Section :=
  { bytes := [byte p.num, byte (portStateCode q.state),
              byte (((if q.state = .error then q.reason else none).map reasonCode).getD 255), byte q.mode, byte 255,
              byte 0],
    carried := false }

/-- The samples of a port that are new and still in its ring, in its order (R84). A sample that a SOFT reset left in
the ring keeps its arrival number, though the counter is 0 again (R80): where that number lies after the mark it counts
as new, a choice (log entry 51). -/
def Port.newSamples (q : Port) (mark : Word32) : List Sample :=
  q.ring.filter (fun x => decide (0 < newCount mark x.arrival))

/-- How many samples after the mark a report could carry: those that have arrived since, in the ring or lost from it,
and those of the ring that count as new (R87). -/
def Port.newTotal (q : Port) (mark : Word32) : Nat := max (newCount mark q.arrival) (q.newSamples mark).length

/-- R87, R88: the section of one port with the room left for its samples. -/
def portSection (p : SensorPort) (q : Port) (mark : Word32) (burst room : Nat) : Section :=
  match q.state, q.modeDesc with
  | .ready, some m =>
    let k := min (min (q.newSamples mark).length burst) (room / sampleSize m.format m.valueCount)
    { bytes := [byte p.num, byte (portStateCode q.state), byte 255, byte q.mode,
                byte (m.valueCount + 16 * formatCode m.format),
                byte (k + (if k < q.newTotal mark then 128 else 0))] ++
        (newest k (q.newSamples mark)).flatMap (sampleBytes m.format),
      carried := decide (0 < k) }
  | _, _ => plainSection p q

/-- R88: the sections in ascending port order; `room` is what is left of 240 bytes after the report header, the
sections fitted and the headers still to come. -/
def sections (ports : Eight Port) (burst : Nat) : List (SensorPort × Word32) → Nat → List Section
  | [], _ => []
  | (p, mark) :: rest, room =>
    let x := portSection p (ports.get p) mark burst room
    x :: sections ports burst rest (room - (x.bytes.length - 6))

/-- R87, R88: the sections of a stream's report. -/
def State.reportSections (s : State) (r : Stream) : List Section :=
  sections s.sensors.ports r.burst r.marks (234 - 6 * r.marks.length)

/-- The REPORT of a stream (11.7). -/
def State.reportLayout (s : State) (i : StreamId) (r : Stream) : List Byte :=
  byte i.num :: (timeBytes s.now ++ (byte r.marks.length :: (s.reportSections r).flatMap (fun x => x.bytes)))

/-- The arrival number of the newest new sample of a port, or the mark when there is none (R89). -/
def Port.newestMark (q : Port) (mark : Word32) : Word32 :=
  ((q.newSamples mark).getLast?.map (fun x => x.arrival)).getD mark

/-- R89: the marks after a report is placed. -/
def State.movedMarks (s : State) (r : Stream) : List (SensorPort × Word32) :=
  (r.marks.zip (s.reportSections r)).map (fun x =>
    if x.2.carried then (x.1.1, (s.port x.1.1).newestMark x.1.2) else x.1)

/-- Whether a link's notice queue has room (R89). -/
def State.reportRoom (s : State) (l : Link) : Bool := decide ((s.router.link l).notices.length < 16)

/-- STREAM_EXPIRY (R87, R89): the time base stands at the stream's next expiry. -/
def State.streamExpiry (s : State) (i : StreamId) : State :=
  match s.sensors.streams.get i with
  | none => s
  | some r =>
    if s.now = r.next then
      let next := r.next + BitVec.ofNat 32 r.interval
      if s.reportRoom r.dest then
        { s with sensors := s.sensors.setStream i (some { r with next := next, marks := s.movedMarks r }) }.notify r.dest
          (.report (s.reportLayout i r))
      else { s with sensors := s.sensors.setStream i (some { r with next := next }) }
    else s

/-- R86: the streams to the remote link close at its loss. -/
def Sensors.closeRemoteStreams (x : Sensors) : Sensors :=
  { x with streams := x.streams.map (fun o => o.filter (fun r => r.dest != .remote)) }

end Sys2Proof.Machine
end

