-- ==== Sys2Proof/Machine/Flags.lean ====
section
/-! DEFINITION. The lines and conditions the part derives from its state: the ready lines (R147), the routing windows
(R144), the dwell conditions of the power state (R161), and the identification layout (11.7). -/

namespace Sys2Proof.Machine

/-! ### Ready lines (R147, R165, R167) -/

/-- The conditions of R147 on the queues. -/
def Router.queuesReady (r : Router) (l : Link) : Bool :=
  decide ((r.link l).replyCount < 4) && decide ((r.link l.other).forward.length < 8) && r.reachable l

/-- The part's ready line toward a link: low in SLEEP and between the acceptance of RESET or SLEEP and its effect. -/
def State.ready (s : State) (l : Link) : Bool :=
  s.awake && s.supply.shutdown.isNone && s.router.queuesReady l

/-! ### Routing windows (R144) -/

/-- Whether a window is on and includes a channel. -/
def RouteWindow.includes (w : RouteWindow) (c : Byte) : Bool :=
  decide (w.base.toNat ≤ c.toNat) && decide (c.toNat ≤ w.limit.toNat)

/-- The four windows in order. -/
def Router.windows (r : Router) : List RouteWindow := [r.window0, r.window1, r.window2, r.window3]

/-- R144: the disposition of a channel. -/
def Router.disposition (r : Router) (c : Byte) : Disposition :=
  match r.windows.find? (fun w => w.includes c) with
  | some w => w.disp
  | none => .forward

/-- The system range 0x00 to 0x0F and the routing range 0x50 to 0x5F. -/
def systemChannel (c : Byte) : Bool :=
  decide (c.toNat < 16) || (decide (80 ≤ c.toNat) && decide (c.toNat < 96))

/-! ### The power state (R160, R161, R164) -/

/-- R160: V_b of a history. -/
def averageOf (history : List Nat) : Nat := (clamp 5000 9000 ((history.sum / 8 : Nat) : Int)).toNat

/-- A dwell count after an update. -/
def dwell (holds : Bool) (n : Nat) : Nat := if holds then n + 1 else 0

/-- R161: the dwell counts after an update, those of transitions that do not leave the present state 0. -/
def Supply.counted (x : Supply) : Supply :=
  match x.power with
  | .run =>
    { x with toEconomy := dwell (decide (x.vb < 6300)) x.toEconomy,
             toCritical := dwell (decide (x.vb < 5600)) x.toCritical, toRun := 0 }
  | .economy =>
    { x with toRun := dwell (decide (6600 < x.vb)) x.toRun,
             toCritical := dwell (decide (x.vb < 5600)) x.toCritical, toEconomy := 0 }
  | .critical =>
    { x with toEconomy := dwell (decide (6000 < x.vb)) x.toEconomy, toCritical := 0, toRun := 0 }
  | .sleep => x

/-- R161: the transition whose count is reached; when two are, a free value decides (log entry 21). -/
def Supply.transition (x : Supply) : Option PowerState :=
  match x.power with
  | .run =>
    if 100 ≤ x.toEconomy ∧ 20 ≤ x.toCritical then
      (if Config.tieGoesToCritical then some .critical else some .economy)
    else if 20 ≤ x.toCritical then some .critical
    else if 100 ≤ x.toEconomy then some .economy
    else none
  | .economy => if 20 ≤ x.toCritical then some .critical else if 100 ≤ x.toRun then some .run else none
  | .critical => if 100 ≤ x.toEconomy then some .economy else none
  | .sleep => none

/-- R164: lambda after an update. -/
def nextLambda (lam limit total : Nat) : Nat :=
  if limit < total then max 1 (lam * limit / total) else min 1000 (lam + 50)

/-! ### Identification (11.7, R176) -/

/-- The 22 bytes of IDENT_NOTICE. -/
def State.identLayout (s : State) (k : ResetKind) : List Byte :=
  leBytes 2 0xB620 ++ [byte 1] ++ leBytes 4 s.supply.brickTag.toNat ++ [byte (resetKindCode k)] ++
    MotorPort.all.map (fun p => byte (motorKindCode (s.motors.ch.get p).kind)) ++
    Num8.all.map (fun p => byte (portStateCode (s.sensors.ports.get p).state))

/-- IDENT_NOTICE is placed in the primary notice queue. -/
def State.sendIdent (s : State) (k : ResetKind) : State := s.notify .primary (.ident (s.identLayout k))

end Sys2Proof.Machine
end

