-- ==== Sys2Proof/Machine/Supply.lean ====
section
/-! DEFINITION. The supply monitor (10) and the events that reach several blocks at once: the supply update and the
change of power state (R160 to R164), resets and SLEEP (R24, R66, R97, R128, R129, R159, R165 to R167), and the
link events (R155, R156). -/

namespace Sys2Proof.Machine

/-! ### The power state (R161, R162) -/

/-- R8: the motor controller takes a new power state. -/
def Motors.powerChanged (old new : PowerState) (m : Motors) : Motors × List Sent :=
  match new with
  | .critical => m.enterCritical
  | _ => if old = .critical then (m.leaveCritical, []) else (m, [])

/-- R162: POWER_EVENT first, then each block takes the new state. -/
def State.changePower (s : State) (new : PowerState) : State :=
  let old := s.supply.power
  let s1 := s.notify .primary (.powerEvent old new s.supply.vb s.supply.lambda s.now)
  let s2 : State := { s1 with supply := { s1.supply with power := new, toEconomy := 0, toCritical := 0, toRun := 0 } }
  let s3 := s2.withMotors (s2.motors.powerChanged old new)
  s3.withMixer (s3.mixer.powerChanged s3.now old new)

/-- R160: a measurement joins the history. -/
def Supply.measured (mv : Nat) (x : Supply) : Supply :=
  let h := x.history.drop 1 ++ [mv]
  { x with history := h, vb := averageOf h }

/-- R164: lambda is computed and the current sum begins anew. -/
def Supply.budget (x : Supply) : Supply :=
  let total := x.currentSum / 10
  { x with total := total, currentSum := 0, lambda := nextLambda x.lambda x.limit total }

/-- The transition that is due, if any, is taken. -/
def State.takeTransition (s : State) : State :=
  match s.supply.transition with
  | none => s
  | some new => s.changePower new

/-- SUPPLY_UPDATE (R160, R161, R164). -/
def State.supplyUpdate (s : State) (mv : Nat) : State :=
  if s.awake then
    let s1 : State := { s with supply := (s.supply.measured mv).counted }
    let s2 := s1.takeTransition
    { s2 with supply := s2.supply.budget }
  else s

/-- POWER_STATE_CHANGE (R161): the dwell counts of this update on the present V_b reach a transition (log entry 3). -/
def State.powerStateChange (s : State) : State :=
  match s.supply.counted.transition with
  | none => s
  | some new => s.changePower new

/-! ### Resets -/

/-- R160: the history filled by one measurement. -/
def Supply.filled (mv : Nat) (x : Supply) : Supply :=
  let h := List.replicate 8 mv
  { x with history := h, vb := averageOf h }

/-- POWER_ON (R167): every block in its first state. -/
def State.powerOn (s : State) (mv : Nat) (linked : Bool) : State :=
  { State.reset with pending := s.pending, router := Router.reset linked, supply := Supply.reset.filled mv }

/-- WAKE (R166): as POWER_ON, the brick tag kept, the LINKED line as it stands. -/
def State.woken (s : State) (mv : Nat) : State :=
  { State.reset with
      pending := s.pending, router := Router.reset s.router.linked,
      supply := { Supply.reset.filled mv with
                  lastReset := .wake, brickTag := s.supply.brickTag,
                  identDue := some { kind := .wake, elapsed := 0 } } }

/-- R94, R128: the store under SOFT, the regions of running captures READY. -/
def softStore (captures : List Capture) (st : Store) : Store :=
  captures.foldl (fun acc c => acc.update c.region (fun r => { r with ready := true })) st.soft

/-- R159: the router under SOFT; the lines are read as before. -/
def Router.soft (r : Router) : Router :=
  let n := Router.reset r.linked
  { n with primary := { n.primary with farReady := r.primary.farReady },
           remote := { n.remote with farReady := r.remote.farReady } }

/-- R160, R161, R164, R167: the supply monitor under SOFT. -/
def Supply.soft (mv : Nat) (x : Supply) : Supply :=
  { Supply.reset.filled mv with lastReset := .soft, brickTag := x.brickTag, identDue := x.identDue }

/-- SOFT (R167): every block takes its SOFT values, then IDENT_NOTICE. -/
def State.soft (s : State) (mv : Nat) : State :=
  let s1 : State :=
    { pending := s.pending, motors := s.motors.soft, sensors := s.sensors.soft, watch := WatchUnit.reset,
      store := softStore s.sensors.captures s.store, mixer := Mixer.reset, router := s.router.soft,
      supply := s.supply.soft mv }
  s1.sendIdent .soft

/-- R165: the part asleep: nothing kept but the brick tag, everything off (log entry 34). -/
def State.asleep (s : State) : State :=
  { pending := s.pending, motors := Motors.reset,
    sensors := { Sensors.reset with bankL := Bank.powerless, bankRWait := none, ports := Eight.fill Port.unpowered },
    watch := WatchUnit.reset, store := Store.reset, mixer := { Mixer.reset with amp := false },
    router := { Router.reset s.router.linked with up := false },
    supply := { Supply.reset with power := .sleep, brickTag := s.supply.brickTag, identDue := none } }

/-- Whether a shutdown of a kind waits, with its reply begun or not. -/
def State.waitsFor (s : State) (k : ShutdownKind) (begun : Bool) : Bool :=
  s.supply.shutdown.any (fun x => x.kind == k && x.begun == begun)

/-- Whether the 100 ms of R165 and R167 have passed. -/
def State.shutdownOverdue (s : State) : Bool := s.supply.shutdown.any (fun x => decide (100 ≤ x.elapsed))

/-! ### Link events (R155, R156) -/

/-- R155, R156: no reply goes to an ask taken from a link before its reset. -/
def Store.forgetAsker (l : Link) (st : Store) : Store :=
  { st with compaction := st.compaction.map (fun k =>
      if k.asker.any (fun a => a.1 == l) then { k with asker := none } else k) }

/-- R155 items 1 to 7: the loss of the remote link. -/
def State.loseRemote (s : State) : State :=
  let s1 : State :=
    { s with router := s.router.loseRemote, sensors := s.sensors.closeRemoteStreams,
             store := (s.store.remoteLost).forgetAsker .remote }
  s1.withMotors (s1.motors.remoteLost s1.live s1.router.lossPolicy)

/-- LINKED_RISE (R155); in SLEEP only the line is kept. -/
def State.linkedRise (s : State) : State :=
  if s.router.linked then s
  else if s.awake then
    { s with router := { s.router with linked := true, up := true, remote := s.router.remote.linkReset } }
  else { s with router := { s.router with linked := true } }

/-- LINKED_FALL (R155); in SLEEP only the line is kept. -/
def State.linkedFall (s : State) : State :=
  if s.router.linked then
    if s.awake then { s with router := { s.router with linked := false, up := false } }.loseRemote
    else { s with router := { s.router with linked := false } }
  else s

/-- REMOTE_BREAK (R155, R171): while the link is DOWN only the receiver is affected. -/
def State.remoteBreak (s : State) : State :=
  if s.awake then
    if s.router.up then s.loseRemote
    else { s with router := { s.router with remote := { s.router.remote with rx := Receiver.hunting } } }
  else s

/-- R165, R167: the reply of a shutdown is lost with the primary queues. -/
def Supply.replyLost (x : Supply) : Supply := { x with shutdown := x.shutdown.map (fun k => { k with begun := false }) }

/-- LINK_RESET (R156); in SLEEP the break is a wake instead. -/
def State.linkReset (s : State) : State :=
  if s.awake then
    { s with router := s.router.resetPrimary, store := s.store.forgetAsker .primary,
             supply := s.supply.replyLost }.sendIdent .link
  else s

/-! ### The transmitters and the timers of the router (R149 to R151, R154, R176) -/

/-- Whether a frame is the reply that a shutdown waits for (R165, R167). -/
def isShutdownReply (k : ShutdownKind) (f : Frame) : Bool :=
  f.cls == .reply && f.channel == (match k with | .reset => 0x02 | .sleep => 0x03)

/-- The sending of a frame on the primary link begins. -/
def Supply.sendingBegun (f : Frame) (x : Supply) : Supply :=
  { x with shutdown := x.shutdown.map (fun k => if isShutdownReply k.kind f then { k with begun := true } else k) }

/-- R165, R167: 100 ms after its acceptance the reply of a shutdown that has not begun is lost, and no frame of it goes
out. -/
def Supply.replyTooLate (f : Frame) (x : Supply) : Bool :=
  x.shutdown.any (fun k => !k.begun && decide (100 ≤ k.elapsed) && isShutdownReply k.kind f)

/-- TRANSMIT_FRAME (R150): an idle transmitter reads the far ready line and begins a frame if it can (log entry 24). -/
def State.transmit (s : State) (l : Link) (farReady : Bool) : State :=
  if s.awake then
    let q : LinkQueues := { s.router.link l with farReady := farReady, sending := none }
    match (if farReady && s.router.reachable l then q.choose else none) with
    | none => { s with router := s.router.setLink l q }
    | some (f, q1) =>
      if l = .primary ∧ s.supply.replyTooLate f then { s with router := s.router.setLink l q }
      else
        { s with router := s.router.setLink l q1,
                 supply := if l = .primary then s.supply.sendingBegun f else s.supply }
  else s

/-- R149: whether the record of an origin is the one an entry's ASK opened, `rest` being the entries after it. -/
def entryRecord (r : Router) (origin : Link) (e : Forward) (rest : List Forward) : Bool :=
  (r.record origin).any (fun rec => isAskOf rec e && !rest.any (isAskOf rec))

/-- FORWARD_AGE_LIMIT (R149) on the forward queue of a link, whose oldest entry has waited 1000 ms. -/
def State.forwardAgeLimit (s : State) (l : Link) : State :=
  match (s.router.link l).forward with
  | [] => s
  | e :: rest =>
    if 1000 ≤ msSince s.now e.entered then
      let r := s.router.setLink l { s.router.link l with forward := rest }
      let s1 := { s with router := r }.notify l.other (.forwardDropped e.frame)
      if entryRecord s1.router l.other e rest then { s1 with router := s1.router.abort l.other true } else s1
    else s

/-- R151, R154: whether the wait timer of a record has run out. -/
def waitOver (now : Word32) (rec : InFlight) : Bool := rec.timer.any (fun t => decide (t ≤ msSince now rec.start))

/-- FORWARD_WAIT_EXPIRY (R154) of the record of an origin. -/
def State.forwardWaitExpiry (s : State) (origin : Link) : State :=
  match s.router.record origin with
  | none => s
  | some rec => if waitOver s.now rec then { s with router := s.router.abort origin true } else s

/-- IDENT_NOTICE_DUE (R176). -/
def State.identNoticeDue (s : State) : State :=
  match s.supply.identDue with
  | none => s
  | some d =>
    if 50 ≤ d.elapsed then { s with supply := { s.supply with identDue := none } }.sendIdent d.kind else s

end Sys2Proof.Machine
end

