-- ==== Sys2Proof/Machine/Handlers.lean ====
section
/-! DEFINITION. What the block that owns a channel does with each request of the catalogue (11.5): decoding first
(R174), the BUSY of compaction before it (R125), then the request's own rule. -/

namespace Sys2Proof.Machine

/-- A block's handling of a request: the part after it, and the reply, absent when it comes later (COMPACT). -/
abbrev Handler := Req → State → State × Option Reply

/-- A reply at once. -/
def answered (r : Outcome) : State × Option Reply := (r.1, some r.2)

/-- Refused with no effect. -/
def refused (s : State) (r : Reply) : State × Option Reply := (s, some r)

/-- R174: a request of tagged fields; LENGTH when the payload does not divide into fields. -/
def onFields (act : Link → Fields → State → Outcome) : Handler := fun r s =>
  match decodeFields r.payload with
  | none => refused s (Reply.refuse .length)
  | some fs => answered (act r.link fs s)

/-- R125: the BUSY of compaction comes before everything else. -/
def unlessCompacting (h : Handler) : Handler := fun r s =>
  if s.compacting then refused s (Reply.refuse .busy) else h r s

/-- A motor request's result in the whole part. -/
def State.motorOutcome (s : State) (a : MotorAnswer) : Outcome := (s.withMotors (a.motors, a.sent), a.reply)

/-- A store request's result in the whole part. -/
def State.storeOutcome (s : State) (a : StoreAnswer) : Outcome := ({ s with store := a.store }, a.reply)

/-- A mixer request's result in the whole part. -/
def State.mixerOutcome (s : State) (a : MixerAnswer) : Outcome := (s.withMixer (a.mixer, a.sent), a.reply)

/-- A watch request's result in the whole part. -/
def State.watchOutcome (s : State) (a : WatchAnswer) : Outcome := ({ s with watch := a.watch }, a.reply)

/-! ### System requests -/

/-- IDENT (R176). -/
def handleIdent : Handler := fun _ s => answered (s, .plain .ok (s.identLayout s.supply.lastReset))

/-- SET_TAG (R168): a payload of exactly four bytes. -/
def handleSetTag : Handler := fun r s =>
  if r.payload.length = 4 then
    answered ({ s with supply := { s.supply with brickTag := BitVec.ofNat 32 (leNat r.payload) } }, Reply.ok)
  else refused s (Reply.refuse .length)

/-- RESET and SLEEP accepted (R165, R167): the ready lines fall, the reply is OK. -/
def State.shutDown (s : State) (k : ShutdownKind) : State :=
  { s with supply := { s.supply with shutdown := some { kind := k, elapsed := 0, begun := false } } }

/-- RESET (R167). -/
def handleReset : Handler := fun _ s => answered (s.shutDown .reset, Reply.ok)

/-- SLEEP (R165). -/
def handleSleep : Handler := fun _ s => answered (s.shutDown .sleep, Reply.ok)

/-- The reply of PAUSE: the pause state as it stands (R55). -/
def State.pauseReply (s : State) : Reply := .plain .ok (fieldNat 1 1 (pauseCode s.motors.pause))

/-- R55, R62: a pause begins and the mixer freezes. -/
def State.pauseBegun (s : State) : State :=
  let s1 := s.withMotors s.motors.pauseNow
  { s1 with mixer := s1.mixer.freeze }

/-- PAUSE (R55). -/
def handlePause : Handler := fun _ s =>
  let s1 := if s.motors.pause = .running then s.pauseBegun else s
  answered (s1, s1.pauseReply)

/-- R60, R62: the pause ends and the mixer continues. -/
def State.pauseEnded (s : State) : State :=
  let s1 := s.withMotors s.motors.resumeNow
  { s1 with mixer := s1.mixer.unfreeze }

/-- RESUME (R60). -/
def handleResume : Handler := fun _ s =>
  answered (if s.motors.pause = .running then s else s.pauseEnded, Reply.ok)

/-- STEP (R59). -/
def handleStep : Handler := fun _ s =>
  if s.motors.pause = .paused then
    let ports := s.motors.steppablePorts
    answered (if ports = [] then s else s.withMotors s.motors.stepNow, .plain .ok (field 1 (portBytes ports)))
  else refused s (Reply.refuse .busy)

/-- The dwell counts of the transitions that leave the present state, as reply fields (R168, log entry 8). -/
def Supply.dwellFields (x : Supply) : List Byte :=
  match x.power with
  | .run => fieldNat 4 1 x.toEconomy ++ fieldNat 5 1 x.toCritical
  | .economy => fieldNat 6 1 x.toRun ++ fieldNat 5 1 x.toCritical
  | .critical => fieldNat 4 1 x.toEconomy
  | .sleep => []

/-- The data of POWER_STATUS (R168, log entry 8). An L set since the last supply update is shown as it now stands, and
so is the brick tag, the model's choice (log entry 67). -/
def Supply.statusData (x : Supply) : List Byte :=
  fieldNat 1 1 (powerCode x.power) ++ fieldNat 2 2 x.vb ++ fieldNat 3 2 (x.history.getLastD 0) ++ x.dwellFields ++
    fieldNat 7 2 x.lambda ++ fieldNat 8 2 x.limit ++ fieldNat 9 4 x.total ++
    fieldNat 10 1 (resetKindCode x.lastReset) ++ fieldNat 11 4 x.brickTag.toNat

/-- POWER_STATUS (R168). -/
def handlePowerStatus : Handler := fun _ s => answered (s, .plain .ok s.supply.statusData)

/-- R164. An absent limit is MISSING_FIELD and not LIMIT (log entry 52). -/
def State.setBudget (_ : Link) (fs : Fields) (s : State) : Outcome :=
  match (natField 1 fs).check .limit (fun n => if outsideNat 1000 4000 n then none else some n) with
  | .val n =>
    ({ s with supply := { s.supply with limit := n } }, .plain .ok (fieldNat 1 2 n ++ fieldNat 2 2 s.supply.lambda))
  | v => (s, .invalid v.need)

/-- SET_BUDGET (R164). -/
def handleSetBudget : Handler := onFields State.setBudget

/-! ### Motor requests -/

def handleClaim : Handler := onFields (fun l fs s => s.motorOutcome (s.motors.claim s.live l fs))

def handleRelease : Handler := onFields (fun l fs s => s.motorOutcome (s.motors.release s.live l fs))

def handleQueueSegment : Handler :=
  onFields (fun l fs s => s.motorOutcome (s.motors.queueSegment s.supply.power l fs))

def handleFlush : Handler := onFields (fun l fs s => s.motorOutcome (s.motors.flush l fs))

def handleSetGains : Handler := onFields (fun l fs s => s.motorOutcome (s.motors.setGains l fs))

def handleSetPolicy : Handler := onFields (fun l fs s => s.motorOutcome (s.motors.setPolicy l fs))

/-- R100: the count the watch unit keeps of a port is 0 after an accepted ZERO_COUNT. -/
def State.zeroScan (s : State) (p : MotorPort) : State :=
  { s with watch := { s.watch with scanEnc := s.watch.scanEnc.set p 0 } }

/-- ZERO_COUNT (R18, R100). -/
def State.zeroCount (l : Link) (fs : Fields) (s : State) : Outcome :=
  let r := s.motorOutcome (s.motors.zeroCount l fs)
  match motorPortField 1 fs with
  | .val p => (if r.2.accepted then r.1.zeroScan p else r.1, r.2)
  | _ => r

def handleZeroCount : Handler := onFields State.zeroCount

def handleMotorStatus : Handler := onFields (fun _ fs s => s.motorOutcome (s.motors.motorStatus fs))

def handleClearFault : Handler := onFields (fun l fs s => s.motorOutcome (s.motors.clearFault s.live l fs))

def handleStopNow : Handler := onFields (fun l fs s => s.motorOutcome (s.motors.stopNow s.live l fs))

/-! ### Sensor requests -/

def handleSensorStatus : Handler := onFields (fun _ fs s => s.sensorStatus fs)

def handleSelectMode : Handler := onFields (fun _ fs s => s.selectMode fs)

def handleReadSamples : Handler := onFields (fun _ fs s => s.readSamples fs)

def handleStreamOpen : Handler := onFields (fun l fs s => s.streamOpen l fs)

def handleStreamClose : Handler := onFields (fun l fs s => s.streamClose l fs)

/-- CAPTURE_START: the BUSY of compaction comes first (R90, R125). -/
def handleCaptureStart : Handler := unlessCompacting (onFields (fun l fs s => s.captureStart l fs))

def handleCaptureStop : Handler := onFields (fun l fs s => s.captureStop l fs)

/-- BANK_RESTORE (R65): from the remote link DENIED (log entry 26). -/
def handleBankRestore : Handler := fun r s =>
  match r.link with
  | .remote => refused s (Reply.refuse .denied)
  | .primary => onFields (fun _ fs s => s.bankRestore fs) r s

/-! ### Watch requests -/

def handleWatchSet : Handler := onFields (fun l fs s => s.watchOutcome (s.watch.set s.sensors.ports l fs))

def handleWatchClear : Handler := onFields (fun l fs s => s.watchOutcome (s.watch.clear l fs))

def handleWatchRearm : Handler := onFields (fun l fs s => s.watchOutcome (s.watch.rearm s.sensors.ports l fs))

def handleWatchStatus : Handler := onFields (fun _ fs s => (s, s.watch.status fs))

/-- SET_VIRTUAL (R112): every chain is complete before the reply. -/
def State.setVirtual (fs : Fields) (s : State) : Outcome :=
  let r := s.reach.setVirtual s.watchFeed fs
  (s.withReach r.1, r.2)

def handleSetVirtual : Handler := onFields (fun _ fs s => s.setVirtual fs)

def handleWatchEnable : Handler := onFields (fun l fs s => s.watchOutcome (s.watch.enable s.sensors.ports l fs))

/-! ### Sound requests -/

def handleDefineRegion : Handler :=
  unlessCompacting (onFields (fun _ fs s => s.storeOutcome (s.store.defineRegion fs)))

def handleDeleteRegion : Handler :=
  unlessCompacting (onFields (fun _ fs s => s.storeOutcome (s.store.deleteRegion s.uses fs)))

def handleSetClip : Handler :=
  unlessCompacting (onFields (fun _ fs s => s.storeOutcome (s.store.setClip s.uses fs)))

def handleWriteStart : Handler :=
  unlessCompacting (onFields (fun l fs s => s.storeOutcome (s.store.writeStart s.uses l fs)))

/-- WRITE_DATA (R120, R126): POWER in CRITICAL comes before its own checks. -/
def handleWriteData : Handler :=
  unlessCompacting (fun r s =>
    if s.supply.power = .critical then refused s (Reply.refuse .power)
    else answered (s.storeOutcome (s.store.writeData r.link r.payload)))

def handleWriteEnd : Handler :=
  unlessCompacting (fun r s => answered (s.storeOutcome (s.store.writeEnd r.link)))

def handleReadRegion : Handler :=
  unlessCompacting (onFields (fun _ fs s => s.storeOutcome (s.store.readRegion fs)))

/-- COMPACT (R124): its reply comes when compaction ends. -/
def handleCompact : Handler :=
  unlessCompacting (fun r s =>
    match s.store.compactRefusal s.uses s.supply.power with
    | some st => refused s (Reply.refuse st)
    | none =>
      ({ s with store := s.store.beginCompaction (if r.cls = .ask then some (r.link, r.tag) else none) }, none))

def handlePlay : Handler :=
  unlessCompacting (onFields (fun l fs s => s.mixerOutcome (s.mixer.play s.soundFeed s.store l fs)))

def handlePlayTone : Handler :=
  unlessCompacting (onFields (fun l fs s => s.mixerOutcome (s.mixer.playTone s.soundFeed l fs)))

def handleReleaseVoice : Handler :=
  unlessCompacting (onFields (fun l fs s => s.mixerOutcome (s.mixer.onVoice l fs (Mixer.releaseVoice s.now))))

def handleStopVoice : Handler :=
  unlessCompacting (onFields (fun l fs s => s.mixerOutcome (s.mixer.onVoice l fs (Mixer.endVoice s.now .stopped))))

def handleSetVolume : Handler :=
  unlessCompacting (onFields (fun _ fs s => s.mixerOutcome (s.mixer.volumeRequest fs)))

def handleSetLoopStart : Handler :=
  unlessCompacting (onFields (fun _ fs s => s.storeOutcome (s.store.setLoopStart fs)))

/-- R138: the reply of a SOUND_STATUS clears the CLIPPED flag it reports set. -/
def Mixer.clearClipped (x : Mixer) : Mixer := { x with clipped := false }

/-- SOUND_STATUS (R127, R138, R143): a TELL has no reply and clears nothing. -/
def handleSoundStatus : Handler :=
  unlessCompacting (fun r s =>
    answered (if r.cls = .ask then { s with mixer := s.mixer.clearClipped } else s,
      .plain .ok (s.store.statusData s.uses ++ s.mixer.statusData s.supply.power)))

/-! ### Routing requests -/

/-- A window as a composite value (R157, log entry 8). -/
def RouteWindow.bytes (w : RouteWindow) : List Byte := [w.base, w.limit, byte (dispositionCode w.disp)]

/-- The four windows as reply fields. -/
def Router.windowFields (k : Nat) (r : Router) : List Byte := r.windows.flatMap (fun w => field k w.bytes)

/-- Write one window. -/
def Router.setWindow (r : Router) (n : Nat) (w : RouteWindow) : Router :=
  match n with
  | 0 => { r with window0 := w }
  | 1 => { r with window1 := w }
  | 2 => { r with window2 := w }
  | _ => { r with window3 := w }

/-- R157. -/
def State.setWindow (_ : Link) (fs : Fields) (s : State) : Outcome :=
  let n := (natField 1 fs).check .window (fun n => if n ≤ 3 then some n else none)
  let b := natFieldIn 2 0 255 fs
  let l := natFieldIn 3 0 255 fs
  let d := enumFieldAs .disposition 4 dispositionOfCode fs
  match n, b, l, d with
  | .val n, .val b, .val l, .val d =>
    let r := s.router.setWindow n { base := byte b, limit := byte l, disp := d }
    ({ s with router := r }, .plain .ok (r.windowFields 1))
  | n, b, l, d => (s, .invalid (n.need ++ b.need ++ l.need ++ d.need))

/-- SET_WINDOW (R157). -/
def handleSetWindow : Handler := onFields State.setWindow

/-- WAIT: not 0 and not a multiple of 10 from 10 to 2550. -/
def badWait (n : Nat) : Bool := n != 0 && (n % 10 != 0 || outsideNat 10 2550 n)

/-- R157. -/
def State.setForward (_ : Link) (fs : Fields) (s : State) : Outcome :=
  let w := natField 1 fs
  let a := enumFieldAs .mode 2 abortOfCode fs
  let bad := w.fails ++ a.fails ++ w.violates .wait badWait ++
    (if (fieldValue 1 fs).isNone ∧ (fieldValue 2 fs).isNone then [.missingField] else [])
  if bad ≠ [] then (s, .invalid bad)
  else
    ({ s with router := { s.router with wait := w.get?.getD s.router.wait,
                                        abortMode := a.get?.getD s.router.abortMode } }, Reply.ok)

/-- SET_FORWARD (R157). -/
def handleSetForward : Handler := onFields State.setForward

/-- What ROUTE_STATUS carries for a link, as a composite value (R158, log entry 8). A ready line is written as a flag,
high 1 and low 0, the model's choice (log entry 63). -/
def State.linkBytes (s : State) (l : Link) : List Byte :=
  let q := s.router.link l
  [byte q.replyCount, byte q.notices.length, byte q.forward.length, byte (flagCode (s.ready l)),
   byte (flagCode q.farReady), byte (flagCode q.overflow)]

/-- An open in-flight record as a composite value (R158, log entry 8). -/
def recordBytes (now : Word32) (origin : Link) (rec : InFlight) : List Byte :=
  [byte (linkCode origin), rec.channel, rec.tag] ++ leBytes 4 (msSince now rec.start)

/-- The data of ROUTE_STATUS (R158, log entry 8). -/
def State.routeData (s : State) : List Byte :=
  s.router.windowFields 1 ++ fieldNat 2 2 s.router.wait ++ fieldNat 3 1 (abortCode s.router.abortMode) ++
    fieldNat 4 1 (lossPolicyCode s.router.lossPolicy) ++ fieldNat 5 1 (flagCode s.router.up) ++
    field 6 (s.linkBytes .primary) ++ field 7 (s.linkBytes .remote) ++
    fieldOpt s.router.toPrimary (fun r => field 8 (recordBytes s.now .remote r)) ++
    fieldOpt s.router.toRemote (fun r => field 9 (recordBytes s.now .primary r))

/-- R158: the flags a reply reports set are cleared. -/
def Router.clearOverflow (r : Router) : Router :=
  { r with primary := { r.primary with overflow := false }, remote := { r.remote with overflow := false } }

/-- ROUTE_STATUS (R148, R158): a TELL has no reply and clears nothing. -/
def handleRouteStatus : Handler := fun r s =>
  answered (if r.cls = .ask then { s with router := s.router.clearOverflow } else s, .plain .ok s.routeData)

/-- R158. An absent policy is MISSING_FIELD and not POLICY (log entry 52). -/
def State.remotePolicy (_ : Link) (fs : Fields) (s : State) : Outcome :=
  match enumFieldAs .policy 1 lossPolicyOfCode fs with
  | .val p => ({ s with router := { s.router with lossPolicy := p } }, Reply.ok)
  | v => (s, .invalid v.need)

/-- REMOTE_POLICY (R158). -/
def handleRemotePolicy : Handler := onFields State.remotePolicy

/-! ### The catalogue (11.5) -/

/-- The request of a channel, none on a channel to which the catalogue assigns none (R172). -/
def handlerOf (channel : Byte) : Option Handler :=
  match channel.toNat with
  | 0x00 => some handleIdent
  | 0x01 => some handleSetTag
  | 0x02 => some handleReset
  | 0x03 => some handleSleep
  | 0x04 => some handlePause
  | 0x05 => some handleResume
  | 0x06 => some handleStep
  | 0x07 => some handlePowerStatus
  | 0x08 => some handleSetBudget
  | 0x10 => some handleClaim
  | 0x11 => some handleRelease
  | 0x12 => some handleQueueSegment
  | 0x13 => some handleFlush
  | 0x14 => some handleSetGains
  | 0x15 => some handleSetPolicy
  | 0x16 => some handleZeroCount
  | 0x17 => some handleMotorStatus
  | 0x18 => some handleClearFault
  | 0x19 => some handleStopNow
  | 0x20 => some handleSensorStatus
  | 0x21 => some handleSelectMode
  | 0x22 => some handleReadSamples
  | 0x23 => some handleStreamOpen
  | 0x24 => some handleStreamClose
  | 0x25 => some handleCaptureStart
  | 0x26 => some handleCaptureStop
  | 0x27 => some handleBankRestore
  | 0x30 => some handleWatchSet
  | 0x31 => some handleWatchClear
  | 0x32 => some handleWatchRearm
  | 0x33 => some handleWatchStatus
  | 0x34 => some handleSetVirtual
  | 0x35 => some handleWatchEnable
  | 0x40 => some handleDefineRegion
  | 0x41 => some handleDeleteRegion
  | 0x42 => some handleSetClip
  | 0x43 => some handleWriteStart
  | 0x44 => some handleWriteData
  | 0x45 => some handleWriteEnd
  | 0x46 => some handleReadRegion
  | 0x47 => some handleCompact
  | 0x48 => some handlePlay
  | 0x49 => some handlePlayTone
  | 0x4A => some handleReleaseVoice
  | 0x4B => some handleStopVoice
  | 0x4C => some handleSetVolume
  | 0x4D => some handleSetLoopStart
  | 0x4E => some handleSoundStatus
  | 0x50 => some handleSetWindow
  | 0x51 => some handleSetForward
  | 0x52 => some handleRouteStatus
  | 0x53 => some handleRemotePolicy
  | _ => none

end Sys2Proof.Machine
end

