-- ==== Sys2Proof/Machine/Frames.lean ====
section
/-! DEFINITION. Taking a frame: the ready line (R147), the routing windows (R144, R145), the primary link's channels
(R146), replies and notices from outside (R153, R172), and the answer of the block that owns the channel. -/

namespace Sys2Proof.Machine

/-- The receiver of a link. -/
def State.rx (s : State) (l : Link) : Receiver := (s.router.link l).rx

/-- Write the receiver of a link. -/
def State.setRx (s : State) (l : Link) (x : Receiver) : State :=
  { s with router := s.router.setLink l { s.router.link l with rx := x } }

/-- Place the reply to an ASK in its link's reply queue (R147, R169). -/
def State.answer (s : State) (l : Link) (channel tag : Byte) (r : Reply) : State :=
  { s with router := s.router.placeReply l (replyFrame channel tag r.payload) }

/-- A request handed to the block that owns its channel: an ASK gets the block's reply or UNKNOWN, a TELL nothing
(R172). -/
def State.handToBlock (h : Option Handler) (l : Link) (f : Frame) (s : State) : State :=
  match f.cls, h with
  | .ask, some act =>
    match act { link := l, cls := .ask, tag := f.tag, payload := f.payload } s with
    | (s1, some r) => s1.answer l f.channel f.tag r
    | (s1, none) => s1
  | .ask, none => s.answer l f.channel f.tag (Reply.refuse .unknown)
  | .tell, some act => (act { link := l, cls := .tell, tag := f.tag, payload := f.payload } s).1
  | _, _ => s

/-- R144, LOCAL: from the remote link no block executes a system or routing request. -/
def State.handFromRemote (h : Option Handler) (f : Frame) (s : State) : State :=
  if systemChannel f.channel then
    (if f.cls = .ask then s.answer .remote f.channel f.tag (Reply.refuse .denied) else s)
  else s.handToBlock h .remote f

/-- A frame is carried to the other link (R149, R152). -/
def State.carry (s : State) (origin : Link) (f : Frame) : State :=
  { s with router := s.router.forwardFrame origin f s.now }

/-- R144: an ASK or TELL from the remote link. -/
def State.routeRemote (h : Option Handler) (f : Frame) (s : State) : State :=
  match s.router.disposition f.channel with
  | .localOnly => s.handFromRemote h f
  | .localMirror => (s.notify .primary (.mirror f)).handFromRemote h f
  | .forward => s.carry .remote f

/-- R146: an ASK or TELL from the primary link. -/
def State.routePrimary (h : Option Handler) (f : Frame) (s : State) : State :=
  if f.channel.toNat < 128 then s.handToBlock h .primary f
  else if s.router.up then s.carry .primary f
  else if f.cls = .ask then s.answer .primary f.channel f.tag (Reply.refuse .noAnswer)
  else s

def State.route (h : Option Handler) (l : Link) (f : Frame) (s : State) : State :=
  match l with
  | .primary => s.routePrimary h f
  | .remote => s.routeRemote h f

/-- The router takes a frame its receiver has found complete: dropped while the ready line is low, an ASK reserving
its reply place first (R146, R147, R153, R172). `h` is what the owner of the channel does with a request. -/
def State.takeFrame (h : Option Handler) (l : Link) (f : Frame) (s : State) : State :=
  let s1 := s.setRx l Receiver.hunting
  if s.ready l then
    match f.cls with
    | .ask => State.route h l f { s1 with router := s1.router.reserve l }
    | .tell => State.route h l f s1
    | .reply => { s1 with router := s1.router.matchReply l f }
    | .notice => s1
  else s1

/-- A frame of any channel, its request looked up in the catalogue. -/
def State.takeAny (l : Link) (f : Frame) (s : State) : State := s.takeFrame (handlerOf f.channel) l f

def ReqClass.frame : ReqClass → FrameClass
  | .ask => .ask
  | .tell => .tell

/-- The frame of a request on a channel. -/
def requestFrame (channel : Byte) (r : Req) : Frame :=
  { cls := ReqClass.frame r.cls, channel := channel, tag := r.tag, payload := r.payload }

/-- A request of the catalogue arrives. -/
def State.takeRequest (channel : Byte) (h : Handler) (r : Req) (s : State) : State :=
  s.takeFrame (some h) r.link (requestFrame channel r)

/-! ### The receivers (R170) -/

/-- The frame of the bytes kept after the start marker, when its check matches. -/
def frameOf (kept : List Byte) : Option Frame :=
  match kept with
  | n :: c :: ch :: tag :: rest =>
    let payload := rest.take n.toNat
    let check := rest.drop n.toNat
    if leNat check = (crc16 (n :: c :: ch :: tag :: payload)).toNat then
      (match c.toNat with
        | 0 => some { cls := .ask, channel := ch, tag := tag, payload := payload }
        | 1 => some { cls := .tell, channel := ch, tag := tag, payload := payload }
        | 2 => some { cls := .reply, channel := ch, tag := tag, payload := payload }
        | _ => some { cls := .notice, channel := ch, tag := tag, payload := payload })
    else none
  | _ => none

/-- The bytes of a frame that its check covers (R169): length, class, channel, tag, payload. -/
def checkedBytes (f : Frame) : List Byte :=
  byte f.payload.length :: byte (classCode f.cls) :: f.channel :: f.tag :: f.payload

/-- A frame on the wire (R169): the start marker, the bytes the check covers, the check with its low byte first. -/
def wireBytes (f : Frame) : List Byte :=
  0x5C :: (checkedBytes f ++ leBytes 2 (crc16 (checkedBytes f)).toNat)

/-- The payload length of the frame under way. -/
def Receiver.length (x : Receiver) : Nat := (x.kept.headD 0).toNat

/-- Keep a byte and stand in a phase. -/
def Receiver.keep (x : Receiver) (b : Byte) (ph : RxPhase) : Receiver :=
  { phase := ph, kept := x.kept ++ [b], idle := 0 }

/-- R170: a byte of the header. -/
def Receiver.headerByte (x : Receiver) (b : Byte) : Receiver :=
  match x.kept.length with
  | 0 => if 240 < b.toNat then Receiver.hunting else x.keep b .header
  | 1 => if 3 < b.toNat then Receiver.hunting else x.keep b .header
  | 2 => x.keep b .header
  | _ => x.keep b (if x.length = 0 then .check else .payload)

/-- R170: one byte received, and the frame handed over when it completes one. -/
def Receiver.byte (x : Receiver) (b : Byte) : Receiver × Option Frame :=
  match x.phase with
  | .hunt => (if b = 0x5C then { phase := .header, kept := [], idle := 0 } else Receiver.hunting, none)
  | .header => (x.headerByte b, none)
  | .payload => (x.keep b (if x.kept.length + 1 < 4 + x.length then .payload else .check), none)
  | .check =>
    if x.kept.length + 1 < 6 + x.length then (x.keep b .check, none)
    else (Receiver.hunting, frameOf (x.kept ++ [b]))

/-- One byte received on a link. -/
def State.receiveByte (l : Link) (s : State) (b : Byte) : State :=
  let r := (s.rx l).byte b
  match r.2 with
  | none => s.setRx l r.1
  | some f => (s.setRx l r.1).takeAny l f

/-- Bytes received on a link; in SLEEP none is taken (R170). -/
def State.receive (l : Link) (bytes : List Byte) (s : State) : State :=
  if s.awake then bytes.foldl (State.receiveByte l) s else s

/-- A byte with a bad stop bit drops the frame under way (R170). -/
def State.badStopBit (l : Link) (bytes : List Byte) (s : State) : State :=
  let s1 := s.receive l bytes
  if s.awake then s1.setRx l Receiver.hunting else s1

/-- 20 ms without a byte of the frame under way (R170). -/
def Receiver.overdue (x : Receiver) : Bool := x.phase != .hunt && decide (20 ≤ x.idle)

/-- RECEIVER_TIMEOUT (R170). -/
def State.receiverTimeout (l : Link) (s : State) : State :=
  if (s.rx l).overdue then s.setRx l Receiver.hunting else s

end Sys2Proof.Machine
end

