-- ==== Sys2Proof/Machine/Requests.lean ====
section
/-! DEFINITION. The meaning of each row that is a frame: the fifty-two requests of the catalogue (11.5) and the frames
that are not requests of it (R144 to R153, R172). A request row is the arrival of its frame (log entry 6). -/

namespace Sys2Proof.Machine

/-- The outcome of a command of this part. -/
abbrev Done := Host.Outcome State Fault Refusal

/-- IDENT (0x00, R176). -/
def execIdent (r : Req) (s : State) : Done := .next (s.takeRequest 0x00 handleIdent r)

/-- SET_TAG (0x01, R168). -/
def execSetTag (r : Req) (s : State) : Done := .next (s.takeRequest 0x01 handleSetTag r)

/-- RESET (0x02, R167). -/
def execReset (r : Req) (s : State) : Done := .next (s.takeRequest 0x02 handleReset r)

/-- SLEEP (0x03, R165). -/
def execSleep (r : Req) (s : State) : Done := .next (s.takeRequest 0x03 handleSleep r)

/-- PAUSE (0x04, R55). -/
def execPause (r : Req) (s : State) : Done := .next (s.takeRequest 0x04 handlePause r)

/-- RESUME (0x05, R60). -/
def execResume (r : Req) (s : State) : Done := .next (s.takeRequest 0x05 handleResume r)

/-- STEP (0x06, R59). -/
def execStepSegment (r : Req) (s : State) : Done := .next (s.takeRequest 0x06 handleStep r)

/-- POWER_STATUS (0x07, R168). -/
def execPowerStatus (r : Req) (s : State) : Done := .next (s.takeRequest 0x07 handlePowerStatus r)

/-- SET_BUDGET (0x08, R164). -/
def execSetBudget (r : Req) (s : State) : Done := .next (s.takeRequest 0x08 handleSetBudget r)

/-- CLAIM (0x10, R10). -/
def execClaim (r : Req) (s : State) : Done := .next (s.takeRequest 0x10 handleClaim r)

/-- RELEASE (0x11, R12). -/
def execRelease (r : Req) (s : State) : Done := .next (s.takeRequest 0x11 handleRelease r)

/-- QUEUE_SEGMENT (0x12, R13). -/
def execQueueSegment (r : Req) (s : State) : Done := .next (s.takeRequest 0x12 handleQueueSegment r)

/-- FLUSH (0x13, R16). -/
def execFlush (r : Req) (s : State) : Done := .next (s.takeRequest 0x13 handleFlush r)

/-- SET_GAINS (0x14, R19). -/
def execSetGains (r : Req) (s : State) : Done := .next (s.takeRequest 0x14 handleSetGains r)

/-- SET_POLICY (0x15, R20). -/
def execSetPolicy (r : Req) (s : State) : Done := .next (s.takeRequest 0x15 handleSetPolicy r)

/-- ZERO_COUNT (0x16, R18). -/
def execZeroCount (r : Req) (s : State) : Done := .next (s.takeRequest 0x16 handleZeroCount r)

/-- MOTOR_STATUS (0x17, R21). -/
def execMotorStatus (r : Req) (s : State) : Done := .next (s.takeRequest 0x17 handleMotorStatus r)

/-- CLEAR_FAULT (0x18, R49). -/
def execClearFault (r : Req) (s : State) : Done := .next (s.takeRequest 0x18 handleClearFault r)

/-- STOP_NOW (0x19, R17). -/
def execStopNow (r : Req) (s : State) : Done := .next (s.takeRequest 0x19 handleStopNow r)

/-- SENSOR_STATUS (0x20, R79). -/
def execSensorStatus (r : Req) (s : State) : Done := .next (s.takeRequest 0x20 handleSensorStatus r)

/-- SELECT_MODE (0x21, R76). -/
def execSelectMode (r : Req) (s : State) : Done := .next (s.takeRequest 0x21 handleSelectMode r)

/-- READ_SAMPLES (0x22, R83). -/
def execReadSamples (r : Req) (s : State) : Done := .next (s.takeRequest 0x22 handleReadSamples r)

/-- STREAM_OPEN (0x23, R85). -/
def execStreamOpen (r : Req) (s : State) : Done := .next (s.takeRequest 0x23 handleStreamOpen r)

/-- STREAM_CLOSE (0x24, R86). -/
def execStreamClose (r : Req) (s : State) : Done := .next (s.takeRequest 0x24 handleStreamClose r)

/-- CAPTURE_START (0x25, R90). -/
def execCaptureStart (r : Req) (s : State) : Done := .next (s.takeRequest 0x25 handleCaptureStart r)

/-- CAPTURE_STOP (0x26, R96). -/
def execCaptureStop (r : Req) (s : State) : Done := .next (s.takeRequest 0x26 handleCaptureStop r)

/-- BANK_RESTORE (0x27, R65). -/
def execBankRestore (r : Req) (s : State) : Done := .next (s.takeRequest 0x27 handleBankRestore r)

/-- WATCH_SET (0x30, R108). -/
def execWatchSet (r : Req) (s : State) : Done := .next (s.takeRequest 0x30 handleWatchSet r)

/-- WATCH_CLEAR (0x31, R109). -/
def execWatchClear (r : Req) (s : State) : Done := .next (s.takeRequest 0x31 handleWatchClear r)

/-- WATCH_REARM (0x32, R109). -/
def execWatchRearm (r : Req) (s : State) : Done := .next (s.takeRequest 0x32 handleWatchRearm r)

/-- WATCH_STATUS (0x33, R111). -/
def execWatchStatus (r : Req) (s : State) : Done := .next (s.takeRequest 0x33 handleWatchStatus r)

/-- SET_VIRTUAL (0x34, R112). -/
def execSetVirtual (r : Req) (s : State) : Done := .next (s.takeRequest 0x34 handleSetVirtual r)

/-- WATCH_ENABLE (0x35, R110). -/
def execWatchEnable (r : Req) (s : State) : Done := .next (s.takeRequest 0x35 handleWatchEnable r)

/-- DEFINE_REGION (0x40, R115). -/
def execDefineRegion (r : Req) (s : State) : Done := .next (s.takeRequest 0x40 handleDefineRegion r)

/-- DELETE_REGION (0x41, R116). -/
def execDeleteRegion (r : Req) (s : State) : Done := .next (s.takeRequest 0x41 handleDeleteRegion r)

/-- SET_CLIP (0x42, R117). -/
def execSetClip (r : Req) (s : State) : Done := .next (s.takeRequest 0x42 handleSetClip r)

/-- WRITE_START (0x43, R119). -/
def execWriteStart (r : Req) (s : State) : Done := .next (s.takeRequest 0x43 handleWriteStart r)

/-- WRITE_DATA (0x44, R120). -/
def execWriteData (r : Req) (s : State) : Done := .next (s.takeRequest 0x44 handleWriteData r)

/-- WRITE_END (0x45, R121). -/
def execWriteEnd (r : Req) (s : State) : Done := .next (s.takeRequest 0x45 handleWriteEnd r)

/-- READ_REGION (0x46, R123). -/
def execReadRegion (r : Req) (s : State) : Done := .next (s.takeRequest 0x46 handleReadRegion r)

/-- COMPACT (0x47, R124). -/
def execCompact (r : Req) (s : State) : Done := .next (s.takeRequest 0x47 handleCompact r)

/-- PLAY (0x48, R131). -/
def execPlay (r : Req) (s : State) : Done := .next (s.takeRequest 0x48 handlePlay r)

/-- PLAY_TONE (0x49, R132). -/
def execPlayTone (r : Req) (s : State) : Done := .next (s.takeRequest 0x49 handlePlayTone r)

/-- RELEASE_VOICE (0x4A, R136). -/
def execReleaseVoice (r : Req) (s : State) : Done := .next (s.takeRequest 0x4A handleReleaseVoice r)

/-- STOP_VOICE (0x4B, R136). -/
def execStopVoice (r : Req) (s : State) : Done := .next (s.takeRequest 0x4B handleStopVoice r)

/-- SET_VOLUME (0x4C, R139). -/
def execSetVolume (r : Req) (s : State) : Done := .next (s.takeRequest 0x4C handleSetVolume r)

/-- SET_LOOP_START (0x4D, R137). -/
def execSetLoopStart (r : Req) (s : State) : Done := .next (s.takeRequest 0x4D handleSetLoopStart r)

/-- SOUND_STATUS (0x4E, R143). -/
def execSoundStatus (r : Req) (s : State) : Done := .next (s.takeRequest 0x4E handleSoundStatus r)

/-- SET_WINDOW (0x50, R157). -/
def execSetWindow (r : Req) (s : State) : Done := .next (s.takeRequest 0x50 handleSetWindow r)

/-- SET_FORWARD (0x51, R157). -/
def execSetForward (r : Req) (s : State) : Done := .next (s.takeRequest 0x51 handleSetForward r)

/-- ROUTE_STATUS (0x52, R158). -/
def execRouteStatus (r : Req) (s : State) : Done := .next (s.takeRequest 0x52 handleRouteStatus r)

/-- REMOTE_POLICY (0x53, R158). -/
def execRemotePolicy (r : Req) (s : State) : Done := .next (s.takeRequest 0x53 handleRemotePolicy r)

/-- FORWARD_FRAME (R144, R146, R152): an ASK or TELL for the other master. -/
def execForwardFrame (l : Link) (f : Frame) (s : State) : Done := .next (s.takeAny l f)

/-- FORWARDED_REPLY (R153). -/
def execForwardedReply (l : Link) (channel tag : Byte) (payload : List Byte) (s : State) : Done :=
  .next (s.takeAny l (replyFrame channel tag payload))

/-- INBOUND_NOTICE (R146, R172). -/
def execInboundNotice (l : Link) (channel tag : Byte) (payload : List Byte) (s : State) : Done :=
  .next (s.takeAny l { cls := .notice, channel := channel, tag := tag, payload := payload })

/-- SYSTEM_FRAME_DENIED (R144): a system or routing request from the remote link. -/
def execSystemFrameDenied (c : ReqClass) (channel tag : Byte) (payload : List Byte) (s : State) : Done :=
  .next (s.takeAny .remote { cls := ReqClass.frame c, channel := channel, tag := tag, payload := payload })

/-- UNKNOWN_CHANNEL (R144, R172). -/
def execUnknownChannel (l : Link) (c : ReqClass) (channel tag : Byte) (payload : List Byte) (s : State) : Done :=
  .next (s.takeAny l { cls := ReqClass.frame c, channel := channel, tag := tag, payload := payload })

/-- READY_LOW_DROP (R147). -/
def execReadyLowDrop (l : Link) (f : Frame) (s : State) : Done := .next (s.takeAny l f)

end Sys2Proof.Machine
end

