-- ==== Sys2Proof/Machine/Events.lean ====
section
/-! DEFINITION. The meaning of each row that is an event of the part: the receivers and the router, resets and power, the
motor and sensor controllers, the watch unit, the sound store, the mixer and the supply monitor. A threshold row
takes effect when its count or timer reaches its limit at it (log entry 3). -/

namespace Sys2Proof.Machine

/-- In SLEEP every block stands still (R165). -/
def State.whenAwake (f : State → State) (s : State) : State := if s.awake then f s else s

/-! ### Receivers and router -/

/-- CHECK_MISMATCH (R170): the bytes of the frame, its check not matching. -/
def execCheckMismatch (l : Link) (bytes : List Byte) (s : State) : Done := .next (s.receive l bytes)

/-- HEADER_FIELD_OUT_OF_RANGE (R170): bytes up to a length above 240 or a class above 3. -/
def execHeaderFieldOutOfRange (l : Link) (bytes : List Byte) (s : State) : Done := .next (s.receive l bytes)

/-- BAD_STOP_BIT (R170): the bytes of the frame under way, then one with a bad stop bit. -/
def execBadStopBit (l : Link) (bytes : List Byte) (s : State) : Done := .next (s.badStopBit l bytes)

/-- RECEIVER_TIMEOUT (R170). -/
def execReceiverTimeout (l : Link) (s : State) : Done := .next (s.receiverTimeout l)

/-- TRANSMIT_FRAME (R150). -/
def execTransmitFrame (l : Link) (farReady : Bool) (s : State) : Done := .next (s.transmit l farReady)

/-- FORWARD_AGE_LIMIT (R149). -/
def execForwardAgeLimit (l : Link) (s : State) : Done := .next (s.whenAwake (fun s => s.forwardAgeLimit l))

/-- FORWARD_WAIT_EXPIRY (R154). -/
def execForwardWaitExpiry (origin : Link) (s : State) : Done :=
  .next (s.whenAwake (fun s => s.forwardWaitExpiry origin))

/-- LINKED_RISE (R155). -/
def execLinkedRise (s : State) : Done := .next s.linkedRise

/-- LINKED_FALL (R155). -/
def execLinkedFall (s : State) : Done := .next s.linkedFall

/-- REMOTE_BREAK (R155, R171). -/
def execRemoteBreak (s : State) : Done := .next s.remoteBreak

/-- LINK_RESET (R156, R171). -/
def execLinkReset (s : State) : Done := .next s.linkReset

/-! ### Resets and power -/

/-- WAKE (R166): outside SLEEP a break of the primary link is a LINK_RESET instead. -/
def execWake (mv : Nat) (s : State) : Done := .next (if s.awake then s else s.woken mv)

/-- POWER_ON (R167). -/
def execPowerOn (mv : Nat) (linked : Bool) (s : State) : Done := .next (s.powerOn mv linked)

/-- SOFT_RESET (R167): the sending of the reply of RESET is complete. -/
def execSoftReset (mv : Nat) (s : State) : Done := .next (if s.waitsFor .reset true then s.soft mv else s)

/-- RESET_TIMEOUT (R167): 100 ms after its acceptance the reply of RESET has not begun. -/
def execResetTimeout (mv : Nat) (s : State) : Done :=
  .next (if s.waitsFor .reset false && s.shutdownOverdue then s.soft mv else s)

/-- SLEEP_ENTRY (R165): the sending of the reply of SLEEP is complete. -/
def execSleepEntry (s : State) : Done := .next (if s.waitsFor .sleep true then s.asleep else s)

/-- SLEEP_TIMEOUT (R165): 100 ms after its acceptance the reply of SLEEP has not begun. -/
def execSleepTimeout (s : State) : Done :=
  .next (if s.waitsFor .sleep false && s.shutdownOverdue then s.asleep else s)

/-- IDENT_NOTICE_DUE (R176). -/
def execIdentNoticeDue (s : State) : Done := .next s.identNoticeDue

/-- BANK_R_POWER_UP (R66). -/
def execBankRPowerUp (s : State) : Done := .next s.bankRPowerUp

/-! ### Motor controller -/

/-- R25, and the sum R164 takes at each expiry. -/
def State.controlExpiry (s : State) (r : Six MotorReading) : State :=
  let s1 := s.withMotors (s.motors.expiry s.feed r)
  { s1 with supply := { s1.supply with currentSum := s1.supply.currentSum + s1.motors.totalCurrent } }

/-- CONTROL_EXPIRY (R25). -/
def execControlExpiry (r : Six MotorReading) (s : State) : Done := .next (s.whenAwake (fun s => s.controlExpiry r))

/-- DURATION_END (R33). -/
def execDurationEnd (p : MotorPort) (s : State) : Done :=
  .next (s.whenAwake (fun s => s.withMotors (s.motors.durationEnd s.feed p)))

/-- SEGMENT_SETTLED (R44). -/
def execSegmentSettled (p : MotorPort) (s : State) : Done :=
  .next (s.whenAwake (fun s => s.withMotors (s.motors.segmentSettled s.feed p)))

/-- SETTLE_LIMIT_REACHED (R44). -/
def execSettleLimitReached (p : MotorPort) (s : State) : Done :=
  .next (s.whenAwake (fun s => s.withMotors (s.motors.settleLimit s.feed p)))

/-- STALL (R47). -/
def execStall (p : MotorPort) (s : State) : Done :=
  .next (s.whenAwake (fun s => s.withMotors (s.motors.stall s.feed p)))

/-- OVERCURRENT_FAULT (R48). -/
def execOvercurrentFault (p : MotorPort) (s : State) : Done :=
  .next (s.whenAwake (fun s => s.withMotors (s.motors.overcurrentFault p)))

/-- MOTOR_ID_SAMPLE (R1, R2). -/
def execMotorIdSample (c : Six MotorIdClass) (s : State) : Done :=
  .next (s.whenAwake (fun s => s.withMotors (s.motors.idSample c)))

/-! ### Sensor controller -/

/-- BANK_CURRENT_MEASURE (R63). -/
def execBankCurrentMeasure (b : BankId) (mA : Nat) (s : State) : Done :=
  .next (s.whenAwake (fun s => s.measureBank b mA))

/-- BANK_TRIP (R63). -/
def execBankTrip (b : BankId) (s : State) : Done := .next (s.whenAwake (fun s => s.bankTrip b))

/-- RETRY_END (R64). -/
def execRetryEnd (b : BankId) (s : State) : Done := .next (s.whenAwake (fun s => s.retryEnd b))

/-- CLEAN_TIME_REACHED (R64). -/
def execCleanTimeReached (b : BankId) (s : State) : Done := .next (s.whenAwake (fun s => s.cleanTimeReached b))

/-- PORT_ID_MEASURE (R68, R69). -/
def execPortIdMeasure (p : SensorPort) (c : IdClass) (s : State) : Done :=
  .next (s.whenAwake (fun s => s.measureId p c))

/-- PASSIVE_SAMPLE (R70, R82). -/
def execPassiveSample (p : SensorPort) (v : Int) (s : State) : Done :=
  .next (s.whenAwake (fun s => s.passiveSample p v))

/-- DESCRIBE_RECORD (R71). -/
def execDescribeRecord (p : SensorPort) (kind modeCount speed : Nat) (s : State) : Done :=
  .next (s.whenAwake (fun s => s.describeRecord p kind modeCount speed))

/-- MODE_RECORD (R71). -/
def execModeRecord (p : SensorPort) (m : ModeDesc) (s : State) : Done :=
  .next (s.whenAwake (fun s => s.modeRecord p m))

/-- END_RECORD (R71, R73). -/
def execEndRecord (p : SensorPort) (s : State) : Done := .next (s.whenAwake (fun s => s.endRecord p))

/-- ACCEPT_SENT (R73). -/
def execAcceptSent (p : SensorPort) (s : State) : Done := .next (s.whenAwake (fun s => s.acceptSent p))

/-- HANDSHAKE_TIMEOUT (R71). -/
def execHandshakeTimeout (p : SensorPort) (s : State) : Done := .next (s.whenAwake (fun s => s.handshakeTimeout p))

/-- DATA_RECORD (R74). -/
def execDataRecord (p : SensorPort) (mode : Nat) (values : List Int) (s : State) : Done :=
  .next (s.whenAwake (fun s => s.dataRecord p mode values))

/-- SILENCE_TIMEOUT (R74). -/
def execSilenceTimeout (p : SensorPort) (s : State) : Done := .next (s.whenAwake (fun s => s.silenceTimeout p))

/-- ERROR_TIME_END (R75). -/
def execErrorTimeEnd (p : SensorPort) (s : State) : Done := .next (s.whenAwake (fun s => s.errorTimeEnd p))

/-- STREAM_EXPIRY (R87, R89). -/
def execStreamExpiry (i : StreamId) (s : State) : Done := .next (s.whenAwake (fun s => s.streamExpiry i))

/-- MALFORMED_RECORD (R71). -/
def execMalformedRecord (p : SensorPort) (s : State) : Done := .next (s.whenAwake (fun s => s.otherRecord p))

/-! ### Watch unit -/

/-- WATCH_SCAN (R100). -/
def execWatchScan (s : State) : Done :=
  .next (s.whenAwake (fun s => s.withReach (s.reach.scan s.watchFeed s.supply.vb)))

/-- WATCH_FIRE (R103). -/
def execWatchFire (i : WatchId) (v : Int) (s : State) : Done :=
  .next (s.whenAwake (fun s => s.withReach (s.reach.fireNow s.watchFeed i v)))

/-! ### Sound store and mixer -/

/-- COMPACT_REGION_COPIED (R124). -/
def execCompactRegionCopied (s : State) : Done :=
  .next (s.whenAwake (fun s => { s with store := s.store.regionCopied }))

/-- R124: compaction ends and its ASK, if any, is answered. -/
def State.compactComplete (s : State) : State :=
  match s.store.compactComplete with
  | (st, none) => { s with store := st }
  | (st, some (l, tag, r)) => { s with store := st }.answer l 0x47 tag r

/-- COMPACT_COMPLETE (R124). -/
def execCompactComplete (s : State) : Done := .next (s.whenAwake State.compactComplete)

/-- A cue event: its notice, then the watch unit (R101, R135). -/
def State.handleCue (s : State) (c : CueEvent) : State :=
  let s1 := s.notifyAll (c.notices s.now)
  s1.withReach (s1.reach.cue s1.watchFeed c.region c.voice)

/-- R138: an output event, its VOICE_ENDs (log entry 20), then its cues in voice order. -/
def State.outputEvent (s : State) : State :=
  let r := s.mixer.outputEvent s.supply.power s.now s.store
  r.cues.foldl State.handleCue (s.withMixer (r.mixer, r.sent))

/-- OUTPUT_EVENT (R138). -/
def execOutputEvent (s : State) : Done := .next (s.whenAwake State.outputEvent)

/-- TONE_END (R132). -/
def execToneEnd (v : VoiceId) (s : State) : Done :=
  .next (s.whenAwake (fun s => s.withMixer (s.mixer.toneEnd s.now v)))

/-- VOLUME_RAMP_STEP (R139). -/
def execVolumeRampStep (s : State) : Done := .next (s.whenAwake (fun s => { s with mixer := s.mixer.rampStep }))

/-! ### Supply monitor -/

/-- SUPPLY_UPDATE (R160, R161, R164). -/
def execSupplyUpdate (mv : Nat) (s : State) : Done := .next (s.supplyUpdate mv)

/-- POWER_STATE_CHANGE (R161, R162). -/
def execPowerStateChange (s : State) : Done := .next (s.whenAwake State.powerStateChange)

end Sys2Proof.Machine
end

