-- ==== Sys2Proof/Machine/Clock.lean ====
section
/-! DEFINITION. The passing of one millisecond, and the timed events that are due (log entries 1 and 3). What the part
samples at a fixed rate is paced by its sender (log entry 2). -/

namespace Sys2Proof.Machine

/-! ### One millisecond -/

/-- R64. -/
def Bank.tick (k : Bank) : Bank :=
  match k.state with
  | .on => { k with clean := min 10000 (k.clean + 1) }
  | .tripped => { k with retry := min 1000 (k.retry + 1) }
  | _ => k

/-- R71. -/
def Handshake.tick (h : Handshake) : Handshake :=
  if h.stage = .accepting then h else { h with wait := h.wait + 1 }

/-- R71, R74, R75. -/
def Port.tick (q : Port) : Port :=
  match q.state with
  | .handshake => { q with hs := q.hs.map Handshake.tick }
  | .ready => if q.smart then { q with silence := q.silence + 1 } else q
  | .switching => if q.smart then { q with silence := q.silence + 1 } else q
  | .error => { q with errTime := min 500 (q.errTime + 1) }
  | _ => q

/-- R64, R66, R81. -/
def Sensors.tick (x : Sensors) : Sensors :=
  { x with bankL := x.bankL.tick, bankR := x.bankR.tick, bankRWait := x.bankRWait.map (fun n => n + 1),
           ports := x.ports.map Port.tick, time := x.time + 1 }

/-- R124. -/
def Store.tick (st : Store) : Store :=
  { st with compaction := st.compaction.map (fun k => { k with elapsed := k.elapsed + 1 }) }

/-- R139. -/
def Mixer.tick (x : Mixer) : Mixer := if x.ramping then { x with rampTimer := min 4 (x.rampTimer + 1) } else x

/-- R170. -/
def Receiver.tick (x : Receiver) : Receiver := if x.phase = .hunt then x else { x with idle := x.idle + 1 }

/-- R170. -/
def Router.tick (r : Router) : Router :=
  { r with primary := { r.primary with rx := r.primary.rx.tick }, remote := { r.remote with rx := r.remote.rx.tick } }

/-- R165, R167, R176. -/
def Supply.tick (x : Supply) : Supply :=
  { x with shutdown := x.shutdown.map (fun k => { k with elapsed := k.elapsed + 1 }),
           identDue := x.identDue.map (fun d => { d with elapsed := d.elapsed + 1 }) }

/-- One millisecond passes; in SLEEP nothing counts it (R165). -/
def State.tick (s : State) : State :=
  s.whenAwake (fun s =>
    { s with sensors := s.sensors.tick, store := s.store.tick, mixer := s.mixer.tick, router := s.router.tick,
             supply := s.supply.tick })

/-! ### The timed events that are due -/

/-- RETRY_END is due (R64). -/
def Bank.retryDue (k : Bank) : Bool := k.state == .tripped && decide (1000 ≤ k.retry)

/-- CLEAN_TIME_REACHED is due, and has something to clear (R64). -/
def Bank.cleanDue (k : Bank) : Bool := k.state == .on && decide (10000 ≤ k.clean) && k.trips != 0

/-- HANDSHAKE_TIMEOUT is due (R71). -/
def Port.handshakeDue (q : Port) : Bool :=
  q.handshake.any (fun h => h.stage != .accepting && decide (100 ≤ h.wait))

/-- ERROR_TIME_END is due (R75). -/
def Port.errorDue (q : Port) : Bool := q.state == .error && decide (500 ≤ q.errTime)

/-- STREAM_EXPIRY is due (R87). -/
def Sensors.streamDue (x : Sensors) (i : StreamId) : Bool := (x.streams.get i).any (fun r => r.next == x.time)

/-- COMPACT_REGION_COPIED is due (R124). -/
def Compaction.copyDue (k : Compaction) : Bool := k.plan.head?.any (fun m => decide (m.due ≤ k.elapsed))

/-- COMPACT_COMPLETE is due (R124). -/
def Compaction.endDue (k : Compaction) : Bool := k.plan.isEmpty && decide (k.due ≤ k.elapsed) && !k.soft

/-- FORWARD_AGE_LIMIT is due (R149). -/
def State.ageDue (s : State) (l : Link) : Bool :=
  (s.router.link l).forward.head?.any (fun e => decide (1000 ≤ msSince s.now e.entered))

/-- The timed events of a bank. -/
def Sensors.bankTimers (x : Sensors) (b : BankId) : List (Bool × Instr) :=
  [((x.bank b).retryDue, .retryEnd b), ((x.bank b).cleanDue, .cleanTimeReached b)]

/-- The timed events of a sensor port. -/
def Sensors.portTimers (x : Sensors) (p : SensorPort) : List (Bool × Instr) :=
  let q := x.ports.get p
  [(q.handshakeDue, .handshakeTimeout p), (q.silent, .silenceTimeout p), (q.errorDue, .errorTimeEnd p)]

/-- The timed events of a link. -/
def State.linkTimers (s : State) (l : Link) : List (Bool × Instr) :=
  [((s.rx l).overdue, .receiverTimeout l), (s.ageDue l, .forwardAgeLimit l),
   ((s.router.record l).any (waitOver s.now), .forwardWaitExpiry l)]

/-- Every timed event with whether it is due, in the order in which the part takes them (log entry 3). The battery
measurement that the part's own RESET_TIMEOUT takes is a free value (log entry 60). -/
def State.timers (s : State) : List (Bool × Instr) :=
  [(s.waitsFor .sleep false && s.shutdownOverdue, .sleepTimeout),
   (s.waitsFor .reset false && s.shutdownOverdue, .resetTimeout (Config.batteryAt s.now.toNat)),
   (s.sensors.bankRWait.any (fun n => decide (20 ≤ n)), .bankRPowerUp)] ++
    [BankId.l, BankId.r].flatMap s.sensors.bankTimers ++ Num8.all.flatMap s.sensors.portTimers ++
    Num8.all.map (fun i => (s.sensors.streamDue i, Instr.streamExpiry i)) ++
    [(s.mixer.ramping && decide (4 ≤ s.mixer.rampTimer), .volumeRampStep),
     (s.store.compaction.any Compaction.copyDue, .compactRegionCopied),
     (s.store.compaction.any Compaction.endDue, .compactComplete)] ++
    [Link.primary, Link.remote].flatMap s.linkTimers ++
    [(s.supply.identDue.any (fun d => decide (50 ≤ d.elapsed)), .identNoticeDue)]

/-- The first timed event that is due; in SLEEP none. -/
def State.due (s : State) : Option Instr :=
  if s.awake then (s.timers.find? (fun t => t.1)).map (fun t => t.2) else none

end Sys2Proof.Machine
end

