-- ==== Sys2Proof/Machine/Dispatch.lean ====
section
/-! DEFINITION. One arm for each command, each a call of its meaning. -/

namespace Sys2Proof.Machine

def exec (i : Instr) (s : State) : Host.Outcome State Fault Refusal :=
  match i with
  | .ident r => Sys2Proof.Machine.execIdent r s
  | .setTag r => Sys2Proof.Machine.execSetTag r s
  | .reset r => Sys2Proof.Machine.execReset r s
  | .sleep r => Sys2Proof.Machine.execSleep r s
  | .pause r => Sys2Proof.Machine.execPause r s
  | .resume r => Sys2Proof.Machine.execResume r s
  | .stepSegment r => Sys2Proof.Machine.execStepSegment r s
  | .powerStatus r => Sys2Proof.Machine.execPowerStatus r s
  | .setBudget r => Sys2Proof.Machine.execSetBudget r s
  | .claim r => Sys2Proof.Machine.execClaim r s
  | .release r => Sys2Proof.Machine.execRelease r s
  | .queueSegment r => Sys2Proof.Machine.execQueueSegment r s
  | .flush r => Sys2Proof.Machine.execFlush r s
  | .setGains r => Sys2Proof.Machine.execSetGains r s
  | .setPolicy r => Sys2Proof.Machine.execSetPolicy r s
  | .zeroCount r => Sys2Proof.Machine.execZeroCount r s
  | .motorStatus r => Sys2Proof.Machine.execMotorStatus r s
  | .clearFault r => Sys2Proof.Machine.execClearFault r s
  | .stopNow r => Sys2Proof.Machine.execStopNow r s
  | .sensorStatus r => Sys2Proof.Machine.execSensorStatus r s
  | .selectMode r => Sys2Proof.Machine.execSelectMode r s
  | .readSamples r => Sys2Proof.Machine.execReadSamples r s
  | .streamOpen r => Sys2Proof.Machine.execStreamOpen r s
  | .streamClose r => Sys2Proof.Machine.execStreamClose r s
  | .captureStart r => Sys2Proof.Machine.execCaptureStart r s
  | .captureStop r => Sys2Proof.Machine.execCaptureStop r s
  | .bankRestore r => Sys2Proof.Machine.execBankRestore r s
  | .watchSet r => Sys2Proof.Machine.execWatchSet r s
  | .watchClear r => Sys2Proof.Machine.execWatchClear r s
  | .watchRearm r => Sys2Proof.Machine.execWatchRearm r s
  | .watchStatus r => Sys2Proof.Machine.execWatchStatus r s
  | .setVirtual r => Sys2Proof.Machine.execSetVirtual r s
  | .watchEnable r => Sys2Proof.Machine.execWatchEnable r s
  | .defineRegion r => Sys2Proof.Machine.execDefineRegion r s
  | .deleteRegion r => Sys2Proof.Machine.execDeleteRegion r s
  | .setClip r => Sys2Proof.Machine.execSetClip r s
  | .writeStart r => Sys2Proof.Machine.execWriteStart r s
  | .writeData r => Sys2Proof.Machine.execWriteData r s
  | .writeEnd r => Sys2Proof.Machine.execWriteEnd r s
  | .readRegion r => Sys2Proof.Machine.execReadRegion r s
  | .compact r => Sys2Proof.Machine.execCompact r s
  | .play r => Sys2Proof.Machine.execPlay r s
  | .playTone r => Sys2Proof.Machine.execPlayTone r s
  | .releaseVoice r => Sys2Proof.Machine.execReleaseVoice r s
  | .stopVoice r => Sys2Proof.Machine.execStopVoice r s
  | .setVolume r => Sys2Proof.Machine.execSetVolume r s
  | .setLoopStart r => Sys2Proof.Machine.execSetLoopStart r s
  | .soundStatus r => Sys2Proof.Machine.execSoundStatus r s
  | .setWindow r => Sys2Proof.Machine.execSetWindow r s
  | .setForward r => Sys2Proof.Machine.execSetForward r s
  | .routeStatus r => Sys2Proof.Machine.execRouteStatus r s
  | .remotePolicy r => Sys2Proof.Machine.execRemotePolicy r s
  | .forwardFrame l f => Sys2Proof.Machine.execForwardFrame l f s
  | .forwardedReply l channel tag payload => Sys2Proof.Machine.execForwardedReply l channel tag payload s
  | .inboundNotice l channel tag payload => Sys2Proof.Machine.execInboundNotice l channel tag payload s
  | .systemFrameDenied c channel tag payload => Sys2Proof.Machine.execSystemFrameDenied c channel tag payload s
  | .unknownChannel l c channel tag payload => Sys2Proof.Machine.execUnknownChannel l c channel tag payload s
  | .readyLowDrop l f => Sys2Proof.Machine.execReadyLowDrop l f s
  | .checkMismatch l bytes => Sys2Proof.Machine.execCheckMismatch l bytes s
  | .receiverTimeout l => Sys2Proof.Machine.execReceiverTimeout l s
  | .transmitFrame l farReady => Sys2Proof.Machine.execTransmitFrame l farReady s
  | .forwardAgeLimit l => Sys2Proof.Machine.execForwardAgeLimit l s
  | .forwardWaitExpiry origin => Sys2Proof.Machine.execForwardWaitExpiry origin s
  | .linkedRise => Sys2Proof.Machine.execLinkedRise s
  | .linkedFall => Sys2Proof.Machine.execLinkedFall s
  | .remoteBreak => Sys2Proof.Machine.execRemoteBreak s
  | .linkReset => Sys2Proof.Machine.execLinkReset s
  | .wake mv => Sys2Proof.Machine.execWake mv s
  | .powerOn mv linked => Sys2Proof.Machine.execPowerOn mv linked s
  | .softReset mv => Sys2Proof.Machine.execSoftReset mv s
  | .resetTimeout mv => Sys2Proof.Machine.execResetTimeout mv s
  | .sleepEntry => Sys2Proof.Machine.execSleepEntry s
  | .sleepTimeout => Sys2Proof.Machine.execSleepTimeout s
  | .identNoticeDue => Sys2Proof.Machine.execIdentNoticeDue s
  | .bankRPowerUp => Sys2Proof.Machine.execBankRPowerUp s
  | .controlExpiry r => Sys2Proof.Machine.execControlExpiry r s
  | .durationEnd p => Sys2Proof.Machine.execDurationEnd p s
  | .segmentSettled p => Sys2Proof.Machine.execSegmentSettled p s
  | .settleLimitReached p => Sys2Proof.Machine.execSettleLimitReached p s
  | .stall p => Sys2Proof.Machine.execStall p s
  | .overcurrentFault p => Sys2Proof.Machine.execOvercurrentFault p s
  | .motorIdSample c => Sys2Proof.Machine.execMotorIdSample c s
  | .bankCurrentMeasure b mA => Sys2Proof.Machine.execBankCurrentMeasure b mA s
  | .bankTrip b => Sys2Proof.Machine.execBankTrip b s
  | .retryEnd b => Sys2Proof.Machine.execRetryEnd b s
  | .cleanTimeReached b => Sys2Proof.Machine.execCleanTimeReached b s
  | .portIdMeasure p c => Sys2Proof.Machine.execPortIdMeasure p c s
  | .passiveSample p v => Sys2Proof.Machine.execPassiveSample p v s
  | .describeRecord p kind modeCount speed => Sys2Proof.Machine.execDescribeRecord p kind modeCount speed s
  | .modeRecord p m => Sys2Proof.Machine.execModeRecord p m s
  | .endRecord p => Sys2Proof.Machine.execEndRecord p s
  | .acceptSent p => Sys2Proof.Machine.execAcceptSent p s
  | .handshakeTimeout p => Sys2Proof.Machine.execHandshakeTimeout p s
  | .dataRecord p mode values => Sys2Proof.Machine.execDataRecord p mode values s
  | .silenceTimeout p => Sys2Proof.Machine.execSilenceTimeout p s
  | .errorTimeEnd p => Sys2Proof.Machine.execErrorTimeEnd p s
  | .streamExpiry k => Sys2Proof.Machine.execStreamExpiry k s
  | .watchScan => Sys2Proof.Machine.execWatchScan s
  | .watchFire k v => Sys2Proof.Machine.execWatchFire k v s
  | .compactRegionCopied => Sys2Proof.Machine.execCompactRegionCopied s
  | .compactComplete => Sys2Proof.Machine.execCompactComplete s
  | .outputEvent => Sys2Proof.Machine.execOutputEvent s
  | .toneEnd v => Sys2Proof.Machine.execToneEnd v s
  | .volumeRampStep => Sys2Proof.Machine.execVolumeRampStep s
  | .supplyUpdate mv => Sys2Proof.Machine.execSupplyUpdate mv s
  | .powerStateChange => Sys2Proof.Machine.execPowerStateChange s
  | .badStopBit l bytes => Sys2Proof.Machine.execBadStopBit l bytes s
  | .headerFieldOutOfRange l bytes => Sys2Proof.Machine.execHeaderFieldOutOfRange l bytes s
  | .malformedRecord p => Sys2Proof.Machine.execMalformedRecord p s

end Sys2Proof.Machine
end

