-- ==== Sys2Proof/Machine/Step.lean ====
section
/-! DEFINITION. One step of the part. -/

namespace Sys2Proof.Machine

/-- The command at the front of the queue is taken and run on the rest. On an empty queue the first timed event that is
due is taken, and when none is due one millisecond passes (log entry 1). -/
def step (s : State) : Host.Outcome State Fault Refusal :=
  match s.pending with
  | c :: rest => exec c { s with pending := rest }
  | [] =>
    match s.due with
    | some c => exec c s
    | none => .next s.tick

/-- No row of the table gives bits, so a word spells no command. -/
def State.withFetchWord (s : State) (nbits w : Nat) : State :=
  match decodeTableWord nbits w with
  | some c => { s with pending := c :: s.pending }
  | none => s

end Sys2Proof.Machine
end

