-- ==== Sys2Proof/Safety.lean ====
section
/-! DEFINITION. What it means that the part is never stopped by a command. -/

namespace Sys2Proof.Machine

/-- The outcome of a step is a next state. -/
def Completes (o : Host.Outcome State Fault Refusal) : Prop := ∃ t, o = .next t

/-- The state after an outcome that is a next state. -/
def outcomeState (o : Host.Outcome State Fault Refusal) : Option State :=
  match o with
  | .next t => some t
  | _ => none

/-! ### A request on its way through the router (R144 to R147, R172) -/

/-- The router hands a request on channel `c` from link `l` to the block that owns the channel: the ready line is
high, and from the remote link a window makes a channel outside the system and routing ranges local. -/
def State.admits (s : State) (l : Link) (c : Byte) : Bool :=
  s.ready l &&
    (match l with
      | .primary => decide (c.toNat < 128)
      | .remote => !systemChannel c && s.router.disposition c != .forward)

/-- Whether a request is mirrored to the primary link. -/
def State.mirrors (s : State) (l : Link) (c : Byte) : Bool :=
  l == .remote && s.router.disposition c == .localMirror

/-- The part as the block finds it: the receiver hunts, an ASK has its reply place, a mirrored request has its
MIRROR notice. -/
def State.entered (s : State) (channel : Byte) (r : Req) : State :=
  let s1 := s.setRx r.link Receiver.hunting
  let s2 := if r.cls = .ask then { s1 with router := s1.router.reserve r.link } else s1
  if s.mirrors r.link channel then s2.notify .primary (.mirror (requestFrame channel r)) else s2

/-- The part once the block has answered: an ASK gets the reply, a TELL nothing. -/
def State.replied (s : State) (channel : Byte) (r : Req) (y : Reply) : State :=
  if r.cls = .ask then s.answer r.link channel r.tag y else s

/-- The part after an accepted request of the motor controller: the record of one port written, `sent` and then the
notices of what follows from it handed over (`ps` are the ports on which R52 counts an event), an ASK answered. -/
def State.changed (s : State) (channel : Byte) (r : Req) (p : MotorPort) (c : Channel) (sent : List Sent)
    (ps : List MotorPort) (y : Reply) : State :=
  let x := (s.motors.setCh p c).conclude ps
  ((s.entered channel r).withMotors (x.1, sent ++ x.2)).replied channel r y

/-- A frame goes to the other link: from the primary link an application channel while the remote link is UP, from
the remote link a channel that the windows leave to FORWARD (R144, R146). -/
def State.forwards (s : State) (l : Link) (c : Byte) : Prop :=
  s.ready l = true ∧
    (match l with
      | .primary => 128 ≤ c.toNat ∧ s.router.up = true
      | .remote => s.router.disposition c = .forward)

/-! ### Notices that statements name -/

/-- The CAPTURE_END of the capture on a port that ends with an outcome, if one runs (R94, R95). -/
def State.captureEnds (s : State) (p : SensorPort) (o : CaptureOutcome) : List Sent :=
  match s.sensors.captureOn p with
  | none => []
  | some c =>
    [{ link := c.starter, notice := .captureEnd c o (((s.store.find c.region).map (fun g => g.fill)).getD 0) s.now }]

/-! ### Invariants -/

/-- The replies a link still owes: those in its queue, the one of an open record, the one of a compaction. -/
def State.owed (s : State) (l : Link) : Nat :=
  (s.router.link l).replies.length + (if (s.router.record l).isSome then 1 else 0) +
    (if s.store.compaction.any (fun k => k.asker.any (fun a => a.1 == l)) then 1 else 0)

/-- The bounds of a link's queues (R147, R148, R149). -/
def State.linkBounded (s : State) (l : Link) : Bool :=
  decide (s.owed l ≤ (s.router.link l).replyCount) && decide ((s.router.link l).replyCount ≤ 4) &&
    decide ((s.router.link l).notices.length ≤ 16) && decide ((s.router.link l).forward.length ≤ 8)

/-- The remote link is UP only with the LINKED line high, and while it is DOWN nothing is owed to it (R155). -/
def State.remoteConsistent (s : State) : Bool :=
  (!s.router.up || s.router.linked) &&
    (s.router.up || ((s.router.record .remote).isNone &&
      !s.store.compaction.any (fun k => k.asker.any (fun a => a.1 == .remote))))

/-- The bounds of the router's queues. -/
def State.queuesBounded (s : State) : Bool :=
  s.linkBounded .primary && s.linkBounded .remote && s.remoteConsistent

/-- The ranges of the supply monitor (R160, R164). -/
def State.supplyInRange (s : State) : Bool :=
  decide (1 ≤ s.supply.lambda) && decide (s.supply.lambda ≤ 1000) && decide (5000 ≤ s.supply.vb) &&
    decide (s.supply.vb ≤ 9000) && decide (s.supply.history.length = 8) && decide (1000 ≤ s.supply.limit) &&
    decide (s.supply.limit ≤ 4000)

/-- A motor's output is within its range, and there is none when it is not driven (R26, R40). -/
def Channel.driveInRange (c : Channel) : Bool :=
  decide (-1000 ≤ c.applied) && decide (c.applied ≤ 1000) && (c.drive == .driven || decide (c.applied = 0))

/-- Every motor's output is within its range, and none is driven in CRITICAL or SLEEP (R25, R26). -/
def State.drivesInRange (s : State) : Bool :=
  MotorPort.all.all (fun p => (s.motors.ch.get p).driveInRange && (s.live || (s.motors.ch.get p).drive != .driven))

end Sys2Proof.Machine
end

