-- ==== Sys2Proof/Certificates/Slice0/Obligations.lean ====
section
/-! DEFINITION. The statements about the model. -/

open Sys2Proof Sys2Proof.Machine

/-! ### The queue of commands -/

/-- Log entry 1 (the model's choice of a queue): the command at the front is run on the rest. -/
def Obligations.StepRunsFrontCommand : Prop :=
  ∀ (c : Instr) (rest : List Instr) (s : State), s.pending = c :: rest →
    step s = exec c { s with pending := rest }

/-- Log entry 1 (the model's choice): on an empty queue the first timed event that is due is taken, else a
millisecond passes. R81, R64, R66, R71, R74, R75, R124, R139, R165, R167, R170, R176: in SLEEP that millisecond changes
nothing; else the time base rises by 1, returning to 0 after 4,294,967,295, the timers that run rise by 1, and nothing
else changes. That the wait of a handshake whose ACCEPT is being sent does not rise is the model's choice (log entry
23). -/
def Obligations.EmptyQueueTakesDueEventOrTick : Prop :=
  (∀ s : State, s.pending = [] →
    (∀ c, s.due = some c → step s = exec c s) ∧ (s.due = none → step s = .next s.tick)) ∧
  (∀ s : State, s.supply.power = .sleep → s.tick = s) ∧
  (∀ s : State, s.supply.power ≠ .sleep →
    let t := s.tick
    t.sensors.time.toNat = (if s.sensors.time.toNat = 4294967295 then 0 else s.sensors.time.toNat + 1) ∧
    (∀ b, t.sensors.bank b =
      { s.sensors.bank b with
          clean := if (s.sensors.bank b).state = .on then min 10000 ((s.sensors.bank b).clean + 1)
            else (s.sensors.bank b).clean,
          retry := if (s.sensors.bank b).state = .tripped then min 1000 ((s.sensors.bank b).retry + 1)
            else (s.sensors.bank b).retry }) ∧
    t.sensors.bankRWait = s.sensors.bankRWait.map (fun n => n + 1) ∧
    (∀ p, t.port p =
      { s.port p with
          silence := if ((s.port p).state = .ready ∨ (s.port p).state = .switching) ∧ (s.port p).smart = true
            then (s.port p).silence + 1 else (s.port p).silence,
          errTime := if (s.port p).state = .error then min 500 ((s.port p).errTime + 1) else (s.port p).errTime,
          hs := if (s.port p).state = .handshake
            then (s.port p).hs.map (fun h => { h with wait := if h.stage = .accepting then h.wait else h.wait + 1 })
            else (s.port p).hs }) ∧
    t.sensors.streams = s.sensors.streams ∧ t.sensors.captures = s.sensors.captures ∧
    t.store = { s.store with
      compaction := s.store.compaction.map (fun k => { k with elapsed := k.elapsed + 1 }) } ∧
    t.mixer = { s.mixer with
      rampTimer := if s.mixer.ramping = true then min 4 (s.mixer.rampTimer + 1) else s.mixer.rampTimer } ∧
    (∀ l, t.router.link l = { s.router.link l with
      rx := { (s.router.link l).rx with
        idle := if (s.router.link l).rx.phase = .hunt then (s.router.link l).rx.idle
          else (s.router.link l).rx.idle + 1 } }) ∧
    (∀ l, t.router.record l = s.router.record l) ∧ t.router.windows = s.router.windows ∧
    t.router.up = s.router.up ∧ t.router.linked = s.router.linked ∧ t.router.wait = s.router.wait ∧
    t.router.abortMode = s.router.abortMode ∧ t.router.lossPolicy = s.router.lossPolicy ∧
    t.supply = { s.supply with
      shutdown := s.supply.shutdown.map (fun k => { k with elapsed := k.elapsed + 1 }),
      identDue := s.supply.identDue.map (fun d => { d with elapsed := d.elapsed + 1 }) } ∧
    t.motors = s.motors ∧ t.watch = s.watch ∧ t.pending = s.pending)

/-- Every command completes, and leaves the queue of commands as it is. -/
def Obligations.EveryCommandCompletesAndKeepsTheQueue : Prop :=
  ∀ (c : Instr) (s : State), ∃ t, exec c s = .next t ∧ t.pending = s.pending

/-! ### The router and the receivers -/

/-- R172, R147: an admitted ASK that is not an accepted COMPACT gets one reply with its channel and tag in its
link's reply queue, and nothing else joins a reply queue; a TELL gets none. -/
def Obligations.RequestGetsOneReply : Prop :=
  ∀ (channel : Byte) (h : Handler) (r : Req) (s : State), handlerOf channel = some h →
    s.admits r.link channel = true →
    (r.cls = .ask → channel ≠ 0x47 ∨ s.store.compaction ≠ none →
      ∃ payload, ((s.takeRequest channel h r).router.link r.link).replies =
        (s.router.link r.link).replies ++ [replyFrame channel r.tag payload] ∧
        ((s.takeRequest channel h r).router.link r.link.other).replies = (s.router.link r.link.other).replies) ∧
    (r.cls = .tell → ∀ k, ((s.takeRequest channel h r).router.link k).replies = (s.router.link k).replies)

/-- R152, R146: an ASK to be forwarded opens the record of its direction, or is answered BUSY when it is open; a
TELL opens none. R146: while the remote link is DOWN, an ASK of the host on an application channel is answered
NO_ANSWER whatever the abort mode and opens no record, and a TELL is dropped. -/
def Obligations.ForwardedRequestJoinsFarQueue : Prop :=
  (∀ (f : Frame) (s : State), s.ready .primary = true → 128 ≤ f.channel.toNat → s.router.up = false →
    (f.cls = .ask → ∃ t, exec (.forwardFrame .primary f) s = .next t ∧
      (t.router.link .primary).replies = (s.router.link .primary).replies ++
        [replyFrame f.channel f.tag (Reply.refuse .noAnswer).payload] ∧
      (t.router.link .primary).replyCount = (s.router.link .primary).replyCount + 1 ∧
      t.router.link .remote = s.router.link .remote ∧ (∀ k, t.router.record k = s.router.record k) ∧
      t.motors = s.motors ∧ t.sensors = s.sensors ∧ t.watch = s.watch ∧ t.store = s.store ∧ t.mixer = s.mixer ∧
      t.supply = s.supply) ∧
    (f.cls = .tell → exec (.forwardFrame .primary f) s = .next (s.setRx .primary Receiver.hunting))) ∧
  ∀ (l : Link) (f : Frame) (s : State), s.forwards l f.channel →
    (f.cls = .tell → ∃ t, exec (.forwardFrame l f) s = .next t ∧
      (t.router.link l.other).forward =
        (s.router.link l.other).forward ++ [{ frame := f, entered := s.now }] ∧
      (∀ k, t.router.record k = s.router.record k) ∧
      (t.router.link l).replyCount = (s.router.link l).replyCount) ∧
    (f.cls = .ask → s.router.record l = none → ∃ t, exec (.forwardFrame l f) s = .next t ∧
      (t.router.link l.other).forward =
        (s.router.link l.other).forward ++ [{ frame := f, entered := s.now }] ∧
      t.router.record l = some { channel := f.channel, tag := f.tag, start := s.now,
                                 timer := if s.router.wait = 0 then none else some s.router.wait } ∧
      t.router.record l.other = s.router.record l.other ∧
      (t.router.link l).replies = (s.router.link l).replies ∧
      (t.router.link l).replyCount = (s.router.link l).replyCount + 1) ∧
    (f.cls = .ask → ∀ rec, s.router.record l = some rec → ∃ t, exec (.forwardFrame l f) s = .next t ∧
      (t.router.link l.other).forward = (s.router.link l.other).forward ∧
      t.router.record l = some rec ∧
      (t.router.link l).replies =
        (s.router.link l).replies ++ [replyFrame f.channel f.tag (Reply.refuse .busy).payload] ∧
      (t.router.link l).replyCount = (s.router.link l).replyCount + 1)

/-- R153: a REPLY that matches the record whose far link it comes from closes it and reaches the origin unchanged;
any other REPLY is discarded, as is a NOTICE (R172). -/
def Obligations.ForwardedReplyClosesMatchingRecord : Prop :=
  ∀ (l : Link) (channel tag : Byte) (payload : List Byte) (s : State), s.ready l = true →
    (∀ rec, s.router.record l.other = some rec → rec.channel = channel → rec.tag = tag →
      ∃ t, exec (.forwardedReply l channel tag payload) s = .next t ∧
        t.router.record l.other = none ∧ t.router.record l = s.router.record l ∧
        (t.router.link l.other).replies =
          (s.router.link l.other).replies ++ [replyFrame channel tag payload]) ∧
    ((∀ rec, s.router.record l.other = some rec → ¬ (rec.channel = channel ∧ rec.tag = tag)) →
      exec (.forwardedReply l channel tag payload) s = .next (s.setRx l Receiver.hunting)) ∧
    exec (.inboundNotice l channel tag payload) s = .next (s.setRx l Receiver.hunting)

/-- R144: a system or routing request that a window makes local on the remote link is executed by no block and an ASK
of it answered DENIED; R172: an ASK on a channel to which the catalogue assigns no request is answered UNKNOWN.
That the unassigned channel 0x4F is answered so while a compaction runs too is the model's choice (log entry 40). -/
def Obligations.DeniedAndUnknownRequests : Prop :=
  (∀ (c : ReqClass) (channel tag : Byte) (payload : List Byte) (s : State), s.ready .remote = true →
     systemChannel channel = true → s.router.disposition channel ≠ .forward →
     ∃ t, exec (.systemFrameDenied c channel tag payload) s = .next t ∧
       t.motors = s.motors ∧ t.sensors = s.sensors ∧ t.watch = s.watch ∧ t.store = s.store ∧ t.mixer = s.mixer ∧
       t.supply = s.supply ∧
       (t.router.link .remote).replies = (s.router.link .remote).replies ++
         (if c = .ask then [replyFrame channel tag (Reply.refuse .denied).payload] else [])) ∧
  (∀ (l : Link) (c : ReqClass) (channel tag : Byte) (payload : List Byte) (s : State),
     s.admits l channel = true → handlerOf channel = none →
     ∃ t, exec (.unknownChannel l c channel tag payload) s = .next t ∧
       t.motors = s.motors ∧ t.sensors = s.sensors ∧ t.watch = s.watch ∧ t.store = s.store ∧ t.mixer = s.mixer ∧
       t.supply = s.supply ∧
       (t.router.link l).replies = (s.router.link l).replies ++
         (if c = .ask then [replyFrame channel tag (Reply.refuse .unknown).payload] else []))

/-- R148: where a notice handed to the router for a link goes; a ROUTE_STATUS reply clears the overflow flags it reports
set. The layout of the reply's data is the model's choice (log entry 8). -/
def Obligations.NoticePlacement : Prop :=
  ∀ (l : Link) (n : Notice) (s : State),
    (∀ r : Req, r.cls = .ask → s.admits r.link 0x52 = true → ∃ t, exec (.routeStatus r) s = .next t ∧
      t = State.replied { s.entered 0x52 r with router := (s.entered 0x52 r).router.clearOverflow } 0x52 r
          (.plain .ok (s.entered 0x52 r).routeData) ∧
      ∀ k, (t.router.link k).overflow = false) ∧
    (l = .remote → s.router.up = false → s.notify l n = s) ∧
    ((l = .primary ∨ s.router.up = true) →
      let q := s.router.link l
      let t := (s.notify l n).router.link l
      (q.notices.length < 16 →
        t.notices = q.notices ++ [n.frame q.counter] ∧ t.counter = q.counter + 1 ∧ t.overflow = q.overflow) ∧
      (16 ≤ q.notices.length → (∃ layout, n = .report layout) → t = q) ∧
      (16 ≤ q.notices.length → (∀ layout, n ≠ .report layout) → q.notices.any isReport = true →
        t.notices = removeFirst isReport q.notices ++ [n.frame q.counter] ∧ t.counter = q.counter + 1 ∧
          t.overflow = q.overflow) ∧
      (16 ≤ q.notices.length → (∀ layout, n ≠ .report layout) → q.notices.any isReport = false →
        t.notices = q.notices ∧ t.counter = q.counter ∧ t.overflow = true))

/-- R150: an idle transmitter whose far side is ready sends the oldest reply; without one, of the forward and notice
queues, the one that did not send last, or the one that holds a frame. With the far ready line low, or on the
remote link while it is DOWN, no frame is begun: nothing but the level read and the sending place changes. R165,
R167: 100 ms after the acceptance of SLEEP or RESET its reply is lost: where the sending of it has not begun, the
transmitter no longer begins it. The command is the moment of an idle transmitter (log entry 24, the model's
choice). -/
def Obligations.TransmitterChoosesTheFrame : Prop :=
  (∀ (l : Link) (farReady : Bool) (s : State), s.awake = true →
    farReady = false ∨ (l = .remote ∧ s.router.up = false) →
    ∃ t, exec (.transmitFrame l farReady) s = .next t ∧
      t.router.link l = { s.router.link l with farReady := farReady, sending := none } ∧
      t.router.link l.other = s.router.link l.other ∧ (∀ k, t.router.record k = s.router.record k) ∧
      t.motors = s.motors ∧ t.sensors = s.sensors ∧ t.watch = s.watch ∧ t.store = s.store ∧ t.mixer = s.mixer ∧
      t.supply = s.supply) ∧
  ∀ (l : Link) (s : State), s.awake = true → (l = .primary ∨ s.router.up = true) →
    ∃ t, exec (.transmitFrame l true) s = .next t ∧
      t.motors = s.motors ∧ t.sensors = s.sensors ∧ t.watch = s.watch ∧ t.store = s.store ∧ t.mixer = s.mixer ∧
      t.router.link l.other = s.router.link l.other ∧
      let q := s.router.link l
      let u := t.router.link l
      (∀ f fs k, q.replies = f :: fs → l = .primary → s.supply.shutdown = some k → isShutdownReply k.kind f = true →
        k.begun = false → 100 ≤ k.elapsed →
        u.sending = none ∧ u.replies = q.replies ∧ u.replyCount = q.replyCount ∧ u.forward = q.forward ∧
          u.notices = q.notices ∧ u.last = q.last ∧ t.supply = s.supply) ∧
      (∀ f fs, q.replies = f :: fs →
        (l = .primary → ∀ k, s.supply.shutdown = some k → isShutdownReply k.kind f = true →
          k.begun = true ∨ k.elapsed < 100) →
        (l = .primary → t.supply.shutdown = s.supply.shutdown.map
          (fun k => if isShutdownReply k.kind f = true then { k with begun := true } else k)) ∧
        u.sending = some f ∧ u.replies = fs ∧ u.replyCount = q.replyCount - 1 ∧ u.forward = q.forward ∧
          u.notices = q.notices ∧ u.last = q.last) ∧
      (∀ e es, q.replies = [] → q.forward = e :: es → (q.notices = [] ∨ q.last = .notice) →
        u.sending = some e.frame ∧ u.forward = es ∧ u.notices = q.notices ∧ u.last = .forward) ∧
      (∀ n ns, q.replies = [] → q.notices = n :: ns → (q.forward = [] ∨ q.last = .forward) →
        u.sending = some n ∧ u.notices = ns ∧ u.forward = q.forward ∧ u.last = .notice) ∧
      (q.replies = [] → q.forward = [] → q.notices = [] → u.sending = none)

/-- R149, R154: the oldest entry that has waited 1000 ms leaves its forward queue, FORWARD_DROPPED goes to its
origin, and where it is the ASK of the origin's in-flight record that record is closed and the origin answered,
OK or NO_ANSWER by the abort mode; an entry that is not that ASK leaves record and replies. A record whose wait
time has passed is aborted with its answer; before that neither event changes anything. That an event before its
limit changes nothing is the model's choice (log entry 3), and so is which of several entries is taken as the
record's ASK (log entry 37). -/
def Obligations.ForwardLimitsEndTheWait : Prop :=
  ∀ (l : Link) (s : State), s.awake = true →
    (∀ e es, (s.router.link l).forward = e :: es → 1000 ≤ msSince s.now e.entered →
      ∃ t, exec (.forwardAgeLimit l) s = .next t ∧ (t.router.link l).forward = es ∧
        t.router.record l = s.router.record l ∧ (t.router.link l).replies = (s.router.link l).replies ∧
        (∀ rec, s.router.record l.other = some rec → isAskOf rec e = true → es.any (isAskOf rec) = false →
          t.router.record l.other = none ∧
          (t.router.link l.other).replies = (s.router.link l.other).replies ++
            [replyFrame rec.channel rec.tag
              (Reply.refuse (match s.router.abortMode with | .plain => .ok | .strict => .noAnswer)).payload]) ∧
        ((∀ rec, s.router.record l.other = some rec → isAskOf rec e = false ∨ es.any (isAskOf rec) = true) →
          t.router.record l.other = s.router.record l.other ∧
          (t.router.link l.other).replies = (s.router.link l.other).replies) ∧
        ((l.other = .primary ∨ s.router.up = true) → (s.router.link l.other).notices.length < 16 →
          (t.router.link l.other).notices = (s.router.link l.other).notices ++
            [Notice.frame (.forwardDropped e.frame) (s.router.link l.other).counter])) ∧
    (∀ e es, (s.router.link l).forward = e :: es → msSince s.now e.entered < 1000 →
      exec (.forwardAgeLimit l) s = .next s) ∧
    (∀ rec T, s.router.record l = some rec → rec.timer = some T → T ≤ msSince s.now rec.start →
      ∃ t, exec (.forwardWaitExpiry l) s = .next t ∧ t.router.record l = none ∧
        t.router.record l.other = s.router.record l.other ∧
        (t.router.link l).replies = (s.router.link l).replies ++
          [replyFrame rec.channel rec.tag
            (Reply.refuse (match s.router.abortMode with | .plain => .ok | .strict => .noAnswer)).payload] ∧
        (t.router.link l.other).forward = removeLast (isAskOf rec) (s.router.link l.other).forward) ∧
    (∀ rec T, s.router.record l = some rec → rec.timer = some T → msSince s.now rec.start < T →
      exec (.forwardWaitExpiry l) s = .next s)

/-- R155: LINKED_RISE at a low line makes the remote link UP with its queues empty; LINKED_FALL at a high one makes it
DOWN, empties its queues, drops the tablet's record without an answer, answers the host's, closes the streams to the
tablet and its upload window; REMOTE_BREAK does the same with the link still UP, and while it is DOWN only sets the
receiver to HUNT. A rise of a line that is high and a fall of one that is low change nothing. The SEGMENT_ENDs of the
loss find the emptied queues: DOWN discards those of the tablet. R22, R45: under the loss policy STOP every channel
the tablet holds ends its segments LINK_LOST, from A to F, rests in BRAKE and is unheld. R23: under FINISH such a
channel is marked and runs on; one with nothing to run is released at once. Other channels keep what they run. R156,
R169: a LINK reset empties the primary link's queues, closes both records, answers the tablet's, and places
IDENT_NOTICE with kind LINK and tag 0 as the only primary notice; no block changes but for the store, whose compaction
forgets an asker on the primary link, and a shutdown whose reply the emptied queues held. What a loss leaves of a
channel in OFF or FAULT, that a mark goes with the holder, that a channel marked by an earlier loss is stopped by one
under STOP, that such a shutdown waits for its 100 ms, that a rise of a high line, a fall of a low one and a break
while the link is DOWN change nothing more, and that the compaction forgets its asker, are the model's choices (log
entries 17, 45, 70, 18, 36 and 42). -/
def Obligations.LinkEvents : Prop :=
  (∀ s : State, s.awake = true →
     (s.router.linked = false → ∃ t, exec .linkedRise s = .next t ∧ t.router.up = true ∧ t.router.linked = true ∧
       (t.router.link .remote).rx = Receiver.hunting ∧ (t.router.link .remote).replies = [] ∧
       (t.router.link .remote).replyCount = 0 ∧ (t.router.link .remote).notices = [] ∧
       (t.router.link .remote).counter = 0 ∧ (t.router.link .remote).overflow = false ∧
       (t.router.link .remote).sending = none ∧
       (t.router.link .remote).forward = [] ∧ t.router.primary = s.router.primary ∧
       (∀ k, t.router.record k = s.router.record k) ∧ t.motors = s.motors ∧
       t.store = s.store ∧ t.sensors = s.sensors ∧ t.watch = s.watch ∧ t.mixer = s.mixer ∧ t.supply = s.supply) ∧
     (s.router.linked = true → exec .linkedRise s = .next s) ∧
     (s.router.linked = false → exec .linkedFall s = .next s) ∧
     (s.router.up = false → exec .remoteBreak s = .next { s with router :=
       { s.router with remote := { s.router.remote with rx := Receiver.hunting } } }) ∧
     (∀ c, (c = Instr.linkedFall ∧ s.router.linked = true) ∨ (c = Instr.remoteBreak ∧ s.router.up = true) →
       let lost : List Sent :=
         MotorPort.all.flatMap (fun p =>
           if s.router.lossPolicy = .stop ∧ (s.motors.ch.get p).holder = some .remote
           then (s.motors.ch.get p).endNotices p .linkLost .linkLost else [])
       ∃ t, exec c s = .next t ∧
         (c = Instr.linkedFall → t.router.up = false ∧ t.router.linked = false ∧
           (t.router.link .remote).notices = [] ∧ (t.router.link .remote).counter = 0 ∧
           (t.router.link .remote).overflow = false) ∧
         (c = Instr.remoteBreak → t.router.up = true ∧ t.router.linked = s.router.linked ∧
           ∀ f ∈ (t.router.link .remote).notices, f.channel = 0x61) ∧
         (∃ ns, t.router =
             (Router.loseRemote (if c = Instr.linkedFall then { s.router with linked := false, up := false }
               else s.router)).placeAll (lost ++ ns) ∧
           (s.motors.groups = [] → (∀ p, (s.motors.ch.get p).state ≠ .syncWait) → s.motors.pause ≠ .pausing →
             ns = [])) ∧
         (t.router.link .remote).replies = [] ∧ (t.router.link .remote).replyCount = 0 ∧
         (t.router.link .remote).forward = [] ∧ (t.router.link .remote).rx = Receiver.hunting ∧
         t.router.record .remote = none ∧ t.router.record .primary = none ∧
         (∀ rec, s.router.record .primary = some rec →
           (t.router.link .primary).replies = (s.router.link .primary).replies ++
             [replyFrame rec.channel rec.tag
               (Reply.refuse (match s.router.abortMode with | .plain => .ok | .strict => .noAnswer)).payload]) ∧
         (∀ i x, t.sensors.streams.get i = some x → x.dest = .primary) ∧
         (∀ w, t.store.window = some w → w.owner = .primary) ∧
         t.watch = s.watch ∧ t.mixer = s.mixer ∧ t.supply = s.supply ∧
         t.store.regions = s.store.regions ∧ t.store.mem = s.store.mem ∧
         ∀ p, let e := s.motors.ch.get p
           let d := t.motors.ch.get p
           (s.router.lossPolicy = .stop → e.holder = some .remote →
             d.holder = none ∧ d.lostLink = false ∧ d.current = none ∧ d.queue = [] ∧ d.enc = e.enc ∧
               d.kind = e.kind ∧ d.gains = e.gains ∧ d.policy = e.policy ∧
               (e.state ≠ .off → e.state ≠ .fault →
                 d.state = .idle ∧ d.rest = .brake ∧ d.applied = 0 ∧ d.spd = 0 ∧ d.lastTarget = none) ∧
               (e.state = .off ∨ e.state = .fault → d.state = e.state)) ∧
           (s.router.lossPolicy = .stop → e.holder ≠ some .remote →
             d.current = e.current ∧ d.enc = e.enc ∧ d.kind = e.kind ∧ d.applied = e.applied ∧ d.drive = e.drive ∧
               d.queue.Sublist e.queue ∧
               (s.motors.groups = [] → (∀ q, (s.motors.ch.get q).state ≠ .syncWait) → e.lostLink = false → d = e)) ∧
           (s.router.lossPolicy = .finish → e.holder = some .remote →
             d = (if e.current = none ∧ e.queue = [] then { e with holder := none, lostLink := false }
               else { e with lostLink := true })) ∧
           (s.router.lossPolicy = .finish → e.holder ≠ some .remote → e.lostLink = false → d = e))) ∧
  (∀ s : State, s.awake = true →
     ∃ t, exec .linkReset s = .next t ∧
       (t.router.link .primary).replies = [] ∧ (t.router.link .primary).replyCount = 0 ∧
       (t.router.link .primary).forward = [] ∧ (t.router.link .primary).overflow = false ∧
       (t.router.link .primary).rx = Receiver.hunting ∧ (t.router.link .primary).sending = none ∧
       (t.router.link .primary).notices = [Notice.frame (.ident (s.identLayout .link)) 0] ∧
       t.router.record .primary = none ∧ t.router.record .remote = none ∧
       (∀ rec, s.router.record .remote = some rec →
         (t.router.link .remote).replies = (s.router.link .remote).replies ++
           [replyFrame rec.channel rec.tag
             (Reply.refuse (match s.router.abortMode with | .plain => .ok | .strict => .noAnswer)).payload]) ∧
       (t.router.link .remote).notices = (s.router.link .remote).notices ∧
       t.router.windows = s.router.windows ∧ t.router.wait = s.router.wait ∧
       t.router.abortMode = s.router.abortMode ∧ t.router.lossPolicy = s.router.lossPolicy ∧
       t.router.up = s.router.up ∧ t.motors = s.motors ∧ t.sensors = s.sensors ∧ t.watch = s.watch ∧
       t.mixer = s.mixer ∧
       t.store = { s.store with compaction := s.store.compaction.map (fun k =>
         if k.asker.any (fun a => a.1 == .primary) = true then { k with asker := none } else k) } ∧
       t.supply = { s.supply with shutdown := s.supply.shutdown.map (fun k => { k with begun := false }) })

/-- R169, R170: the bytes of a frame, received in HUNT, hand the router exactly that frame. -/
def Obligations.ReceiverDeliversTheFrameSent : Prop :=
  ∀ (l : Link) (f : Frame) (s : State), s.awake = true → s.rx l = Receiver.hunting → f.payload.length ≤ 240 →
    s.receive l (wireBytes f) = s.takeAny l f

/-- R147: a frame found complete while the ready line toward its link is low is dropped, whatever it is. R170: a
frame whose check does not match, a length above 240, a class above 3, a bad stop bit and 20 ms without a byte
each drop the frame under way, with no other effect. How the dropping rows carry their bytes is the model's
choice (log entries 6 and 7), and so is that a timeout before its time changes nothing (log entry 3). -/
def Obligations.FramesAreDropped : Prop :=
  (∀ (l : Link) (f : Frame) (s : State), s.ready l = false →
     exec (.readyLowDrop l f) s = .next (s.setRx l Receiver.hunting) ∧
     exec (.forwardFrame l f) s = .next (s.setRx l Receiver.hunting) ∧
     (∀ r : Req, r.link = l → exec (.claim r) s = .next (s.setRx l Receiver.hunting))) ∧
  (∀ (l : Link) (s : State), s.awake = true →
     (∀ (f : Frame) (a b : Byte), s.rx l = Receiver.hunting → f.payload.length ≤ 240 →
       [a, b] ≠ leBytes 2 (crc16 (checkedBytes f)).toNat →
       exec (.checkMismatch l (0x5C :: (checkedBytes f ++ [a, b]))) s = .next s) ∧
     (∀ n : Byte, s.rx l = Receiver.hunting → 240 < n.toNat →
       exec (.headerFieldOutOfRange l [0x5C, n]) s = .next s) ∧
     (∀ n c : Byte, s.rx l = Receiver.hunting → n.toNat ≤ 240 → 3 < c.toNat →
       exec (.headerFieldOutOfRange l [0x5C, n, c]) s = .next s) ∧
     exec (.badStopBit l []) s = .next (s.setRx l Receiver.hunting) ∧
     ((s.rx l).phase ≠ .hunt → 20 ≤ (s.rx l).idle →
       exec (.receiverTimeout l) s = .next (s.setRx l Receiver.hunting)) ∧
     ((s.rx l).phase = .hunt ∨ (s.rx l).idle < 20 → exec (.receiverTimeout l) s = .next s))

/-- R144, R145, R147, R172: what the router does with a request it hands to a block: the receiver hunts, an ASK takes
one place of its link's reply queue, a request that a LOCAL_MIRROR window takes is mirrored to the primary link, and
no block is touched; the answer of an ASK is one reply with its channel and tag. -/
def Obligations.AdmittedRequestIsEnteredAndReplied : Prop :=
  ∀ (channel : Byte) (r : Req) (s : State) (y : Reply),
    let e := s.entered channel r
    let t := s.replied channel r y
    (e.router.link r.link).rx = Receiver.hunting ∧
    (e.router.link r.link).replyCount = (s.router.link r.link).replyCount + (if r.cls = .ask then 1 else 0) ∧
    (e.router.link r.link.other).replyCount = (s.router.link r.link.other).replyCount ∧
    (∀ k, (e.router.link k).replies = (s.router.link k).replies ∧
      (e.router.link k).forward = (s.router.link k).forward ∧ e.router.record k = s.router.record k) ∧
    (s.mirrors r.link channel = false → ∀ k, (e.router.link k).notices = (s.router.link k).notices) ∧
    (s.mirrors r.link channel = true → s.router.primary.notices.length < 16 →
      e.router.primary.notices = s.router.primary.notices ++
        [Notice.frame (.mirror (requestFrame channel r)) s.router.primary.counter]) ∧
    (e.motors = s.motors ∧ e.sensors = s.sensors ∧ e.watch = s.watch ∧ e.store = s.store ∧ e.mixer = s.mixer ∧
      e.supply = s.supply ∧ e.pending = s.pending) ∧
    (r.cls = .ask → t = { s with router := s.router.placeReply r.link (replyFrame channel r.tag y.payload) }) ∧
    (r.cls = .tell → t = s)

/-! ### System requests, resets and power -/

/-- R168, R164, R176: SET_TAG writes the brick tag from its four bytes, any other payload being refused LENGTH; IDENT
and POWER_STATUS answer and change no block; SET_BUDGET writes a limit from 1000 to 4000 mA and answers
INVALID(LIMIT) to any other. The numbering of the reply data is the model's choice (log entry 8). -/
def Obligations.SystemRequestsAnswer : Prop :=
  (∀ (r : Req) (s : State), s.admits r.link 0x01 = true →
     (r.payload.length = 4 →
       exec (.setTag r) s = .next (State.replied
         { s.entered 0x01 r with supply := { s.supply with brickTag := BitVec.ofNat 32 (leNat r.payload) } }
         0x01 r Reply.ok)) ∧
     (r.payload.length ≠ 4 →
       exec (.setTag r) s = .next ((s.entered 0x01 r).replied 0x01 r (Reply.refuse .length)))) ∧
  (∀ (r : Req) (s : State),
     (s.admits r.link 0x00 = true →
       exec (.ident r) s =
         .next ((s.entered 0x00 r).replied 0x00 r (.plain .ok (s.identLayout s.supply.lastReset)))) ∧
     (s.admits r.link 0x07 = true →
       exec (.powerStatus r) s = .next ((s.entered 0x07 r).replied 0x07 r (.plain .ok s.supply.statusData))) ∧
     (∀ k, (s.identLayout k).length = 22 ∧ (s.identLayout k).take 3 = [0x20, 0xB6, 0x01] ∧
       leNat (((s.identLayout k).drop 3).take 4) = s.supply.brickTag.toNat ∧
       (s.identLayout k).getD 7 0 = byte (resetKindCode k) ∧
       (s.identLayout k).drop 8 =
         MotorPort.all.map (fun p => byte (motorKindCode (s.motors.ch.get p).kind)) ++
           Num8.all.map (fun p => byte (portStateCode (s.sensors.ports.get p).state)))) ∧
  (∀ (r : Req) (fs : Fields) (n : Nat) (s : State), s.admits r.link 0x08 = true →
     decodeFields r.payload = some fs → natField 1 fs = .val n →
     (1000 ≤ n → n ≤ 4000 →
       exec (.setBudget r) s = .next (State.replied
         { s.entered 0x08 r with supply := { s.supply with limit := n } } 0x08 r
         (.plain .ok (fieldNat 1 2 n ++ fieldNat 2 2 s.supply.lambda)))) ∧
     (n < 1000 ∨ 4000 < n →
       exec (.setBudget r) s = .next ((s.entered 0x08 r).replied 0x08 r (.invalid [.limit]))))

/-- R165, R167: RESET and SLEEP are answered OK and lower both ready lines; nothing else changes. -/
def Obligations.ResetAndSleepLowerTheReadyLines : Prop :=
  ∀ (r : Req) (s : State) (l : Link),
    (s.admits r.link 0x02 = true → ∃ t, exec (.reset r) s = .next t ∧
      t = State.replied { s.entered 0x02 r with
            supply := { s.supply with shutdown := some { kind := .reset, elapsed := 0, begun := false } } }
          0x02 r Reply.ok ∧ t.ready l = false) ∧
    (s.admits r.link 0x03 = true → ∃ t, exec (.sleep r) s = .next t ∧
      t = State.replied { s.entered 0x03 r with
            supply := { s.supply with shutdown := some { kind := .sleep, elapsed := 0, begun := false } } }
          0x03 r Reply.ok ∧ t.ready l = false)

/-- R167, R24, R43, R66, R81, R86, R94, R97, R128, R129, R159 to R161, R164: a SOFT reset, at the end of the reply of
RESET or 100 ms after its acceptance when that reply has not begun. It keeps motor kinds, store bytes, regions,
layouts and the brick tag; it ends streams and captures, empties both links' queues and both in-flight records,
leaves window 0 at 0x10 to 0x4F and windows 1 to 3 without a channel, wait time, abort mode and loss policy at
their reset values and the remote link as the LINKED line stands, and puts the supply monitor in RUN with its
history and V_b from the measurement and its dwell counts 0. That the rows carry the battery measurement is the
model's choice (log entry 29), and so is what they do without an accepted RESET (log entries 3 and 18). -/
def Obligations.SoftResetLeaves : Prop :=
  ∀ (mv : Nat) (s : State),
    (s.waitsFor .reset true = true → exec (.softReset mv) s = .next (s.soft mv)) ∧
    (s.waitsFor .reset false = true → s.shutdownOverdue = true → exec (.resetTimeout mv) s = .next (s.soft mv)) ∧
    (s.waitsFor .reset true = false → exec (.softReset mv) s = .next s) ∧
    let t := s.soft mv
    t.pending = s.pending ∧
    (∀ p, let c := s.motors.ch.get p
      let d := t.motors.ch.get p
      d.kind = c.kind ∧ d.holder = none ∧ d.queue = [] ∧ d.current = none ∧ d.enc = 0 ∧ d.q = 0 ∧ d.spd = 0 ∧
        d.rest = .coast ∧ d.policy = .segmentEnd ∧ d.stallTime = 300 ∧ d.drive = .off ∧ d.applied = 0 ∧
        d.fault = none ∧ d.state = (if c.kind = .none then .off else .idle) ∧ d.gains = c.kind.gains) ∧
    t.motors.pause = .running ∧ t.motors.groups = [] ∧ t.sensors.time = 0 ∧ t.sensors.captures = [] ∧
    (∀ i, t.sensors.streams.get i = none) ∧ (∀ p, (t.sensors.ports.get p).arrival = 0) ∧
    (∀ b, (t.sensors.bank b).trips = 0) ∧ t.watch = WatchUnit.reset ∧ t.mixer = Mixer.reset ∧
    t.store.mem = s.store.mem ∧ t.store.window = none ∧
    t.store.regions.map (fun r => (r.id, r.base, r.length, r.fill, r.layout)) =
      s.store.regions.map (fun r => (r.id, r.base, r.length, r.fill, r.layout)) ∧
    t.supply.power = .run ∧ t.supply.limit = 3000 ∧ t.supply.lambda = 1000 ∧ t.supply.currentSum = 0 ∧
    t.supply.total = 0 ∧ t.supply.history = List.replicate 8 mv ∧ t.supply.lastReset = .soft ∧
    t.supply.brickTag = s.supply.brickTag ∧ t.supply.shutdown = none ∧
    t.router.primary.notices = [Notice.frame (.ident (t.identLayout .soft)) 0] ∧ t.router.primary.replies = [] ∧
    t.router.remote.replies = [] ∧ t.router.wait = 200 ∧ t.router.abortMode = .plain ∧
    t.router.window0 = { base := 0x10, limit := 0x4F, disp := .localMirror } ∧
    (∀ w ∈ [t.router.window1, t.router.window2, t.router.window3], ∀ c : Byte, ¬ (w.base ≤ c ∧ c ≤ w.limit)) ∧
    t.router.lossPolicy = .stop ∧ t.router.linked = s.router.linked ∧ t.router.up = s.router.linked ∧
    t.router.remote.notices = [] ∧
    (∀ k, t.router.record k = none ∧ (t.router.link k).forward = [] ∧ (t.router.link k).replyCount = 0 ∧
      (t.router.link k).overflow = false ∧ (t.router.link k).last = .notice ∧ (t.router.link k).sending = none ∧
      (t.router.link k).rx = Receiver.hunting) ∧
    t.supply.vb = max 5000 (min 9000 mv) ∧ t.supply.toEconomy = 0 ∧ t.supply.toCritical = 0 ∧ t.supply.toRun = 0 ∧
    (∀ b, (t.sensors.bank b).state =
      if (s.sensors.bank b).state = .locked then .on else (s.sensors.bank b).state) ∧
    (s.store.compaction = none → t.store.compaction = none)

/-- R166, R167: POWER_ON puts every block in its first state, and WAKE does so from SLEEP with the brick tag kept;
the battery history is the measurement taken. R176, R66: IDENT_NOTICE goes out 50 ms after its reset with the
reset's kind, and bank R powers up 20 ms after it; before that neither event changes anything. That WAKE outside
SLEEP changes nothing, that the rows carry a measurement, and that a timer's event before its time changes
nothing are the model's choices (log entries 36, 29 and 3). -/
def Obligations.PowerOnWakeAndTheirTimers : Prop :=
  (∀ (mv : Nat) (linked : Bool) (s : State),
     exec (.powerOn mv linked) s = .next { State.reset with
       pending := s.pending, router := Router.reset linked,
       supply := { Supply.reset with history := List.replicate 8 mv, vb := averageOf (List.replicate 8 mv) } } ∧
     (s.supply.power = .sleep → exec (.wake mv) s = .next { State.reset with
       pending := s.pending, router := Router.reset s.router.linked,
       supply := { Supply.reset with
         history := List.replicate 8 mv, vb := averageOf (List.replicate 8 mv), lastReset := .wake,
         brickTag := s.supply.brickTag, identDue := some { kind := .wake, elapsed := 0 } } }) ∧
     (s.supply.power ≠ .sleep → exec (.wake mv) s = .next s)) ∧
  (∀ s : State,
     (∀ d, s.supply.identDue = some d → 50 ≤ d.elapsed →
       exec .identNoticeDue s =
         .next (State.notify { s with supply := { s.supply with identDue := none } } .primary
           (.ident (s.identLayout d.kind)))) ∧
     (∀ d, s.supply.identDue = some d → d.elapsed < 50 → exec .identNoticeDue s = .next s) ∧
     (∀ n, s.sensors.bankRWait = some n → 20 ≤ n → ∃ t, exec .bankRPowerUp s = .next t ∧
       t.sensors.bankRWait = none ∧ t.sensors.bankR.state = .on ∧ t.sensors.bankL = s.sensors.bankL ∧
       (∀ p ∈ BankId.ports .r, (t.port p).state = .probing) ∧ (∀ p ∈ BankId.ports .l, t.port p = s.port p) ∧
       t.motors = s.motors ∧ t.store = s.store ∧ t.mixer = s.mixer ∧ t.supply = s.supply) ∧
     (∀ n, s.sensors.bankRWait = some n → n < 20 → exec .bankRPowerUp s = .next s))

/-- R24, R43, R66, R81, R86, R94, R97, R128, R129, R159 to R161, R164, R167: the values the spec gives for POWER_ON. -/
def Obligations.ResetValues : Prop :=
  let s := State.reset
  (∀ i, s.watch.entries.get i = none) ∧ (∀ i, s.watch.virt.get i = 0) ∧ (∀ p, s.watch.scanEnc.get p = 0) ∧
  s.store.regions = [] ∧ s.store.window = none ∧ s.store.compaction = none ∧
  (∀ a, Memory.read a s.store.mem = 0) ∧
  (∀ v, (s.mixer.voices.get v).state = .free) ∧ s.mixer.volume = 160 ∧ s.mixer.target = 160 ∧
  s.mixer.ramping = false ∧ s.mixer.clipped = false ∧ s.mixer.amp = true ∧ s.mixer.startCounter = 0 ∧
  (∀ l, (s.router.link l).replies = [] ∧ (s.router.link l).notices = [] ∧ (s.router.link l).forward = [] ∧
    (s.router.link l).replyCount = 0 ∧ (s.router.link l).overflow = false ∧ (s.router.link l).last = .notice ∧
    (s.router.link l).counter = 0 ∧ s.rx l = Receiver.hunting ∧ s.router.record l = none) ∧
  (∀ c : Byte, s.router.disposition c = if 0x10 ≤ c.toNat ∧ c.toNat ≤ 0x4F then .localMirror else .forward) ∧
  s.router.wait = 200 ∧ s.router.abortMode = .plain ∧ s.router.lossPolicy = .stop ∧ s.router.up = s.router.linked ∧
  s.supply.power = .run ∧ s.supply.toEconomy = 0 ∧ s.supply.toCritical = 0 ∧ s.supply.toRun = 0 ∧
  s.supply.limit = 3000 ∧ s.supply.lambda = 1000 ∧ s.supply.currentSum = 0 ∧ s.supply.total = 0 ∧
  s.supply.brickTag = 0 ∧ s.supply.lastReset = .powerOn ∧
  (∀ p, (s.motors.ch.get p).kind = .none ∧ (s.motors.ch.get p).state = .off ∧
    (s.motors.ch.get p).holder = none ∧ (s.motors.ch.get p).rest = .coast) ∧
  s.motors.pause = .running ∧ s.sensors.time = 0 ∧ s.sensors.captures = [] ∧
  (∀ i, s.sensors.streams.get i = none) ∧ (s.sensors.bank .l).state = .on ∧ (s.sensors.bank .r).state = .off

/-- R165: the part falls asleep at the end of the reply of SLEEP, or 100 ms after its acceptance when that reply has
not begun: the brick tag is kept, every output is off, both ready lines are low; in SLEEP the clocked events and
the measurements change nothing. What the sleeping part holds beyond the tag is the model's choice (log entry
34), and so is that SLEEP_ENTRY without an accepted SLEEP whose reply is ending changes nothing (log entries 3
and 18). -/
def Obligations.SleepIsEnteredAndStandsStill : Prop :=
  (∀ s : State,
     (s.waitsFor .sleep true = true → exec .sleepEntry s = .next s.asleep) ∧
     (s.waitsFor .sleep false = true → s.shutdownOverdue = true → exec .sleepTimeout s = .next s.asleep) ∧
     (s.waitsFor .sleep true = false → exec .sleepEntry s = .next s) ∧
     s.asleep.supply.power = .sleep ∧ s.asleep.supply.brickTag = s.supply.brickTag ∧
     s.asleep.router.linked = s.router.linked ∧ (∀ l, s.asleep.ready l = false) ∧
     (∀ p, (s.asleep.motors.ch.get p).drive = .off ∧ (s.asleep.motors.ch.get p).applied = 0) ∧
     (∀ b, (s.asleep.sensors.bank b).state = .off) ∧ (∀ p, (s.asleep.port p).state = .unpowered) ∧
     s.asleep.mixer.amp = false ∧ s.asleep.pending = s.pending) ∧
  (∀ (s : State) (c : Instr), s.supply.power = .sleep →
     (c ∈ [Instr.linkReset, .remoteBreak, .watchScan, .compactRegionCopied, .compactComplete, .outputEvent,
         .volumeRampStep] ∨
       (∃ r, c = .controlExpiry r) ∨ (∃ k, c = .motorIdSample k) ∨ (∃ mv, c = .supplyUpdate mv) ∨
       (∃ l f, c = .transmitFrame l f) ∨ (∃ l b, c = .checkMismatch l b) ∨ (∃ p k, c = .portIdMeasure p k) ∨
       (∃ i, c = .streamExpiry i) ∨ (∃ b x, c = .bankCurrentMeasure b x)) →
     exec c s = .next s)

/-- R160, R164: a supply update measures, moves lambda and begins the current sum anew; R161: the dwell counts rise
while V_b is beyond the threshold of their transition (below 6300 and 5600 mV in RUN, above 6600 and below 5600
in ECONOMY, above 6000 in CRITICAL) and else return to 0, and reach their transitions at 100 and 20 updates; with
no transition due nothing else changes. R161, R162, R8, R140: at a transition, of SUPPLY_UPDATE or of
POWER_STATE_CHANGE, POWER_EVENT goes out first, the state changes with its counts at 0; entry into CRITICAL ends
the segments of every channel that has some, POWER, from A to F, leaves it in IDLE with rest action COAST and no
last target, takes every drive, ends the playing voices and switches the amplifier off; entry into ECONOMY ends
voices 3 and 4, and out of CRITICAL shorts the windings of a channel whose rest action BRAKE is in force and
switches the amplifier on; return to RUN ends nothing. POWER_STATE_CHANGE as a command of its own, and that the
return of BRAKE leaves the last target, are the model's reading (log entries 3 and 62); which of two reached
transitions is taken is a free value (log entry 21). -/
def Obligations.SupplyUpdateAndPowerStates : Prop :=
  let entered (s t : State) (vb : Nat) (new : PowerState) : Prop :=
    let still : Prop :=
      s.motors.groups = [] ∧ (∀ p, (s.motors.ch.get p).state ≠ .syncWait) ∧ s.motors.pause ≠ .pausing
    let stops (c : Channel) : Bool :=
      (c.current.isSome || !c.queue.isEmpty) && c.state != .off && c.state != .fault
    let ends (i : VoiceId) : Bool :=
      (s.mixer.voices.get i).playing && (new == .critical || (new == .economy && (i == .n3 || i == .n4)))
    t.supply.power = new ∧ t.supply.toEconomy = 0 ∧ t.supply.toCritical = 0 ∧ t.supply.toRun = 0 ∧ t.supply.vb = vb ∧
    t.sensors = s.sensors ∧ t.store = s.store ∧ t.watch = s.watch ∧
    (s.supply.power = .run → new = .economy ∨ new = .critical) ∧
    (s.supply.power = .economy → new = .run ∨ new = .critical) ∧
    (s.supply.power = .critical → new = .economy) ∧
    (∃ ns, t.router =
      (s.router.place .primary (.powerEvent s.supply.power new vb s.supply.lambda s.now)).placeAll
        ((MotorPort.all.flatMap (fun p =>
            let c := s.motors.ch.get p
            if new = .critical ∧ stops c = true then c.endNotices p .power .power else [])) ++ (ns ++
          Num4.all.flatMap (fun i =>
            if ends i = true then voiceEndNotice s.now i (s.mixer.voices.get i) .power else []))) ∧
      (still ∨ new ≠ .critical → ns = [])) ∧
    (∀ p, let c := s.motors.ch.get p
      let d := t.motors.ch.get p
      (new = .critical → d.drive = .off ∧ d.applied = 0 ∧ d.enc = c.enc ∧ d.kind = c.kind ∧ d.gains = c.gains ∧
        (stops c = true → d.current = none ∧ d.queue = [] ∧ d.state = .idle ∧ d.rest = .coast ∧
          d.q = c.enc * 1000000 ∧ d.spd = 0 ∧ d.lastTarget = none ∧
          d.holder = (if c.lostLink = true then none else c.holder)) ∧
        (stops c = false → c.lostLink = false → c.queue = [] → d = { c with drive := .off, applied := 0 }) ∧
        (c.state = .off ∨ c.state = .fault → d.state = c.state)) ∧
      (new ≠ .critical → d =
        if s.supply.power = .critical ∧ (c.state = .idle ∨ c.state = .held) ∧
          (if c.state = .held then c.heldAction.getD c.rest else c.rest) = .brake
        then { c with drive := .shorted } else c)) ∧
    (∀ i, t.mixer.voices.get i =
      if ends i = true then { s.mixer.voices.get i with state := .free, prior := none } else s.mixer.voices.get i) ∧
    t.mixer.amp = (if new = .critical then false else if s.supply.power = .critical then true else s.mixer.amp) ∧
    t.mixer.output = (if new = .critical then 0 else s.mixer.output) ∧ t.mixer.volume = s.mixer.volume ∧
    (new = .run → t.mixer = s.mixer)
  (∀ (mv : Nat) (s : State), s.supply.power ≠ .sleep → ∃ t, exec (.supplyUpdate mv) s = .next t ∧
     let now := (s.supply.measured mv).counted
     t.supply.history = s.supply.history.drop 1 ++ [mv] ∧ t.supply.vb = averageOf (s.supply.history.drop 1 ++ [mv]) ∧
     5000 ≤ t.supply.vb ∧ t.supply.vb ≤ 9000 ∧
     t.supply.total = s.supply.currentSum / 10 ∧ t.supply.currentSum = 0 ∧
     (s.supply.limit < t.supply.total →
       t.supply.lambda = max 1 (s.supply.lambda * s.supply.limit / t.supply.total)) ∧
     (t.supply.total ≤ s.supply.limit → t.supply.lambda = min 1000 (s.supply.lambda + 50)) ∧
     t.supply.limit = s.supply.limit ∧ t.supply.brickTag = s.supply.brickTag ∧ t.sensors = s.sensors ∧
     t.store = s.store ∧ t.watch = s.watch ∧
     (now.transition = none →
       t.supply.power = s.supply.power ∧ t.motors = s.motors ∧ t.mixer = s.mixer ∧ t.router = s.router ∧
         t.supply.toEconomy = now.toEconomy ∧ t.supply.toCritical = now.toCritical ∧ t.supply.toRun = now.toRun) ∧
     (∀ new, now.transition = some new → entered s t t.supply.vb new)) ∧
  (∀ (s : State) (new : PowerState), s.supply.power ≠ .sleep → s.supply.counted.transition = some new →
     ∃ t, exec .powerStateChange s = .next t ∧ t.supply.lambda = s.supply.lambda ∧ entered s t s.supply.vb new) ∧
  (∀ s : State, s.supply.counted.transition = none → exec .powerStateChange s = .next s) ∧
  (∀ x : Supply,
     let y := x.counted
     y = { x with toEconomy := y.toEconomy, toCritical := y.toCritical, toRun := y.toRun } ∧
     (x.power = .run → y.toEconomy = (if x.vb < 6300 then x.toEconomy + 1 else 0) ∧
       y.toCritical = (if x.vb < 5600 then x.toCritical + 1 else 0) ∧
       (y.transition = none ↔ y.toEconomy < 100 ∧ y.toCritical < 20) ∧
       (y.toCritical < 20 → 100 ≤ y.toEconomy → y.transition = some .economy) ∧
       (20 ≤ y.toCritical → y.toEconomy < 100 → y.transition = some .critical) ∧
       (20 ≤ y.toCritical → 100 ≤ y.toEconomy → y.transition = some .economy ∨ y.transition = some .critical)) ∧
     (x.power = .economy → y.toRun = (if 6600 < x.vb then x.toRun + 1 else 0) ∧
       y.toCritical = (if x.vb < 5600 then x.toCritical + 1 else 0) ∧
       (y.transition = none ↔ y.toRun < 100 ∧ y.toCritical < 20) ∧
       (20 ≤ y.toCritical → y.transition = some .critical) ∧
       (y.toCritical < 20 → 100 ≤ y.toRun → y.transition = some .run)) ∧
     (x.power = .critical → y.toEconomy = (if 6000 < x.vb then x.toEconomy + 1 else 0) ∧
       y.transition = (if 100 ≤ y.toEconomy then some .economy else none)))

/-! ### Motor requests -/

/-- R9: a changing request for a port with no motor is refused NO_MOTOR (SET_POLICY is not), and one for a port held
by the other link is refused HELD; neither has an effect. What follows from a request on the channels (R23, R50
to R53, R58) is nothing when no sync group is open or waits, no channel carries the lost-link mark, and no pause
begins. R50, R52, R53: an event that counts on a member of the one open group breaks it: on every member the
first segment of the group, counted from the head, ends SYNC_BROKEN, the segments before and after it are kept, a
member that waited with it at its head goes to IDLE with rest action HOLD, and the notices follow from A to F; an
event on other ports breaks nothing. That the ports follow from A to F is the model's choice (log entry 56). At
which step a field that fails to read is answered is the model's choice (log entry 10). -/
def Obligations.ChangingRequestNeedsMotorAndHolder : Prop :=
  (∀ (r : Req) (fs : Fields) (p : MotorPort) (s : State), decodeFields r.payload = some fs →
     motorPortField 1 fs = .val p →
     let c := s.motors.ch.get p
     let needMotor : List (Instr × Byte) :=
       [(.queueSegment r, 0x12), (.flush r, 0x13), (.zeroCount r, 0x16), (.clearFault r, 0x18)] ++
         (if (GainFields.read fs).failures = [] then [(.setGains r, 0x14)] else []) ++
         (if (enumField 2 restOfCode fs).need = [] then [(.stopNow r, 0x19)] else [])
     (∀ x ∈ needMotor, s.admits r.link x.2 = true → c.kind = .none →
       exec x.1 s = .next ((s.entered x.2 r).replied x.2 r (Reply.refuse .noMotor))) ∧
     (∀ x ∈ needMotor, s.admits r.link x.2 = true → c.kind ≠ .none → c.holder = some r.link.other →
       exec x.1 s = .next ((s.entered x.2 r).replied x.2 r (Reply.refuse .held))) ∧
     (s.admits r.link 0x15 = true → c.holder = some r.link.other →
       exec (.setPolicy r) s = .next ((s.entered 0x15 r).replied 0x15 r (Reply.refuse .held)))) ∧
  (∀ (m : Motors) (ps : List MotorPort), m.groups = [] → (∀ p, (m.ch.get p).state ≠ .syncWait) →
     (∀ p, (m.ch.get p).lostLink = false) → m.pause ≠ .pausing → m.conclude ps = (m, [])) ∧
  (∀ (m : Motors) (ps : List MotorPort) (g : Group), m.groups = [g] → (∀ q, (m.ch.get q).lostLink = false) →
     (∀ q, (m.ch.get q).state = .syncWait → ∃ h rest, (m.ch.get q).queue = h :: rest ∧ h.group = g) →
     m.pause ≠ .pausing →
     ((∃ p ∈ ps, p ∈ g.members) →
       (m.conclude ps).1.groups = [] ∧
       (m.conclude ps).2 = MotorPort.all.flatMap (fun q =>
         if q ∈ g.members then
           match (m.ch.get q).queue.find? (fun x => x.group == g) with
           | some x => segmentEnd q x .syncBroken (m.ch.get q).enc none ((m.ch.get q).queue.length - 1)
           | none => []
         else []) ∧
       ∀ q, let c := m.ch.get q
         let d := (m.conclude ps).1.ch.get q
         (q ∉ g.members ∨ (∀ x ∈ c.queue, x.group ≠ g) → d = c) ∧
         (∀ front x back, q ∈ g.members → c.queue = front ++ x :: back → (∀ y ∈ front, y.group ≠ g) → x.group = g →
           d.queue = front ++ back ∧ d.current = c.current ∧ d.enc = c.enc ∧ d.q = c.q ∧ d.spd = c.spd ∧
             d.phase = c.phase ∧ d.holder = c.holder ∧ d.applied = c.applied ∧ d.drive = c.drive ∧
             (front = [] → c.state = .syncWait ∨ (c.state = .held ∧ c.resume = some .syncWait) →
               d.state = .idle ∧ d.rest = .hold ∧ d.resume = none ∧ d.heldAction = none) ∧
             (front ≠ [] ∨ (c.state ≠ .syncWait ∧ c.state ≠ .held) → d.state = c.state ∧ d.rest = c.rest))) ∧
     ((∀ p ∈ ps, p ∉ g.members) → m.conclude ps = (m, [])))

/-- R10, R11: CLAIM takes its ports in the order listed. An unheld port is granted; a port the requester holds stays
as it is, its lost-link mark cleared; the host seizes a port of the tablet, whose segments end SEIZED and which
rests in BRAKE; the tablet is refused a port of the host. The reply is HELD when a port was refused, else OK,
with the three sets. The ports are taken one by one, each on the channel that those before it leave: where no port
is listed twice, every listed channel is the one its own step gives, in its own state before the request, the notices
follow in the order listed, and no other channel changes. A set of the reply holds exactly the ports with its outcome.
What a seize leaves of a channel in OFF or FAULT, and that the sets are listed from A to F without repeats, are the
model's choices (log entries 17 and 50). -/
def Obligations.ClaimGrantsSeizesOrRefuses : Prop :=
  (∀ (f : MotorPort → Channel → Channel × List Sent × PortOutcome) (p : MotorPort) (ps : List MotorPort) (m : Motors),
    Motors.takePorts f [] m = (m, [], []) ∧
    (let x := f p (m.ch.get p)
     let y := Motors.takePorts f ps { m with ch := m.ch.set p x.1 }
     Motors.takePorts f (p :: ps) m = (y.1, x.2.1 ++ y.2.1, (p, x.2.2) :: y.2.2)) ∧
    (ps.Nodup →
      let y := Motors.takePorts f ps m
      y.2.1 = ps.flatMap (fun q => (f q (m.ch.get q)).2.1) ∧
      y.2.2 = ps.map (fun q => (q, (f q (m.ch.get q)).2.2)) ∧
      y.1.pause = m.pause ∧ y.1.groups = m.groups ∧
      ∀ q, y.1.ch.get q = if q ∈ ps then (f q (m.ch.get q)).1 else m.ch.get q)) ∧
  (∀ (os : List PortOutcome) (xs : List (MotorPort × PortOutcome)),
    (portsWith os xs).Sublist [MotorPort.a, .b, .c, .d, .e, .f] ∧
    ∀ p, p ∈ portsWith os xs ↔ ∃ o ∈ os, (p, o) ∈ xs) ∧
  ∀ (r : Req) (fs : Fields) (ps : List MotorPort) (s : State), s.admits r.link 0x10 = true →
    decodeFields r.payload = some fs → motorPortsField 1 fs = .val ps →
    let x := Motors.takePorts (Channel.claim s.live r.link) ps s.motors
    let seized := portsWith [.seized] x.2.2
    let y := x.1.conclude seized
    exec (.claim r) s = .next (((s.entered 0x10 r).withMotors (y.1, x.2.1 ++ (y.2 ++ seizedNotice seized))).replied
      0x10 r (.plain (if x.2.2.any (fun z => z.2 == .refused) then .held else .ok)
        (field 1 (portBytes (portsWith [.granted] x.2.2)) ++ field 2 (portBytes seized) ++
          field 3 (portBytes (portsWith [.refused] x.2.2))))) ∧
    (∀ (p : MotorPort) (c : Channel), c.holder = none ∨ c.holder = some r.link →
      Channel.claim s.live r.link p c = ({ c with holder := some r.link, lostLink := false }, [], .granted)) ∧
    (∀ (p : MotorPort) (c : Channel), r.link = .remote → c.holder = some .primary →
      Channel.claim s.live r.link p c = (c, [], .refused)) ∧
    (∀ (p : MotorPort) (c : Channel), r.link = .primary → c.holder = some .remote →
      let d := (Channel.claim s.live r.link p c).1
      (Channel.claim s.live r.link p c).2 = (c.endNotices p .seized .seized, .seized) ∧
        d.holder = some .primary ∧ d.lostLink = false ∧ d.current = none ∧ d.queue = [] ∧
        (c.state ≠ .off → c.state ≠ .fault → d.state = .idle ∧ d.rest = .brake ∧ d.applied = 0) ∧
        (c.state = .off ∨ c.state = .fault → d.state = c.state) ∧ d.enc = c.enc ∧ d.kind = c.kind ∧
        d.gains = c.gains ∧ d.policy = c.policy)

/-- R12: RELEASE takes its ports in the order listed: a port the requester holds loses its segments, CANCELLED, rests
in COAST and is unheld; an unheld port is left as it is; a port of the other link is refused. How the ports are taken
one after another and which ports each set holds is stated in ClaimGrantsSeizesOrRefuses. What a release leaves of a
channel in OFF or FAULT, and that the sets are listed from A to F without repeats, are the model's choices (log
entries 17 and 50). -/
def Obligations.ReleaseEndsAndFreesThePort : Prop :=
  ∀ (r : Req) (fs : Fields) (ps : List MotorPort) (s : State), s.admits r.link 0x11 = true →
    decodeFields r.payload = some fs → motorPortsField 1 fs = .val ps →
    let x := Motors.takePorts (Channel.release s.live r.link) ps s.motors
    let y := x.1.conclude (portsWith [.seized] x.2.2)
    exec (.release r) s = .next (((s.entered 0x11 r).withMotors (y.1, x.2.1 ++ y.2)).replied
      0x11 r (.plain (if x.2.2.any (fun z => z.2 == .refused) then .held else .ok)
        (field 1 (portBytes (portsWith [.granted, .seized] x.2.2)) ++
          field 2 (portBytes (portsWith [.refused] x.2.2))))) ∧
    (∀ (p : MotorPort) (c : Channel), c.holder = none →
      Channel.release s.live r.link p c = (c, [], .granted)) ∧
    (∀ (p : MotorPort) (c : Channel), c.holder = some r.link.other →
      Channel.release s.live r.link p c = (c, [], .refused)) ∧
    (∀ (p : MotorPort) (c : Channel), c.holder = some r.link →
      let d := (Channel.release s.live r.link p c).1
      (Channel.release s.live r.link p c).2.1 = c.endNotices p .cancelled .cancelled ∧
        d.holder = none ∧ d.lostLink = false ∧ d.current = none ∧ d.queue = [] ∧ d.rest = .coast ∧
        (c.state ≠ .off → c.state ≠ .fault → d.state = .idle ∧ d.applied = 0 ∧ d.drive = .off ∧
          d.lastTarget = none) ∧
        (c.state = .off ∨ c.state = .fault → d.state = c.state) ∧ d.enc = c.enc ∧ d.kind = c.kind)

/-- R13 to R15: QUEUE_SEGMENT after its NO_MOTOR and HELD checks: FAULT, POWER and FULL in that order, then INVALID
with every failed check; otherwise the segment joins the tail with its cruise speed held within the motor's limit
(1200 dps SMALL and 900 LARGE, in ECONOMY 840 and 630), in either direction, and the port is the requester's. Each
check of R14 fails exactly outside its range, and a field that the kind does not use is ignored. 1.3, 11.5: the fields
are read by their numbers; the segment carries the value of each field that is there, and the defaults of 1.3 for the
others (acceleration 4000, deceleration the acceleration, tolerance 2, settle count 20, settle limit 1000, end action
BRAKE, sync tag 0, notify yes, requester tag 0); its origin is the requesting link. MISSING_FIELD is among the failed
checks exactly when the kind or a field that it requires is absent, or the member set beside a sync tag that is not 0.
The codes and the order of the collected field failures, and the default that SETTLE_ORDER takes for an absent field,
are the model's choice (log entries 10, 11 and 12). -/
def Obligations.QueueSegmentJoinsTheQueue : Prop :=
  (∀ (r : Req) (fs : Fields) (p : MotorPort) (s : State), s.admits r.link 0x12 = true →
     decodeFields r.payload = some fs → motorPortField 1 fs = .val p →
     let c := s.motors.ch.get p
     let x := (SegmentFields.read fs).used
     let bad := x.failures ++ x.checks s.motors r.link p
     let g := x.segment r.link
     let kept := keptCruise s.supply.power c.kind g.cruise
     c.kind ≠ .none → c.holder ≠ some r.link.other →
     (c.state = .fault →
       exec (.queueSegment r) s = .next ((s.entered 0x12 r).replied 0x12 r (Reply.refuse .fault))) ∧
     (c.state ≠ .fault → s.supply.power = .critical →
       exec (.queueSegment r) s = .next ((s.entered 0x12 r).replied 0x12 r (Reply.refuse .power))) ∧
     (c.state ≠ .fault → s.supply.power ≠ .critical → 8 ≤ c.queue.length →
       exec (.queueSegment r) s = .next ((s.entered 0x12 r).replied 0x12 r (Reply.refuse .full))) ∧
     (c.state ≠ .fault → s.supply.power ≠ .critical → c.queue.length < 8 → bad ≠ [] →
       exec (.queueSegment r) s = .next ((s.entered 0x12 r).replied 0x12 r (.invalid bad))) ∧
     (c.state ≠ .fault → s.supply.power ≠ .critical → c.queue.length < 8 → bad = [] →
       exec (.queueSegment r) s = .next (s.changed 0x12 r p
         { c with queue := c.queue ++ [{ g with cruise := kept }], holder := some r.link, lostLink := false } [] []
         (if kept = g.cruise then .plain .ok (fieldNat 1 1 (c.queue.length + 1))
           else .clamped [5] (fieldNat 1 1 (c.queue.length + 1) ++ fieldInt 2 2 kept))))) ∧
  (∀ (x : SegmentFields) (m : Motors) (l : Link) (p : MotorPort),
     (∀ d, x.duty = .val d → (Check.dutyRange ∈ x.checks m l p ↔ d < -1000 ∨ 1000 < d)) ∧
     (∀ d, x.duration = .val d → (Check.durationRange ∈ x.checks m l p ↔ d < 1 ∨ 600000 < d)) ∧
     (∀ a, x.accel = .val a → (Check.accelRange ∈ x.checks m l p ↔ a < 100 ∨ 20000 < a)) ∧
     (∀ a, x.decel = .val a → (Check.decelRange ∈ x.checks m l p ↔ a < 100 ∨ 20000 < a)) ∧
     (∀ c, x.cruise = .val c → x.kind = .val .moveTo →
       (Check.speedRange ∈ x.checks m l p ↔ c < 1 ∨ 2000 < c)) ∧
     (∀ c, x.cruise = .val c → x.kind = .val .speed →
       (Check.speedRange ∈ x.checks m l p ↔ c = 0 ∨ c < -2000 ∨ 2000 < c)) ∧
     (∀ c, x.cruise = .val c → x.kind = .val .moveBy →
       (Check.speedRange ∈ x.checks m l p ↔ c < 1 ∨ 2000 < c)) ∧
     (∀ g, x.target = .val g → x.distance = .absent →
       (Check.targetRange ∈ x.checks m l p ↔ g < -1000000 ∨ 1000000 < g)) ∧
     (∀ d, x.distance = .val d → x.target = .absent →
       (Check.targetRange ∈ x.checks m l p ↔ d = 0 ∨ d < -1000000 ∨ 1000000 < d)) ∧
     (Check.toleranceRange ∈ x.checks m l p ↔ (∃ n, x.tolerance = .val n ∧ 30 < n) ∨
       (∃ n, x.settleCount = .val n ∧ (n < 1 ∨ 255 < n)) ∨ ∃ n, x.settleLimit = .val n ∧ (n < 10 ∨ 5000 < n)) ∧
     (Check.settleOrder ∈ x.checks m l p ↔
       (∃ a b, x.settleCount = .val a ∧ x.settleLimit = .val b ∧ b < a) ∨
       (∃ a, x.settleCount = .val a ∧ x.settleLimit = .absent ∧ 1000 < a) ∨
       (∃ b, x.settleCount = .absent ∧ x.settleLimit = .val b ∧ b < 20)) ∧
     (Check.syncMask ∈ x.checks m l p ↔ (∃ n, x.syncTag = .val n ∧ 7 < n) ∨
       ∃ ps, x.members = .val ps ∧ (p ∉ ps ∨ ∃ q ∈ ps, (m.ch.get q).kind = .none ∨
         (q ≠ p ∧ (m.ch.get q).holder ≠ some l))) ∧
     (∀ k, x.kind = .val k →
       let y := x.used
       y.kind = x.kind ∧ y.duty = (if k = .duty then x.duty else .absent) ∧
       y.duration = (if k = .duty ∨ k = .speed then x.duration else .absent) ∧
       y.cruise = (if k = .speed ∨ k = .moveTo ∨ k = .moveBy then x.cruise else .absent) ∧
       y.accel = (if k = .speed ∨ k = .moveTo ∨ k = .moveBy then x.accel else .absent) ∧
       y.decel = (if k = .speed ∨ k = .moveTo ∨ k = .moveBy then x.decel else .absent) ∧
       y.endAction = x.endAction ∧ y.notify = x.notify ∧ y.reqTag = x.reqTag ∧
       y.target = (if k = .moveTo then x.target else .absent) ∧
       y.distance = (if k = .moveBy then x.distance else .absent) ∧
       y.tolerance = (if k = .moveTo ∨ k = .moveBy then x.tolerance else .absent) ∧
       y.settleCount = (if k = .moveTo ∨ k = .moveBy then x.settleCount else .absent) ∧
       y.settleLimit = (if k = .moveTo ∨ k = .moveBy then x.settleLimit else .absent) ∧ y.syncTag = x.syncTag ∧
       (x.syncTag = .absent ∨ x.syncTag = .val 0 → y.members = .absent) ∧
       (∀ n, x.syncTag = .val n → n ≠ 0 → y.members = x.members))) ∧
  (∀ (x : SegmentFields) (l : Link),
     let g := x.segment l
     (∀ k, x.kind = .val k → g.kind = k) ∧ (∀ d, x.duty = .val d → g.duty = d) ∧
     (∀ n, x.duration = .val n → g.duration = n) ∧ (∀ c, x.cruise = .val c → g.cruise = c) ∧
     (∀ a, x.accel = .val a → g.accel = a) ∧ (x.accel = .absent → g.accel = 4000) ∧
     (∀ b, x.decel = .val b → g.decel = b) ∧ (x.decel = .absent → g.decel = g.accel) ∧
     (∀ a, x.target = .val a → g.target = a) ∧ (∀ d, x.distance = .val d → g.distance = d) ∧
     (∀ n, x.tolerance = .val n → g.tolerance = n) ∧ (x.tolerance = .absent → g.tolerance = 2) ∧
     (∀ n, x.settleCount = .val n → g.settleCount = n) ∧ (x.settleCount = .absent → g.settleCount = 20) ∧
     (∀ n, x.settleLimit = .val n → g.settleLimit = n) ∧ (x.settleLimit = .absent → g.settleLimit = 1000) ∧
     (∀ a, x.endAction = .val a → g.endAction = a) ∧ (x.endAction = .absent → g.endAction = .brake) ∧
     (∀ n, x.syncTag = .val n → g.syncTag = n) ∧ (x.syncTag = .absent → g.syncTag = 0) ∧
     (∀ ps, x.members = .val ps → g.members = MotorPort.all.filter (fun p => ps.contains p)) ∧
     (∀ b, x.notify = .val b → g.notify = b) ∧ (x.notify = .absent → g.notify = true) ∧
     (∀ n, x.reqTag = .val n → g.reqTag = n) ∧ (x.reqTag = .absent → g.reqTag = 0) ∧ g.origin = l) ∧
  (∀ (fs : Fields) (m : Motors) (l : Link) (p : MotorPort),
     let x := SegmentFields.read fs
     x.kind = enumField 2 segKindOfCode fs ∧ x.duty = intField 3 fs ∧ x.duration = natField 4 fs ∧
     x.cruise = intField 5 fs ∧ x.accel = natField 6 fs ∧ x.decel = natField 7 fs ∧ x.target = intField 8 fs ∧
     x.distance = intField 9 fs ∧ x.tolerance = natField 10 fs ∧ x.settleCount = natField 11 fs ∧
     x.settleLimit = natField 12 fs ∧ x.endAction = enumField 13 restOfCode fs ∧ x.syncTag = natField 14 fs ∧
     x.members = motorPortsField 15 fs ∧ x.notify = flagField 16 fs ∧ x.reqTag = natFieldIn 17 0 65535 fs ∧
     (Check.missingField ∈ x.used.failures ++ x.used.checks m l p ↔
       fieldValue 2 fs = none ∨
       (∃ k, x.kind = .val k ∧
         ((k = .duty ∧ fieldValue 3 fs = none) ∨ ((k = .duty ∨ k = .speed) ∧ fieldValue 4 fs = none) ∨
           ((k = .speed ∨ k = .moveTo ∨ k = .moveBy) ∧ fieldValue 5 fs = none) ∨
           (k = .moveTo ∧ fieldValue 8 fs = none) ∨ (k = .moveBy ∧ fieldValue 9 fs = none))) ∨
       ((∃ n, natField 14 fs = .val n ∧ n ≠ 0) ∧ fieldValue 15 fs = none))) ∧
  (∀ (power : PowerState) (kind : MotorKind) (c : Int), kind ≠ .none →
     let limit : Int :=
       match kind, power with | .large, .economy => 630 | .large, _ => 900 | _, .economy => 840 | _, _ => 1200
     (limit < c → keptCruise power kind c = limit) ∧ (c < -limit → keptCruise power kind c = -limit) ∧
     (-limit ≤ c → c ≤ limit → keptCruise power kind c = c))

/-- R16, R17: FLUSH ends the queued segments CANCELLED and leaves the current one; STOP_NOW ends them all, its action
becoming the rest action in force. Both count as a flush for R52 and carry the number of segments ended. R49:
CLEAR_FAULT takes a channel out of FAULT to IDLE with rest action COAST; on any other state it only claims. R21:
MOTOR_STATUS answers with the channel's record and changes nothing. The layout of the status data is the model's
choice (log entry 8). -/
def Obligations.StopFlushFaultAndStatusRequests : Prop :=
  (∀ (r : Req) (fs : Fields) (p : MotorPort) (s : State), decodeFields r.payload = some fs →
     motorPortField 1 fs = .val p →
     let c := s.motors.ch.get p
     c.kind ≠ .none → c.holder ≠ some r.link.other →
     (s.admits r.link 0x13 = true → ∃ d, exec (.flush r) s = .next (s.changed 0x13 r p d
         (c.queue.flatMap (fun g => segmentEnd p g .cancelled c.enc none 0)) [p]
         (.plain .ok (fieldNat 1 1 c.queue.length))) ∧
       d.queue = [] ∧ d.current = c.current ∧ d.holder = some r.link ∧ d.lostLink = false ∧
       d.lastTarget = c.lastTarget ∧ d.rest = c.rest ∧ d.enc = c.enc ∧ d.q = c.q ∧ d.spd = c.spd ∧
       d.applied = c.applied ∧ d.drive = c.drive ∧ d.gains = c.gains ∧
       d.state = (if c.state = .syncWait ∨ (c.state = .held ∧ c.current = none) then .idle else c.state)) ∧
     (s.admits r.link 0x19 = true → ∀ a, enumField 2 restOfCode fs = .val a →
       (c.state = .fault →
         exec (.stopNow r) s = .next ((s.entered 0x19 r).replied 0x19 r (Reply.refuse .fault))) ∧
       (c.state ≠ .fault → ∃ d, exec (.stopNow r) s = .next (s.changed 0x19 r p d
           (c.endNotices p .cancelled .cancelled) [p]
           (.plain .ok (fieldNat 1 1 ((if c.current.isSome then 1 else 0) + c.queue.length)))) ∧
         d.queue = [] ∧ d.current = none ∧ d.state = .idle ∧ d.rest = a ∧ d.holder = some r.link ∧
         d.enc = c.enc ∧ d.gains = c.gains ∧
         (a ≠ .hold → d.spd = 0 ∧ d.applied = 0 ∧ d.lastTarget = none ∧ d.q = c.enc * 1000000) ∧
         (a = .hold → d.q = c.q ∧ d.spd = c.spd ∧ d.phase = (if c.spd = 0 then .holding else .stopping))))) ∧
  (∀ (r : Req) (fs : Fields) (p : MotorPort) (s : State), decodeFields r.payload = some fs →
     motorPortField 1 fs = .val p →
     let c := s.motors.ch.get p
     (s.admits r.link 0x18 = true → c.kind ≠ .none → c.holder ≠ some r.link.other → c.state = .fault →
       ∃ d, exec (.clearFault r) s = .next (s.changed 0x18 r p d [] [] Reply.ok) ∧
         d.state = .idle ∧ d.fault = none ∧ d.overCount = 0 ∧ d.rest = .coast ∧ d.lastTarget = none ∧
         d.applied = 0 ∧ d.drive = .off ∧ d.holder = some r.link ∧ d.enc = c.enc ∧ d.kind = c.kind ∧
         d.gains = c.gains) ∧
     (s.admits r.link 0x18 = true → c.kind ≠ .none → c.holder ≠ some r.link.other → c.state ≠ .fault →
       exec (.clearFault r) s = .next (s.changed 0x18 r p
         { c with holder := some r.link, lostLink := false } [] [] Reply.ok)) ∧
     (s.admits r.link 0x17 = true →
       exec (.motorStatus r) s = .next ((s.entered 0x17 r).replied 0x17 r (.plain .ok c.statusData))))

/-- R18: ZERO_COUNT on a channel in IDLE with S = 0 sets E, q and I to 0 and removes the last target, the rest action
kept; in any other state, or still STOPPING, it is refused BUSY. A later MOVE_BY starts from 0. -/
def Obligations.ZeroCountRedefinesTheZeroAngle : Prop :=
  ∀ (r : Req) (fs : Fields) (p : MotorPort) (s : State), s.admits r.link 0x16 = true →
    decodeFields r.payload = some fs → motorPortField 1 fs = .val p →
    let c := s.motors.ch.get p
    c.kind ≠ .none → c.holder ≠ some r.link.other →
    let d : Channel :=
      { c with enc := 0, q := 0, integ := 0, lastTarget := none, holder := some r.link, lostLink := false }
    (c.state = .idle → c.spd = 0 → c.phase ≠ .stopping →
      exec (.zeroCount r) s = .next (State.changed
        { s with watch := { s.watch with scanEnc := s.watch.scanEnc.set p 0 } } 0x16 r p d [] [] Reply.ok)) ∧
    (c.state ≠ .idle ∨ c.spd ≠ 0 ∨ c.phase = .stopping →
      exec (.zeroCount r) s = .next ((s.entered 0x16 r).replied 0x16 r (Reply.refuse .busy))) ∧
    (∀ distance, moveByTarget d.lastTarget d.q distance = clamp (-1000000) 1000000 distance)

/-- R19: SET_GAINS writes the gains it carries, each held within its range and reported CLAMPED when it was not, and
holds I within the new I_limit; the defaults flag writes the motor kind's gains. R20: SET_POLICY writes the hold
policy and the stall time it carries; a stall time outside 50 to 2000 is INVALID(STALL_RANGE), and a hold policy
during a pause BUSY. That SET_POLICY with neither field answers OK, and that a CLAMPED reply of SET_GAINS carries
all four gains as fields 1 to 4, are the model's choices (log entries 27 and 8). -/
def Obligations.GainsAndPolicyAreWritten : Prop :=
  (∀ (r : Req) (fs : Fields) (p : MotorPort) (s : State), s.admits r.link 0x14 = true →
     decodeFields r.payload = some fs → motorPortField 1 fs = .val p →
     let c := s.motors.ch.get p
     let x := GainFields.read fs
     c.kind ≠ .none → c.holder ≠ some r.link.other →
     (x.defaults = .val true →
       exec (.setGains r) s = .next (s.changed 0x14 r p
         { c with gains := c.kind.gains, holder := some r.link, lostLink := false,
                  integ := clamp (-(c.kind.gains.iLimit : Int)) c.kind.gains.iLimit c.integ } [] [] Reply.ok)) ∧
     (x.defaults = .absent ∨ x.defaults = .val false → x.failures = [] →
       let gain (hi old : Nat) (v : Val Nat) : Nat := match v with | .val n => min hi n | _ => old
       let cut (k hi : Nat) (v : Val Nat) : List Nat :=
         match v with | .val n => (if n ≤ hi then [] else [k]) | _ => []
       let g : Gains := { kp := gain 4095 c.gains.kp x.kp, ki := gain 4095 c.gains.ki x.ki,
                          kf := gain 4095 c.gains.kf x.kf, iLimit := gain 1000000 c.gains.iLimit x.iLimit }
       let names := cut 2 4095 x.kp ++ cut 3 4095 x.ki ++ cut 4 4095 x.kf ++ cut 5 1000000 x.iLimit
       exec (.setGains r) s = .next (s.changed 0x14 r p
         { c with gains := g, holder := some r.link, lostLink := false,
                  integ := clamp (-(g.iLimit : Int)) g.iLimit c.integ } [] []
         (if names = [] then Reply.ok
           else .clamped names
             (fieldNat 1 2 g.kp ++ fieldNat 2 2 g.ki ++ fieldNat 3 2 g.kf ++ fieldNat 4 4 g.iLimit)))) ∧
     (x.defaults ≠ .val true → x.failures ≠ [] →
       exec (.setGains r) s = .next ((s.entered 0x14 r).replied 0x14 r (.invalid x.failures)))) ∧
  (∀ (r : Req) (fs : Fields) (p : MotorPort) (policy : Val HoldPolicy) (stall : Val Nat) (s : State),
     s.admits r.link 0x15 = true → decodeFields r.payload = some fs → motorPortField 1 fs = .val p →
     enumFieldAs .policy 2 policyOfCode fs = policy → natField 3 fs = stall →
     let c := s.motors.ch.get p
     policy.fails = [] → stall.fails = [] → c.holder ≠ some r.link.other →
     ((∀ n, stall = .val n → 50 ≤ n ∧ n ≤ 2000) → (s.motors.pause = .running ∨ policy = .absent) →
       exec (.setPolicy r) s = .next (s.changed 0x15 r p
         { c with policy := policy.get?.getD c.policy, stallTime := stall.get?.getD c.stallTime,
                  holder := some r.link, lostLink := false } [] [] Reply.ok)) ∧
     ((∀ n, stall = .val n → 50 ≤ n ∧ n ≤ 2000) → s.motors.pause ≠ .running → (∃ h, policy = .val h) →
       exec (.setPolicy r) s = .next ((s.entered 0x15 r).replied 0x15 r (Reply.refuse .busy))) ∧
     (∀ n, stall = .val n → n < 50 ∨ 2000 < n →
       exec (.setPolicy r) s = .next ((s.entered 0x15 r).replied 0x15 r (.invalid [.stallRange]))))

/-- R55, R57, R62: PAUSE in RUNNING sets every channel up by its hold policy: FREE not at all; SEGMENT_END takes a
channel at the barrier to HELD; QUEUE_END allows the segments then queued; IMMEDIATE takes a channel that runs or
settles to HELD with its current segment, stopping at that segment's deceleration (a STOP at the rate it had),
and one at the barrier as it is; no other channel changes. It freezes the voices whose free flag is clear, and
enters PAUSING, or PAUSED when every channel is at rest: under FREE, or in HELD, IDLE, OFF or FAULT with no phase
STOPPING and no step mark (R58); during a pause it only answers. R60: RESUME ends
the pause and both effects: a held channel goes back to its resume state, a run or a settling from rest with q
kept, and the pause fields are cleared in every channel. R59: STEP in PAUSED lets every SEGMENT_END channel that
is held at a boundary with a queued segment run one segment; with none it changes nothing; outside PAUSED it is
refused BUSY. R58: each change of the pause state hands PAUSE_STATE to the host with the ports then in HELD,
before the reply, and the router changes by that notice and the reply alone. What STEP clears of a stepped
channel, the phase HOLDING of a channel resumed to RUNNING, and the order A to F of the ports that a PAUSE_STATE
or a STEP reply lists are the model's choices (log entries 33, 49 and 50). -/
def Obligations.PauseResumeAndStep : Prop :=
  let held (t : State) : List MotorPort := MotorPort.all.filter (fun p => (t.motors.ch.get p).state == .held)
  let atRest (c : Channel) : Bool :=
    decide (c.policy = .free ∨
      ((c.state = .held ∨ c.state = .idle ∨ c.state = .off ∨ c.state = .fault) ∧ c.phase ≠ .stopping ∧
        c.stepMark = .none))
  let toStep (c : Channel) : Bool :=
    decide (c.policy = .segmentEnd ∧ c.state = .held ∧ (c.resume = some .idle ∨ c.resume = some .syncWait) ∧
      c.queue ≠ [])
  (∀ (r : Req) (s : State),
     (s.admits r.link 0x04 = true → s.motors.pause = .running → ∃ t, exec (.pause r) s = .next t ∧
       (∀ p, let c := s.motors.ch.get p
         let d := t.motors.ch.get p
         let heldFor (z : Resume) : Channel :=
           { c with state := .held, resume := some z, heldAction := none, stallTimer := 0, starved := false }
         (c.policy = .free → d = c) ∧
         (c.policy = .segmentEnd → d = if c.state = .syncWait then heldFor .syncWait else c) ∧
         (c.policy = .queueEnd → d = { c with allowance := c.queue.length }) ∧
         (c.policy = .immediate →
           (c.state = .syncWait → d = heldFor .syncWait) ∧
           (∀ z g, (c.state = .running ∧ z = .running) ∨ (c.state = .settling ∧ z = .settling) → c.current = some g →
             d = if g.kind = .stop then heldFor z
               else { heldFor z with phase := if c.spd = 0 then .holding else .stopping, stopRate := g.decel }) ∧
           (c.state ≠ .running → c.state ≠ .settling → c.state ≠ .syncWait → d = c))) ∧
       t.motors.pause = (if MotorPort.all.all (fun p => atRest (t.motors.ch.get p)) = true then .paused else .pausing) ∧
       t.mixer = { s.mixer with voices := t.mixer.voices } ∧
       (∀ i, let v := s.mixer.voices.get i
         t.mixer.voices.get i =
           if v.state ∈ [VoiceState.head, .loop, .tail, .tone] ∧ v.free = false
           then { v with state := .frozen, prior := some v.state } else v) ∧
       t.motors.groups = s.motors.groups ∧ t.sensors = s.sensors ∧ t.watch = s.watch ∧
       t.store = s.store ∧ t.supply = s.supply ∧
       t.router = (((s.entered 0x04 r).notify .primary (.pauseState t.motors.pause (held t))).replied 0x04 r
         (.plain .ok (fieldNat 1 1 (pauseCode t.motors.pause)))).router ∧
       (r.cls = .ask → (t.router.link r.link).replies = (s.router.link r.link).replies ++
         [replyFrame 0x04 r.tag (byte 0 :: fieldNat 1 1 (pauseCode t.motors.pause))])) ∧
     (s.admits r.link 0x04 = true → s.motors.pause ≠ .running →
       exec (.pause r) s = .next ((s.entered 0x04 r).replied 0x04 r
         (.plain .ok (fieldNat 1 1 (pauseCode s.motors.pause))))) ∧
     (s.admits r.link 0x05 = true → s.motors.pause ≠ .running → ∃ t, exec (.resume r) s = .next t ∧
       t.motors.pause = .running ∧
       (∀ p, let c := s.motors.ch.get p
         let d := t.motors.ch.get p
         let freed (c : Channel) : Channel :=
           { c with allowance := 0, heldAction := none, resume := none, stepMark := .none }
         (c.state ≠ .held → d = freed c) ∧
         (c.state = .held → c.resume = some .idle → d = freed { c with state := .idle }) ∧
         (c.state = .held → c.resume = some .syncWait → d = freed { c with state := .syncWait }) ∧
         (c.state = .held → c.resume = some .running →
           d = freed { c with state := .running, spd := 0, phase := .holding }) ∧
         (c.state = .held → c.resume = some .settling →
           d = freed { c with state := .settling, spd := 0, phase := .done, inTol := 0 })) ∧
       t.mixer = { s.mixer with voices := t.mixer.voices } ∧
       (∀ i, let v := s.mixer.voices.get i
         (v.state ≠ .frozen → t.mixer.voices.get i = v) ∧
         (∀ z, v.state = .frozen → v.prior = some z →
           t.mixer.voices.get i = { v with state := z, prior := none })) ∧
       t.router = (((s.entered 0x05 r).notify .primary (.pauseState .running (held t))).replied 0x05 r
         Reply.ok).router ∧
       t.sensors = s.sensors ∧ t.watch = s.watch ∧ t.store = s.store ∧ t.supply = s.supply) ∧
     (s.admits r.link 0x05 = true → s.motors.pause = .running →
       exec (.resume r) s = .next ((s.entered 0x05 r).replied 0x05 r Reply.ok)) ∧
     (∀ v : Voice, v.playing = true → v.state ≠ .frozen → v.free = false →
       v.frozen.continued = { v with prior := none })) ∧
  (∀ (r : Req) (s : State), s.admits r.link 0x06 = true →
     (s.motors.pause ≠ .paused →
       exec (.stepSegment r) s = .next ((s.entered 0x06 r).replied 0x06 r (Reply.refuse .busy))) ∧
     (s.motors.pause = .paused → (∀ p, toStep (s.motors.ch.get p) = false) →
       exec (.stepSegment r) s = .next ((s.entered 0x06 r).replied 0x06 r (.plain .ok (field 1 [])))) ∧
     (s.motors.pause = .paused → (∃ p, toStep (s.motors.ch.get p) = true) →
       ∃ t, exec (.stepSegment r) s = .next t ∧ t.motors.pause = .pausing ∧
         (∀ p, let c := s.motors.ch.get p
           (toStep c = false → t.motors.ch.get p = c) ∧
           (toStep c = true → t.motors.ch.get p =
             { c with stepMark := .pending, resume := none, heldAction := none,
                      state := if c.resume = some .syncWait then .syncWait else .idle })) ∧
         t.router = (((s.entered 0x06 r).notify .primary (.pauseState .pausing (held t))).replied 0x06 r
           (.plain .ok (field 1 (portBytes (MotorPort.all.filter (fun p => toStep (s.motors.ch.get p))))))).router ∧
         t.mixer = s.mixer ∧ t.sensors = s.sensors ∧ t.watch = s.watch ∧ t.store = s.store ∧ t.supply = s.supply))

/-! ### Motor events -/

/-- R25, R26, R39 to R41, R164: a control expiry reads the encoder and the current of every port with a motor; a
driven motor gets its output times 7200 over V_b, held within 1000 in either direction, times lambda over 1000, each
division truncated, any other motor none; the magnitudes of the currents of the ports with a motor join the current
sum; in CRITICAL every drive is off, q is at E, S, I and u_c are 0. Where the current is not above twice the rated
current: R25, R28 to R38: a running segment that no check ends takes its one profile step (MOVE, SPEED or STOP) and
the control law runs on the q and S it gives, or takes the DUTY path; a settling MOVE keeps q and S and the law runs
on them; R31: the SHORT mark of a MOVE is decided at its first step (by startsShort, which MotionArithmetic states)
and kept at every later one; a channel at rest with HOLD, waiting or held takes the stopping or holding step, a held
MOVE cut at its target (R57), and the law runs on it; R26: with COAST or BRAKE in force it follows its motor. R3, R4:
outside a pause a channel in IDLE takes its head segment with sync tag 0 (here no STOP): it leaves the queue, becomes
current with its target, and takes its first step in this expiry; R50: a head with a sync tag stays at the head, the
channel enters SYNC_WAIT with rest action HOLD, stopping, and its group is open. R50, R51: the one open group is held
while a member does not wait with its head, its waiting members keeping their heads; when every member waits with its
head in the group (here no STOP) all the heads leave their queues, become current and take their first step in this
same expiry. R52, R53: where one of two members waits with a head of a group and the other comes to wait, or waits,
paused or not, with a head of another group of the same members, both heads end SYNC_BROKEN, the channels rest in IDLE
with HOLD and no group is open. R58: at the end PAUSING becomes PAUSED when every policed channel is at rest, and
PAUSE_STATE follows the SEGMENT_ENDs of the expiry. The other ports have no motor in the clauses on groups. That a
group whose first member comes to wait in this expiry is open for its examination, how two broken groups are ordered,
and the order A to F of the ports in HELD are the model's choices (log entries 31, 56 and 50). -/
def Obligations.ControlExpiryReadsAndDrives : Prop :=
  ∀ (x : Six MotorReading) (s : State), s.supply.power ≠ .sleep → ∃ t, exec (.controlExpiry x) s = .next t ∧
    (∀ p, let c := s.motors.ch.get p
      let d := t.motors.ch.get p
      d.kind = c.kind ∧
      (c.kind ≠ .none →
        d.enc = clamp (-2000000000) 2000000000 (c.enc + (x.get p).delta) ∧ d.mA = (x.get p).current ∧
        d.prevEnc = d.enc ∧
        (d.drive = .driven → d.applied =
          (max (-1000) (min 1000 ((d.uc * 7200).tdiv s.supply.vb)) * s.supply.lambda).tdiv 1000) ∧
        (d.drive ≠ .driven → d.applied = 0) ∧
        (s.live = false → d.drive = .off ∧ d.q = d.enc * 1000000 ∧ d.spd = 0 ∧ d.integ = 0 ∧ d.uc = 0 ∧
          d.sat = false))) ∧
    (let calm (p : MotorPort) : Prop :=
       (s.motors.ch.get p).kind ≠ .none ∧
         absInt (x.get p).current ≤ 2 * ((s.motors.ch.get p).kind.ratedCurrent : Int)
     let absent (p : MotorPort) : Prop := (s.motors.ch.get p).kind = .none ∧ (s.motors.ch.get p).state = .off
     let ruled (p : MotorPort) (y : Profile) : Prop :=
       let c := s.motors.ch.get p
       let d := t.motors.ch.get p
       let k := controlLaw c.gains y.q y.spd d.enc { integ := c.integ, uc := c.uc, sat := c.sat }
       d.q = y.q ∧ d.spd = y.spd ∧ d.phase = y.phase ∧ d.integ = k.integ ∧ d.uc = k.uc ∧ d.sat = k.sat ∧
         d.drive = .driven
     let ran (p : MotorPort) (g : Segment) : Prop :=
       let c := s.motors.ch.get p
       let d := t.motors.ch.get p
       match g.kind with
       | .duty => d.q = d.enc * 1000000 ∧ d.spd = 0 ∧ d.phase = .done ∧ d.integ = 0 ∧ d.uc = g.duty ∧ d.sat = false ∧
           d.drive = .driven
       | .speed => ruled p (speedStep c.q c.spd (g.cruise * 1000) g.accel g.decel)
       | .stop => ruled p (stopStep { q := c.q, spd := c.spd, phase := c.phase } c.stopRate)
       | _ => ruled p (moveStep c.q c.spd g.target (g.cruise * 1000) g.accel g.decel) ∧
           (d.state = .settling ↔ d.phase = .done)
     let rests (p : MotorPort) : Prop :=
       ruled p (stopStep { q := (s.motors.ch.get p).q, spd := (s.motors.ch.get p).spd, phase := (s.motors.ch.get p).phase }
         (s.motors.ch.get p).stopRate)
     let enters (p : MotorPort) : Prop :=
       let c := s.motors.ch.get p
       ruled p (stopStep { q := c.q, spd := c.spd, phase := if c.spd = 0 then .holding else .stopping }
         (c.decelBefore.getD 4000 : Nat))
     let follows (p : MotorPort) (a : Rest) : Prop :=
       let d := t.motors.ch.get p
       d.q = d.enc * 1000000 ∧ d.spd = 0 ∧ d.phase = .done ∧ d.integ = 0 ∧ d.uc = 0 ∧ d.sat = false ∧ d.applied = 0 ∧
         d.drive = (if a = .brake then .shorted else .off)
     let taken (p : MotorPort) (h : Segment) : Prop :=
       let c := s.motors.ch.get p
       let d := t.motors.ch.get p
       let g : Segment := if h.kind = .moveBy then { h with target := moveByTarget c.lastTarget c.q h.distance } else h
       d.current = some g ∧
       (d.state = .running ∨ (h.isMove = true ∧ d.state = .settling)) ∧
       (s.live = true → ran p g) ∧
       (s.live = true → h.isMove = true → d.short = startsShort c.q c.spd g.target g.decel ∧ d.firstStep = false) ∧
       (s.live = true → h.kind = .duty ∨ h.kind = .speed → d.steps = 1)
     (∀ p, s.live = true → calm p → (s.motors.ch.get p).stallTimer + 1 < (s.motors.ch.get p).stallTime →
       let c := s.motors.ch.get p
       let d := t.motors.ch.get p
       (∀ g, c.state = .running → c.current = some g → (g.kind = .duty ∨ g.kind = .speed → c.steps < g.duration) →
         (g.kind = .stop → (stopStep { q := c.q, spd := c.spd, phase := c.phase } c.stopRate).spd ≠ 0) →
         ran p g ∧ d.current = some g ∧ (g.kind = .duty ∨ g.kind = .speed → d.steps = c.steps + 1) ∧
         (g.isMove = true → d.firstStep = false ∧
           d.short = (if c.firstStep = true then startsShort c.q c.spd g.target g.decel else c.short))) ∧
       (∀ g, c.state = .settling → c.current = some g →
         (if absInt (g.target - d.enc) ≤ g.tolerance then c.inTol + 1 else 0) < g.settleCount →
         c.settleTime + 1 < g.settleLimit →
         d.state = .settling ∧ ruled p { q := c.q, spd := c.spd, phase := c.phase }) ∧
       (c.state = .held → c.resume ≠ some .syncWait →
         (c.phase = .stopping ∨ c.phase = .holding → c.heldAction = none ∨ c.heldAction = some .hold →
           d.state = .held ∧ ((∀ g, c.current = some g → g.isMove = false) → rests p) ∧
           (∀ g, c.current = some g → g.isMove = true →
             ruled p (heldMoveStep { q := c.q, spd := c.spd, phase := c.phase } c.stopRate g.target))) ∧
         (∀ a, c.heldAction = some a → a ≠ .hold → d.state = .held ∧ follows p a))) ∧
     (∀ p, s.live = true → calm p → (s.motors.ch.get p).state = .idle → (s.motors.ch.get p).queue = [] →
       ((s.motors.ch.get p).rest = .hold → rests p) ∧
       ((s.motors.ch.get p).rest ≠ .hold → follows p (s.motors.ch.get p).rest)) ∧
     (∀ p h rest, (s.motors.ch.get p).queue = h :: rest → (s.motors.ch.get p).state = .idle → calm p →
       s.motors.pause = .running →
       let d := t.motors.ch.get p
       (h.syncTag = 0 → h.kind ≠ .stop →
         taken p h ∧ d.queue.Sublist rest ∧ (s.motors.groups = [] → (∀ q, q ≠ p → absent q) → d.queue = rest)) ∧
       (h.syncTag ≠ 0 → s.motors.groups = [] → (∀ q, q ≠ p → absent q) → (∃ q ∈ h.members, q ≠ p) →
         d.state = .syncWait ∧ d.rest = .hold ∧ d.queue = h :: rest ∧ t.motors.groups = [h.group] ∧
         (s.live = true → enters p))) ∧
     (∀ g, s.motors.groups = [g] → (∀ p, p ∉ g.members → absent p) → (∀ p ∈ g.members, calm p) →
       ((∃ p ∈ g.members, (s.motors.ch.get p).state ≠ .syncWait) →
         (∀ p ∈ g.members, let c := s.motors.ch.get p
           (c.state = .idle ∧ c.queue = []) ∨ (c.waits = true ∧ ∃ h rest, c.queue = h :: rest ∧ h.group = g)) →
         t.motors.groups = [g] ∧
         ∀ p ∈ g.members, let c := s.motors.ch.get p
           (t.motors.ch.get p).state = c.state ∧ (t.motors.ch.get p).queue = c.queue ∧
           (s.live = true → c.state = .syncWait → rests p) ∧
           (s.live = true → c.state = .held → c.phase = .stopping ∨ c.phase = .holding →
             c.heldAction = none ∨ c.heldAction = some .hold → (∀ g, c.current = some g → g.isMove = false) →
             rests p)) ∧
       (g.members.Nodup →
         (∀ p ∈ g.members, (s.motors.ch.get p).state = .syncWait ∧
           ∃ h rest, (s.motors.ch.get p).queue = h :: rest ∧ h.group = g ∧ h.kind ≠ .stop) →
         t.motors.groups = [] ∧
         ∀ p ∈ g.members, ∀ h rest, (s.motors.ch.get p).queue = h :: rest →
           taken p h ∧ (t.motors.ch.get p).queue = rest)) ∧
     (∀ p q y z ys zs, p ≠ q → (∀ o, o ≠ p → o ≠ q → absent o) → calm p → calm q →
       (s.motors.ch.get p).queue = y :: ys → (s.motors.ch.get q).queue = z :: zs →
       y.members = [p, q] ∨ y.members = [q, p] → z.members = y.members → y.syncTag ≠ z.syncTag → z.syncTag ≠ 0 →
       (∀ h ∈ ys ++ zs, h.group ≠ y.group ∧ h.group ≠ z.group) →
       (∀ g ∈ s.motors.groups, g = y.group ∨ g = z.group) → y.group ∈ s.motors.groups →
       (s.motors.ch.get p).waits = true →
       ((s.motors.ch.get q).state = .idle ∧ s.motors.pause = .running) ∨ (s.motors.ch.get q).state = .syncWait ∨
         ((s.motors.ch.get q).waits = true ∧ z.group ∈ s.motors.groups) →
       t.motors.groups = [] ∧
       (let d := t.motors.ch.get p
        d.state = .idle ∧ d.rest = .hold ∧ d.queue = ys ∧ d.resume = none ∧ d.heldAction = none ∧
          (s.live = true → rests p)) ∧
       (let d := t.motors.ch.get q
        d.state = .idle ∧ d.rest = .hold ∧ d.queue = zs ∧ d.resume = none ∧ d.heldAction = none ∧
          (s.live = true → (s.motors.ch.get q).waits = true → rests q) ∧
          (s.live = true → (s.motors.ch.get q).state = .idle → enters q)) ∧
       (s.motors.pause ≠ .pausing →
         t.router = s.router.placeAll (MotorPort.all.flatMap (fun o =>
           if o = p then segmentEnd p y .syncBroken (t.motors.ch.get p).enc none ys.length
           else if o = q then segmentEnd q z .syncBroken (t.motors.ch.get q).enc none zs.length
           else []))))) ∧
    (let atRest (c : Channel) : Bool :=
       decide (c.policy = .free ∨
         ((c.state = .held ∨ c.state = .idle ∨ c.state = .off ∨ c.state = .fault) ∧ c.phase ≠ .stopping ∧
           c.stepMark = .none))
     let settled : Bool := decide (s.motors.pause = .pausing) && MotorPort.all.all (fun p => atRest (t.motors.ch.get p))
     let held : List MotorPort := MotorPort.all.filter (fun p => (t.motors.ch.get p).state == .held)
     t.motors.pause = (if settled = true then .paused else s.motors.pause) ∧
     ∃ ns : List Sent, (∀ n ∈ ns, n.notice.channel = 0x61) ∧
       t.router = s.router.placeAll
         (ns ++ (if settled = true then [{ link := .primary, notice := .pauseState .paused held }] else []))) ∧
    t.supply = { s.supply with currentSum := s.supply.currentSum +
      (MotorPort.all.map (fun p =>
        if (t.motors.ch.get p).kind = .none then 0 else (t.motors.ch.get p).mA.natAbs)).sum } ∧
    t.sensors = s.sensors ∧ t.watch = s.watch ∧ t.store = s.store ∧ t.mixer = s.mixer ∧
    (∀ k, (t.router.link k).replies = (s.router.link k).replies ∧ (t.router.link k).forward = (s.router.link k).forward)

/-- R28, R29: a MOVE step from rest or toward the target never passes the target and reaches it only with S = 0. On the
target it is DONE. With the speed away from the target (REVERSE) that speed is reduced by b, to 0 at the most, and q
moves on away by it. Else, with v the speed toward the target and B = floor(v * v / 2b), the table of R29 gives phase
and speed: B reached, v - b but not below the creep speed m = max(b, 20000); else up to C by a, down to C by b, or C;
and q moves toward the target by that speed, or lands on it, DONE with S = 0, when no more is left. R31: a first step is
SHORT when B exceeds the distance at a speed toward the target, or when the target is reached and S is not 0. R32,
R34: a SPEED step, in either direction, changes S by at most its rate, stays on the near side of the cruise
speed, passes through 0 before it turns round, and moves q by the new S; a stopping step brings S to 0 at its
rate and then holds; a holding step leaves q and S. R57: the stopping step of a held MOVE ends on the target
where it would reach or pass it. R36 to R38: the output of the control law, its divisions truncated one by one,
its clamp and its saturated flag; an output of exactly 1000 or -1000 leaves the flag clear, and gains of 0 give
0. -/
def Obligations.MotionArithmetic : Prop :=
  ((∀ (q spd T C a b : Int), -1000000 ≤ T → T ≤ 1000000 → 0 < C → 0 ≤ a → 0 ≤ b →
      let goal := T * 1000000
      let x := moveStep q spd T C a b
      (q < goal → -2000000000000000 ≤ q → 0 ≤ spd → q ≤ x.q ∧ x.q ≤ goal ∧ 0 ≤ x.spd) ∧
      (goal < q → q ≤ 2000000000000000 → spd ≤ 0 → goal ≤ x.q ∧ x.q ≤ q ∧ x.spd ≤ 0) ∧
      (x.phase = .done → -2000000000000000 ≤ q → q ≤ 2000000000000000 → x.q = goal ∧ x.spd = 0)) ∧
   (∀ (q spd T C a b side : Int), -1000000 ≤ T → T ≤ 1000000 → side = 1 ∨ side = -1 →
      let dist := side * (T * 1000000 - q)
      let v := side * spd
      let B := v * v / (2 * b)
      let m := max b 20000
      let held (y : Int) : Int := max (-2000000000000000) (min 2000000000000000 y)
      let advance (ph : Phase) (w : Int) : Profile :=
        if dist ≤ w then { q := T * 1000000, spd := 0, phase := .done }
        else { q := held (q + side * w), spd := side * w, phase := ph }
      let x := moveStep q spd T C a b
      (dist = 0 → x = { q := q, spd := 0, phase := .done }) ∧
      (0 < dist → v < 0 →
        x = { q := held (q + side * min 0 (v + b)), spd := side * min 0 (v + b), phase := .reverse }) ∧
      (0 < dist → 0 < v → dist ≤ B → m < v - b → x = advance .decel (v - b)) ∧
      (0 < dist → 0 < v → dist ≤ B → v - b ≤ m → x = advance .creep m) ∧
      (0 < dist → 0 ≤ v → B < dist → v < C → x = advance .accel (min (v + a) C)) ∧
      (0 < dist → 0 ≤ v → B < dist → C < v → x = advance .decel (max (v - b) C)) ∧
      (0 < dist → 0 ≤ v → B < dist → v = C → x = advance .cruise C)) ∧
   (∀ (q spd T b : Int),
      let d := T * 1000000 - q
      startsShort q spd T b = true ↔ (d = 0 ∧ spd ≠ 0) ∨ (0 < d ∧ 0 < spd ∧ d < spd * spd / (2 * b)) ∨
        (d < 0 ∧ spd < 0 ∧ -d < spd * spd / (2 * b))) ∧
   (∀ (q spd C a b : Int), C ≠ 0 → 0 ≤ a → 0 ≤ b →
      let x := speedStep q spd C a b
      (0 ≤ spd → 0 < C → spd ≤ C → x.spd = min (spd + a) C) ∧
      (0 ≤ spd → 0 < C → C < spd → x.spd = max (spd - b) C) ∧
      (0 < spd → C < 0 → x.spd = max (spd - b) 0) ∧
      (spd ≤ 0 → C < 0 → C ≤ spd → x.spd = max (spd - a) C) ∧
      (spd ≤ 0 → C < 0 → spd < C → x.spd = min (spd + b) C) ∧
      (spd < 0 → 0 < C → x.spd = min (spd + b) 0) ∧
      x.q = clampQ (q + x.spd) ∧
      let y := stopStep { q := q, spd := spd, phase := .stopping } b
      (0 ≤ spd → y.spd = max (spd - b) 0) ∧ (spd ≤ 0 → y.spd = min (spd + b) 0) ∧ y.q = clampQ (q + y.spd) ∧
      y.phase = (if y.spd = 0 then .holding else .stopping)) ∧
   (∀ (q spd b T : Int),
      let y := stopStep { q := q, spd := spd, phase := .stopping } b
      let d := T * 1000000 - q
      heldMoveStep { q := q, spd := spd, phase := .stopping } b T =
        if (0 < y.spd ∧ 0 ≤ d ∧ d ≤ y.spd) ∨ (y.spd < 0 ∧ d ≤ 0 ∧ y.spd ≤ d)
        then { q := T * 1000000, spd := 0, phase := .holding } else y) ∧
   (∀ (x : Profile) (b T : Int), x.phase ≠ .stopping →
      stopStep x b = { x with phase := .holding } ∧ heldMoveStep x b T = { x with phase := .holding })) ∧
  (∀ (g : Gains) (q spd enc : Int) (c : Control),
     let e := clamp (-10000) 10000 (roundMicro q - enc)
     let i := if c.sat = true ∧ e ≠ 0 ∧ signOf e = signOf c.uc then c.integ
       else clamp (-(g.iLimit : Int)) g.iLimit (c.integ + e)
     let raw := (g.kp * e + (g.ki * i).tdiv 256 + g.kf * spd.tdiv 1000).tdiv 16
     let d := controlLaw g q spd enc c
     d.integ = i ∧ d.uc = clamp (-1000) 1000 raw ∧ (d.sat = true ↔ raw < -1000 ∨ 1000 < raw) ∧
     (g.kp = 0 → g.ki = 0 → g.kf = 0 → d.uc = 0))

/-- R33, R5, R6, R45: DURATION_END ends the current segment DONE once its steps are used up; R44: a settling check
that reaches the settle count ends the MOVE DONE, or SHORT when marked, and one that reaches the settle limit
first ends it UNSETTLED. With an empty queue the channel goes to IDLE with the end action in force; outside a
pause a head segment that is no STOP and has no sync tag becomes current (R3, R4); otherwise the events change
nothing. The three events as commands of their own, and that before the limit they change nothing, are the
model's choice (log entry 3), and so is the number of segments left in a SEGMENT_END, the queue's length before
the next head becomes current (log entry 15). -/
def Obligations.SegmentsEndInTime : Prop :=
  let movedOn (s : State) (p : MotorPort) (g : Segment) (m : Motors) : Prop :=
    let c := s.motors.ch.get p
    let d := m.ch.get p
    d.enc = c.enc ∧ d.kind = c.kind ∧
    (c.queue = [] → d.current = none ∧ d.queue = [] ∧ d.state = .idle ∧ d.rest = g.endAction ∧ d.stallTimer = 0 ∧
      ∀ q, q ≠ p → m.ch.get q = (s.motors.ch.get q).finishRelease) ∧
    (∀ h rest, c.queue = h :: rest → s.motors.pause = .running → h.syncTag = 0 → h.kind ≠ .stop →
      d.current = some (if h.kind = .moveBy then { h with target := moveByTarget c.lastTarget c.q h.distance } else h) ∧
      d.queue = rest ∧ d.state = .running ∧ d.steps = 0)
  (∀ (p : MotorPort) (g : Segment) (s : State), s.supply.power ≠ .sleep →
     let c := s.motors.ch.get p
     c.current = some g →
     (c.durationUsed g = false → exec (.durationEnd p) s = .next s) ∧
     (c.state = .running → (g.kind = .duty ∨ g.kind = .speed) → g.duration ≤ c.steps →
       ∃ m ns, exec (.durationEnd p) s =
           .next (s.withMotors (m, segmentEnd p g .done c.enc none c.queue.length ++ ns)) ∧ movedOn s p g m)) ∧
  (∀ (p : MotorPort) (g : Segment) (s : State), s.supply.power ≠ .sleep →
     let c := s.motors.ch.get p
     let inTol := if absInt (g.target - c.enc) ≤ g.tolerance then c.inTol + 1 else 0
     c.current = some g → c.state = .settling → g.kind = .moveTo ∨ g.kind = .moveBy →
     (g.settleCount ≤ inTol →
       (∃ m ns, exec (.segmentSettled p) s = .next (s.withMotors
           (m, segmentEnd p g (if c.short then .short else .done) c.enc (some g.target) c.queue.length ++ ns)) ∧
         movedOn s p g m) ∧
       exec (.settleLimitReached p) s = .next s) ∧
     (inTol < g.settleCount → g.settleLimit ≤ c.settleTime + 1 →
       (∃ m ns, exec (.settleLimitReached p) s = .next (s.withMotors
           (m, segmentEnd p g .unsettled c.enc (some g.target) c.queue.length ++ ns)) ∧ movedOn s p g m) ∧
       exec (.segmentSettled p) s = .next s) ∧
     (inTol < g.settleCount → c.settleTime + 1 < g.settleLimit →
       exec (.segmentSettled p) s = .next s ∧ exec (.settleLimitReached p) s = .next s))

/-- R46, R47: a stall check that brings the timer to the stall time stops the channel: its segments end STALLED and
CANCELLED, it coasts in IDLE. R48: the fiftieth expiry above twice the rated current takes it to FAULT. That the
two events before their limit change nothing is the model's choice (log entry 3). -/
def Obligations.StallAndOvercurrentStopTheChannel : Prop :=
  ∀ (p : MotorPort) (s : State), s.supply.power ≠ .sleep →
    let c := s.motors.ch.get p
    (c.state = .running ∨ c.state = .settling → c.enc = c.prevEnc → 900 ≤ absInt c.applied →
      s.supply.lambda = 1000 → c.stallTime ≤ c.stallTimer + 1 →
      ∃ m ns, exec (.stall p) s = .next (s.withMotors (m, c.endNotices p .stalled .cancelled ++ ns)) ∧
        let d := m.ch.get p
        d.current = none ∧ d.queue = [] ∧ d.state = .idle ∧ d.rest = .coast ∧ d.applied = 0 ∧ d.drive = .off ∧
          d.stallTimer = 0 ∧ d.enc = c.enc ∧ d.kind = c.kind) ∧
    (c.state = .running ∨ c.state = .settling → c.enc = c.prevEnc → 900 ≤ absInt c.applied →
      c.stallTimer + 1 < c.stallTime → exec (.stall p) s = .next s) ∧
    (c.kind ≠ .none → c.state ≠ .fault → 2 * (c.kind.ratedCurrent : Int) < absInt c.mA → 49 ≤ c.overCount →
      ∃ m ns, exec (.overcurrentFault p) s = .next (s.withMotors (m, c.endNotices p .fault .fault ++ ns)) ∧
        let d := m.ch.get p
        d.current = none ∧ d.queue = [] ∧ d.state = .fault ∧ d.fault = some .overcurrent ∧ d.rest = .coast ∧
          d.applied = 0 ∧ d.drive = .off ∧ d.overCount = 0 ∧ d.enc = c.enc) ∧
    (c.overCount < 49 → exec (.overcurrentFault p) s = .next s)

/-- R1, R2: the second of two equal samples of a port's ID line attaches or detaches its motor. Two equal samples in
a row, each at a command of its sender, is the model's reading (log entries 2 and 16). -/
def Obligations.MotorIdSampleAttachesAndDetaches : Prop :=
  ∀ (k : Six MotorIdClass) (s : State), s.supply.power ≠ .sleep → ∃ t, exec (.motorIdSample k) s = .next t ∧
    t.sensors = s.sensors ∧ t.watch = s.watch ∧ t.store = s.store ∧ t.mixer = s.mixer ∧ t.supply = s.supply ∧
    ∀ p, let c := s.motors.ch.get p
      let d := t.motors.ch.get p
      d.idLast = some (k.get p) ∧
      (c.idLast ≠ some (k.get p) ∨ motorKindOf (k.get p) = c.kind →
        d.kind = c.kind ∧ d.gains = c.gains ∧ d.enc = c.enc ∧ d.applied = c.applied ∧ d.drive = c.drive) ∧
      (c.idLast = some (k.get p) → motorKindOf (k.get p) ≠ c.kind → motorKindOf (k.get p) ≠ .none →
        d.kind = motorKindOf (k.get p) ∧ d.gains = d.kind.gains ∧ d.enc = 0 ∧ d.q = 0 ∧ d.spd = 0 ∧
          d.lastTarget = none ∧ d.fault = none ∧ d.state = .idle ∧ d.policy = c.policy ∧
          d.stallTime = c.stallTime) ∧
      (c.idLast = some (k.get p) → motorKindOf (k.get p) = .none → c.kind ≠ .none →
        d.kind = .none ∧ d.state = .off ∧ d.drive = .off ∧ d.applied = 0 ∧ d.current = none ∧ d.queue = [] ∧
          d.rest = .coast ∧ d.fault = none ∧ d.policy = c.policy)

/-! ### Sensor banks, ports, samples -/

/-- R63 to R67, R78, R94, R95: the fifth reading above 250 mA trips a bank, the third trip locks it; its ports lose
their power and records, each handing PORT_EVENT UNPOWERED, with the bank's state and trip count, to the host and
then the CAPTURE_END of its capture, UNPOWERED, to its starter; it powers up when its retry time ends, at a
BANK_RESTORE of a LOCKED bank, with every port of it PROBING and no notice; 10,000 ms without a trip clear the
count. R65: BANK_RESTORE is a request of the host: from the remote link DENIED; it powers a LOCKED bank up with
trip count 0 and its ports in PROBING, and only answers for a bank in another state; another bank value is
INVALID(BANK). That an event before its limit changes nothing, that the tablet is DENIED before its fields are
read, and that a trip's CAPTURE_END goes before the PORT_EVENT of the next port, are the model's choices (log
entries 3, 26 and 69). -/
def Obligations.BankTripsAndReturns : Prop :=
  (∀ (b : BankId) (mA : Nat) (s : State), s.supply.power ≠ .sleep →
     let k := s.sensors.bank b
     let t := s.tripBank b
     (k.state ≠ .on → exec (.bankCurrentMeasure b mA) s = .next s ∧ exec (.bankTrip b) s = .next s) ∧
     (k.state = .on → mA ≤ 250 →
       exec (.bankCurrentMeasure b mA) s = .next (s.setBank b { k with overTime := 0 })) ∧
     (k.state = .on → 250 < mA → k.overTime < 4 →
       exec (.bankCurrentMeasure b mA) s = .next (s.setBank b { k with overTime := k.overTime + 1 })) ∧
     (k.state = .on → 250 < mA → 4 ≤ k.overTime → exec (.bankCurrentMeasure b mA) s = .next t) ∧
     (k.state = .on → 4 ≤ k.overTime → exec (.bankTrip b) s = .next t) ∧
     ((t.sensors.bank b).state = (if k.trips + 1 = 3 then .locked else .tripped) ∧
       (t.sensors.bank b).trips = k.trips + 1 ∧ (t.sensors.bank b).overTime = 0 ∧ (t.sensors.bank b).retry = 0 ∧
       (∀ b', b' ≠ b → t.sensors.bank b' = s.sensors.bank b') ∧
       (∀ p ∈ b.ports, (t.port p).state = .unpowered ∧ (t.port p).ring = [] ∧ (t.port p).desc = none ∧
         (t.port p).arrival = (s.port p).arrival) ∧
       (∀ p, p ∉ b.ports → t.port p = s.port p) ∧ (∀ c ∈ t.sensors.captures, c.port ∉ b.ports) ∧
       t.sensors.streams = s.sensors.streams ∧ t.motors = s.motors ∧ t.mixer = s.mixer ∧ t.supply = s.supply ∧
       t.store.mem = s.store.mem ∧
       t.router = s.router.placeAll (b.ports.flatMap (fun p =>
         { link := .primary,
           notice := .portEvent p .unpowered none none
             (some (if k.trips + 1 = 3 then .locked else .tripped, k.trips + 1)) s.now } ::
         s.captureEnds p .unpowered))) ∧
     (k.state = .tripped → k.retry < 1000 → exec (.retryEnd b) s = .next s) ∧
     (k.state = .tripped → 1000 ≤ k.retry → ∃ u, exec (.retryEnd b) s = .next u ∧
       (u.sensors.bank b).state = .on ∧ (u.sensors.bank b).trips = k.trips ∧ (u.sensors.bank b).clean = 0 ∧
       (∀ p ∈ b.ports, (u.port p).state = .probing ∧ (u.port p).arrival = (s.port p).arrival) ∧
       (∀ p, p ∉ b.ports → u.port p = s.port p) ∧ u.motors = s.motors ∧ u.store = s.store ∧ u.mixer = s.mixer ∧
       u.supply = s.supply ∧ u.router = s.router) ∧
     (k.state = .on → 10000 ≤ k.clean → exec (.cleanTimeReached b) s = .next (s.setBank b { k with trips := 0 })) ∧
     (k.state ≠ .on ∨ k.clean < 10000 → exec (.cleanTimeReached b) s = .next s)) ∧
  (∀ (r : Req) (fs : Fields) (s : State), s.admits r.link 0x27 = true →
     (r.link = .remote →
       exec (.bankRestore r) s = .next ((s.entered 0x27 r).replied 0x27 r (Reply.refuse .denied))) ∧
     (r.link = .primary → decodeFields r.payload = some fs →
       (∀ n, natField 1 fs = .val n → 1 < n →
         exec (.bankRestore r) s = .next ((s.entered 0x27 r).replied 0x27 r (.invalid [.bank]))) ∧
       (∀ b, natField 1 fs = .val (bankIdCode b) → (s.sensors.bank b).state ≠ .locked →
         exec (.bankRestore r) s = .next ((s.entered 0x27 r).replied 0x27 r (.plain .ok
           (fieldNat 1 1 (bankStateCode (s.sensors.bank b).state) ++ fieldNat 2 1 (s.sensors.bank b).trips)))) ∧
       (∀ b, natField 1 fs = .val (bankIdCode b) → (s.sensors.bank b).state = .locked →
         ∃ t, exec (.bankRestore r) s = .next t ∧ (t.sensors.bank b).state = .on ∧ (t.sensors.bank b).trips = 0 ∧
           (t.sensors.bank b).clean = 0 ∧ (∀ p ∈ b.ports, (t.port p).state = .probing) ∧
           (∀ p, p ∉ b.ports → t.port p = s.port p) ∧ t.motors = s.motors ∧ t.store = s.store ∧
           t.mixer = s.mixer ∧ t.supply = s.supply ∧
           t.router = ((s.entered 0x27 r).replied 0x27 r (.plain .ok (fieldNat 1 1 0 ++ fieldNat 2 1 0))).router ∧
           (r.cls = .ask → (t.router.link .primary).replies = (s.router.link .primary).replies ++
             [replyFrame 0x27 r.tag (byte 0 :: (fieldNat 1 1 0 ++ fieldNat 2 1 0))]))))

/-- R68 to R70, R75: two equal readings of the ID line in a row decide a port; a first one that differs is only
remembered, and a port without power or in ERROR is not read. R78: the decision hands the host PORT_EVENT: EMPTY,
ERROR with SHORT, or READY with kind 251 to 254, one mode and mode 0; PROBING and HANDSHAKE hand over none. R94,
R95: the departure of a device ends the capture on it DETACHED after the port's own notice; that it is DETACHED
where the new class is SHORT is the model's choice (log entry 53). -/
def Obligations.PortIdIsDecidedByTwoReadings : Prop :=
  ∀ (p : SensorPort) (c : IdClass) (s : State), s.supply.power ≠ .sleep →
    let q := s.port p
    let told : List Sent := match c with
      | .openLine => [{ link := .primary, notice := .portEvent p .empty none none none s.now }]
      | .short => [{ link := .primary, notice := .portEvent p .error (some .short) none none s.now }]
      | .band1 => [{ link := .primary, notice := .portEvent p .ready none (some (251, 1, 0)) none s.now }]
      | .band2 => [{ link := .primary, notice := .portEvent p .ready none (some (252, 1, 0)) none s.now }]
      | .band3 => [{ link := .primary, notice := .portEvent p .ready none (some (253, 1, 0)) none s.now }]
      | .band4 => [{ link := .primary, notice := .portEvent p .ready none (some (254, 1, 0)) none s.now }]
      | .serial => []
    (q.state = .unpowered ∨ q.state = .error ∨ (q.state = .empty ∧ c = .openLine) →
      exec (.portIdMeasure p c) s = .next s) ∧
    (q.state = .empty → c ≠ .openLine → ∃ t, exec (.portIdMeasure p c) s = .next t ∧
      t.port p = { q with state := .probing, candidate := some c } ∧ (∀ p', p' ≠ p → t.port p' = s.port p') ∧
      t.router = s.router) ∧
    (q.state = .probing → q.candidate ≠ some c →
      exec (.portIdMeasure p c) s = .next (s.setPort p { q with candidate := some c })) ∧
    (q.state = .probing → q.candidate = some c → ∃ t, exec (.portIdMeasure p c) s = .next t ∧
      t.port p = q.decidedBy c ∧ (∀ p', p' ≠ p → t.port p' = s.port p') ∧ t.motors = s.motors ∧
      t.mixer = s.mixer ∧ t.store = s.store ∧ t.supply = s.supply ∧ t.sensors.captures = s.sensors.captures ∧
      t.router = s.router.placeAll told) ∧
    (q.state = .handshake ∨ q.state = .ready ∨ q.state = .switching →
      (q.cls = some c → exec (.portIdMeasure p c) s = .next (s.setPort p { q with departing := none })) ∧
      (q.cls ≠ some c → q.departing ≠ some c →
        exec (.portIdMeasure p c) s = .next (s.setPort p { q with departing := some c })) ∧
      (q.cls ≠ some c → q.departing = some c → ∃ t, exec (.portIdMeasure p c) s = .next t ∧
        t.port p = q.decidedBy c ∧ (∀ p', p' ≠ p → t.port p' = s.port p') ∧
        (∀ x ∈ t.sensors.captures, x.port ≠ p) ∧
        t.router = s.router.placeAll (told ++ s.captureEnds p .detached))) ∧
    ((q.decidedBy .openLine).state = .empty ∧ (q.decidedBy .openLine).desc = none ∧
      (q.decidedBy .short).state = .error ∧ (q.decidedBy .short).reason = some .short ∧
      (q.decidedBy .serial).state = .handshake ∧ (q.decidedBy .serial).lineSpeed = 9600 ∧
      (q.decidedBy .band1).state = .ready ∧ (q.decidedBy .band1).desc.map (fun d => d.kind) = some 251 ∧
      (q.decidedBy .band2).desc.map (fun d => d.kind) = some 252 ∧
      (q.decidedBy .band3).desc.map (fun d => d.kind) = some 253 ∧
      (q.decidedBy .band4).desc.map (fun d => d.kind) = some 254 ∧ (q.decidedBy .band1).mode = 0 ∧
      (q.decidedBy .band1).ring = [])

/-- R70, R74, R77, R82, R83: an accepted reading, clamped to its mode's range, joins the ring as the newest of at
most sixteen samples with the next arrival number, and ends a switch, which hands PORT_EVENT READY to the host
(R78); a DATA record of another mode or value count is ignored. R92, R93: the clamped values are then offered to
the capture on the port, which records them as CapturesStartRecordAndStop states. R98, R99: the reading that ends
a switch first has the SENSOR entries on the port re-examined; then every one that is ACTIVE is evaluated at its
value index of the clamped values, in ascending order of id, each at depth 1. Where none of them writes a virtual
input, each gets the record R102 and R103 give and every other entry is unchanged. An entry is evaluated when its
turn comes if it is ACTIVE then, the model's choice (log entry 61). -/
def Obligations.ReadingsJoinTheRing : Prop :=
  ∀ (p : SensorPort) (m : ModeDesc) (s : State), s.supply.power ≠ .sleep →
    let q := s.port p
    q.state = .ready ∨ q.state = .switching → q.modeDesc = some m →
    let joined (values : List Int) (t : State) : Prop :=
      (t.port p).ring = (if q.ring.length < 16 then q.ring else q.ring.drop 1) ++
        [{ time := s.now, mode := q.mode, values := values.map (clamp m.min m.max), arrival := q.arrival + 1 }] ∧
      (t.port p).arrival = q.arrival + 1 ∧ (t.port p).state = .ready ∧ (t.port p).silence = 0 ∧
      (t.port p).desc = q.desc ∧ (t.port p).mode = q.mode ∧ (∀ p', p' ≠ p → t.port p' = s.port p') ∧
      t.sensors.streams = s.sensors.streams ∧ t.sensors.bankL = s.sensors.bankL ∧
      t.sensors.bankR = s.sensors.bankR ∧ t.supply = s.supply
    let here (x : Source) : Bool := match x with | .sensor a _ _ => a == p | _ => false
    let hears (e : Watch) : Bool := match e.source with
      | .sensor a md i => a == p && md == q.mode &&
          q.desc.any (fun d => d.modes.any (fun y => y.number == md && decide (i < y.valueCount)))
      | _ => false
    let examined (e : Watch) : Watch :=
      let f : Watch := { e with cond := false, trueCount := 0, latch := false }
      if q.state = .switching ∧ here e.source = true then
        if e.state = .active ∧ hears e = false then { f with state := .dormant }
        else if e.state = .dormant ∧ hears e = true then { f with state := .active, last := none } else e
      else e
    let judged (e : Watch) (v : Int) : Watch :=
      let fires : Bool := (e.seen v).fires?
      { e with
          cond := e.newCond v, last := some v,
          trueCount := if e.newCond v = true then min e.debounce (e.trueCount + 1) else 0,
          latch := (e.newCond v && e.latch) || (fires && e.rearm == .edge),
          state := if fires = true ∧ e.rearm = .once then .fired else .active,
          fires := if fires = true then min 65535 (e.fires + 1) else e.fires }
    let heard (values : List Int) (t : State) : Prop :=
      let value (e : Watch) : Int := match e.source with
        | .sensor _ _ i => (values.map (clamp m.min m.max)).getD i 0
        | _ => 0
      (∃ u : State, u.motors = s.motors ∧ u.mixer = s.mixer ∧ u.supply = s.supply ∧ u.sensors = t.sensors ∧
        u.watch.virt = s.watch.virt ∧ u.watch.scanEnc = s.watch.scanEnc ∧
        (∀ k, u.watch.entries.get k = (s.watch.entries.get k).map examined) ∧
        ((∀ x ∈ s.sensors.captures, x.port ≠ p) → u.store = s.store) ∧
        (∃ w : State, w.motors = s.motors ∧ w.mixer = s.mixer ∧ w.supply = s.supply ∧ w.store = s.store ∧
          w.sensors = { s.sensors with ports := t.sensors.ports } ∧
          w.router = s.router.placeAll (if q.state = .switching
            then [{ link := .primary,
                    notice := .portEvent p .ready none (q.desc.map (fun d => (d.kind, d.modes.length, q.mode))) none
                      s.now }]
            else []) ∧
          u = w.offer p (values.map (clamp m.min m.max))) ∧
        t = u.withReach (evalEach (evalWith u.watchFeed 3) here value Num16.all u.reach).1) ∧
      ((∀ k e, s.watch.entries.get k = some e → here e.source = true → ∀ a ∈ e.actions, ∀ j b, a ≠ .setVirtual j b) →
        t.watch.virt = s.watch.virt ∧
        ∀ k, t.watch.entries.get k = (s.watch.entries.get k).map (fun e =>
          if here e.source = true ∧ (examined e).state = .active then judged (examined e) (value e) else examined e))
    (q.smart = false → ∀ v, ∃ t, exec (.passiveSample p v) s = .next t ∧ joined [v] t ∧ heard [v] t) ∧
    (q.smart = true → ∀ values, values.length = m.valueCount →
      ∃ t, exec (.dataRecord p q.mode values) s = .next t ∧ joined values t ∧ heard values t) ∧
    (q.smart = true → ∀ mode values, mode ≠ q.mode ∨ values.length ≠ m.valueCount →
      exec (.dataRecord p mode values) s = .next s) ∧
    (q.smart = true → ∀ v, exec (.passiveSample p v) s = .next s)

/-- R71 to R73: the records of a handshake. A record in place moves the attempt on; one out of place or out of range,
a malformed one, or 100 ms without one fails the attempt; the third failed attempt takes the port to ERROR. R78:
READY and that ERROR hand the host PORT_EVENT, the one with kind, mode count and mode 0, the other with
NO_HANDSHAKE. A MODE record is in place when it is the next of those announced, and in range by its value count,
its interval and its bounds within its format. That no timeout runs while ACCEPT is sent is the model's choice
(log entry 23); a timeout before its time changes nothing (log entry 3). -/
def Obligations.HandshakeRecords : Prop :=
  ∀ (p : SensorPort) (h : Handshake) (s : State), s.supply.power ≠ .sleep →
    let q := s.port p
    q.state = .handshake → q.hs = some h →
    (∀ kind count speed, h.stage = .describe → 1 ≤ kind → kind ≤ 250 → 1 ≤ count → count ≤ 8 →
      speed = 57600 ∨ speed = 115200 →
      exec (.describeRecord p kind count speed) s = .next (s.setPort p { q with
        hs := some { h with stage := .modes, wait := 0,
                            pending := some { kind := kind, count := count, speed := speed, modes := [] } } })) ∧
    (∀ kind count speed, h.stage = .describe → (kind = 0 ∨ 250 < kind ∨ count = 0 ∨ 8 < count ∨
        (speed ≠ 57600 ∧ speed ≠ 115200)) →
      exec (.describeRecord p kind count speed) s = .next (s.failAttempt p h)) ∧
    (∀ d m, h.stage = .modes → h.pending = some d → modeOk d m = true →
      exec (.modeRecord p m) s = .next (s.setPort p { q with
        hs := some { h with wait := 0, pending := some { d with modes := d.modes ++ [m] } } })) ∧
    (∀ d m, h.stage = .modes → h.pending = some d → modeOk d m = false →
      exec (.modeRecord p m) s = .next (s.failAttempt p h)) ∧
    (∀ d, h.stage = .modes → h.pending = some d → d.modes.length = d.count →
      exec (.endRecord p) s = .next (s.setPort p { q with
        hs := some { h with stage := .accepting, wait := 0 }, lastSent := some .accept })) ∧
    (∀ d, h.stage = .modes → h.pending = some d → d.modes.length ≠ d.count →
      exec (.endRecord p) s = .next (s.failAttempt p h)) ∧
    (∀ d, h.stage = .accepting → h.pending = some d → ∃ t, exec (.acceptSent p) s = .next t ∧
      t.port p = { q with state := .ready, desc := some { kind := d.kind, speed := some d.speed, modes := d.modes },
                          mode := 0, ring := [], hs := none, silence := 0, lineSpeed := d.speed } ∧
      (∀ p', p' ≠ p → t.port p' = s.port p') ∧ t.motors = s.motors ∧ t.store = s.store ∧ t.mixer = s.mixer ∧
      t.supply = s.supply ∧
      t.router = s.router.placeAll
        [{ link := .primary,
           notice := .portEvent p .ready none (some (d.kind, d.modes.length, 0)) none s.now }]) ∧
    (∀ (d : PendingDesc) (m : ModeDesc), modeOk d m = true ↔
      d.modes.length < d.count ∧ m.number = d.modes.length ∧ 1 ≤ m.valueCount ∧ m.valueCount ≤ 4 ∧
      10 ≤ m.interval ∧ m.interval ≤ 1000 ∧ m.min ≤ m.max ∧
      (match m.format with
        | .int8 => -128 ≤ m.min ∧ m.max ≤ 127
        | .int16 => -32768 ≤ m.min ∧ m.max ≤ 32767
        | .int32 => -2147483648 ≤ m.min ∧ m.max ≤ 2147483647)) ∧
    (h.stage = .modes → exec (.malformedRecord p) s = .next (s.failAttempt p h)) ∧
    (h.stage = .describe → exec (.malformedRecord p) s = .next s) ∧
    (h.stage ≠ .accepting → 100 ≤ h.wait → exec (.handshakeTimeout p) s = .next (s.failAttempt p h)) ∧
    (h.stage = .accepting ∨ h.wait < 100 → exec (.handshakeTimeout p) s = .next s) ∧
    (h.attempts < 2 → s.failAttempt p h = s.setPort p { q with
      hs := some { stage := .describe, pending := none, attempts := h.attempts + 1, wait := 0 } }) ∧
    (2 ≤ h.attempts → ((s.failAttempt p h).port p).state = .error ∧
      ((s.failAttempt p h).port p).reason = some .noHandshake ∧ ((s.failAttempt p h).port p).hs = none ∧
      (s.failAttempt p h).router = s.router.placeAll
        ({ link := .primary, notice := .portEvent p .error (some .noHandshake) none none s.now } ::
          s.captureEnds p .portError) ∧
      ∀ p', p' ≠ p → (s.failAttempt p h).port p' = s.port p')

/-- R74 to R76: a smart port silent past its limit goes to ERROR with reason SILENT and leaves it after 500 ms;
SELECT_MODE selects a mode of a described port, its ring emptied, and ends the capture on it. R78, R94, R95: the
ERROR hands the host PORT_EVENT with SILENT and then ends the capture on the port PORT_ERROR, a selection ends it
MODE_CHANGED without a PORT_EVENT, and PROBING hands over none. That the two events before their limit change
nothing is the model's choice (log entry 3). -/
def Obligations.SilenceErrorAndSelectMode : Prop :=
  ∀ (p : SensorPort) (s : State), s.supply.power ≠ .sleep →
    let q := s.port p
    (∀ m, q.state = .ready ∨ q.state = .switching → q.smart = true → q.modeDesc = some m →
      (max 300 (3 * m.interval) ≤ q.silence → ∃ t, exec (.silenceTimeout p) s = .next t ∧
        (t.port p).state = .error ∧ (t.port p).reason = some .silent ∧ (t.port p).desc = none ∧
        (∀ p', p' ≠ p → t.port p' = s.port p') ∧ (∀ x ∈ t.sensors.captures, x.port ≠ p) ∧
        t.router = s.router.placeAll
          ({ link := .primary, notice := .portEvent p .error (some .silent) none none s.now } ::
            s.captureEnds p .portError)) ∧
      (q.silence < max 300 (3 * m.interval) → exec (.silenceTimeout p) s = .next s)) ∧
    (q.state = .error → 500 ≤ q.errTime → ∃ t, exec (.errorTimeEnd p) s = .next t ∧
      t.port p = { q with state := .probing, reason := none, candidate := none, departing := none } ∧
      (∀ p', p' ≠ p → t.port p' = s.port p') ∧ t.store = s.store ∧ t.motors = s.motors ∧
      t.sensors.captures = s.sensors.captures ∧ t.router = s.router) ∧
    (q.errTime < 500 → exec (.errorTimeEnd p) s = .next s) ∧
    (∀ (r : Req) (fs : Fields) (n : Nat), s.admits r.link 0x21 = true → decodeFields r.payload = some fs →
      sensorPortField 1 fs = .val p → natField 2 fs = .val n →
      (q.state ≠ .ready → q.state ≠ .switching →
        exec (.selectMode r) s = .next ((s.entered 0x21 r).replied 0x21 r (Reply.refuse .noDevice))) ∧
      (∀ d, q.state = .ready ∨ q.state = .switching → q.desc = some d → (∀ m ∈ d.modes, m.number ≠ n) →
        exec (.selectMode r) s = .next ((s.entered 0x21 r).replied 0x21 r (.invalid [.mode]))) ∧
      (∀ d m, q.state = .ready ∨ q.state = .switching → q.desc = some d → m ∈ d.modes → m.number = n →
        ∃ t, exec (.selectMode r) s = .next t ∧ (t.port p).mode = n ∧ (t.port p).ring = [] ∧
          (t.port p).state = .switching ∧ (t.port p).silence = 0 ∧ (t.port p).desc = q.desc ∧
          (t.port p).arrival = q.arrival ∧ (q.smart = true → (t.port p).lastSent = some (.select n)) ∧
          (∀ p', p' ≠ p → t.port p' = s.port p') ∧ (∀ x ∈ t.sensors.captures, x.port ≠ p) ∧
          t.motors = s.motors ∧ t.mixer = s.mixer ∧ t.supply = s.supply ∧
          t.router = (((s.entered 0x21 r).notifyAll (s.captureEnds p .modeChanged)).replied 0x21 r Reply.ok).router))

/-- R21, R79, R83, R111, R127, R143, R148, R158: the status requests answer and change nothing but the flags their
reply reports: SOUND_STATUS the CLIPPED flag, ROUTE_STATUS the overflow flags. The layouts of the data are the
model's choice (log entries 8 and 9). -/
def Obligations.StatusRequestsAnswer : Prop :=
  ∀ (r : Req) (fs : Fields) (s : State),
    (∀ p, s.admits r.link 0x20 = true → decodeFields r.payload = some fs → sensorPortField 1 fs = .val p →
      exec (.sensorStatus r) s = .next ((s.entered 0x20 r).replied 0x20 r (.plain .ok (s.sensorData p)))) ∧
    (∀ p n, s.admits r.link 0x22 = true → decodeFields r.payload = some fs → sensorPortField 1 fs = .val p →
      natField 2 fs = .val n → 1 ≤ n → n ≤ 16 →
      exec (.readSamples r) s = .next ((s.entered 0x22 r).replied 0x22 r (.plain .ok ((s.port p).samplesData n)))) ∧
    (∀ n i, s.admits r.link 0x33 = true → decodeFields r.payload = some fs → natField 1 fs = .val n →
      Num16.ofNum n = some i →
      exec (.watchStatus r) s =
        .next ((s.entered 0x33 r).replied 0x33 r (.plain .ok (s.watch.entryData (s.watch.entries.get i))))) ∧
    (s.admits r.link 0x33 = true → decodeFields r.payload = some fs → natField 1 fs = .val 0 →
      exec (.watchStatus r) s = .next ((s.entered 0x33 r).replied 0x33 r (.plain .ok s.watch.summaryData))) ∧
    (s.admits r.link 0x4E = true → s.store.compaction = none → r.cls = .ask →
      exec (.soundStatus r) s = .next (State.replied
        { s.entered 0x4E r with mixer := { s.mixer with clipped := false } } 0x4E r
        (.plain .ok (s.store.statusData s.uses ++ s.mixer.statusData s.supply.power)))) ∧
    (s.admits r.link 0x4E = true → s.store.compaction ≠ none →
      exec (.soundStatus r) s = .next ((s.entered 0x4E r).replied 0x4E r (Reply.refuse .busy))) ∧
    (s.admits r.link 0x52 = true → r.cls = .ask → ∃ t, exec (.routeStatus r) s = .next t ∧
      t = State.replied { s.entered 0x52 r with router := (s.entered 0x52 r).router.clearOverflow } 0x52 r
          (.plain .ok (s.entered 0x52 r).routeData) ∧
      t.router.primary.overflow = false ∧ t.router.remote.overflow = false)

/-- R84: a sample is new for a stream when its arrival number lies after the port's mark, counting forward from the
mark by fewer than 2,147,483,648, the wrap of the arrival counter included. -/
def Obligations.NewSamplesByArrivalNumber : Prop :=
  ∀ (mark arrival : Word32),
    (0 < newCount mark arrival ↔ ∃ n, 0 < n ∧ n < 2147483648 ∧ arrival = mark + BitVec.ofNat 32 n) ∧
    ∀ n, n < 2147483648 → newCount mark (mark + BitVec.ofNat 32 n) = n

/-- R85 to R87, R89: STREAM_OPEN takes the lowest free id, every lower one being open, and a mark for each port
listed, once and in ascending order, at its present arrival number, the interval raised to 10 ms, the destination the
one named or the requester; FULL when all eight are open; STREAM_CLOSE closes one, but not the tablet one of the host;
an expiry moves on by the interval, and places a REPORT when the destination's notice queue has room. With it the mark
of each port whose section carried samples moves to the newest new sample, and no other. That an expiry at another
time changes nothing is the model's choice (log entry 3). -/
def Obligations.StreamsOpenExpireAndClose : Prop :=
  ∀ (r : Req) (fs : Fields) (i : StreamId) (s : State),
    (s.admits r.link 0x23 = true → decodeFields r.payload = some fs → (∀ j, s.sensors.streams.get j ≠ none) →
      exec (.streamOpen r) s = .next ((s.entered 0x23 r).replied 0x23 r (Reply.refuse .full))) ∧
    (∀ w n b d, s.admits r.link 0x23 = true → decodeFields r.payload = some fs →
      s.sensors.streams.get i = none → (∀ j, j.num < i.num → s.sensors.streams.get j ≠ none) →
      fieldValue 1 fs = some w → w ≠ [] → (∀ y ∈ w, 1 ≤ y.toNat ∧ y.toNat ≤ 8) →
      natField 2 fs = .val n → n ≤ 10000 → natField 3 fs = .val b → 1 ≤ b → b ≤ 16 →
      (fieldValue 4 fs = none ∧ d = r.link) ∨ natField 4 fs = .val (linkCode d) →
      (fieldValue 4 fs = none ∨ d = .primary ∨ s.router.up = true →
        exec (.streamOpen r) s = .next (State.replied
          { s.entered 0x23 r with sensors := s.sensors.setStream i (some
              { opener := r.link, dest := d, interval := max 10 n, burst := b,
                next := s.now + BitVec.ofNat 32 (max 10 n),
                marks := (Num8.all.filter (fun p => w.any (fun y => y.toNat == p.num))).map
                  (fun p => (p, (s.port p).arrival)) }) }
          0x23 r (if n < 10 then .clamped [2] (fieldNat 1 1 i.num ++ fieldNat 2 2 10)
            else .plain .ok (fieldNat 1 1 i.num ++ fieldNat 2 2 n)))) ∧
      (fieldValue 4 fs ≠ none → d = .remote → s.router.up = false →
        exec (.streamOpen r) s = .next ((s.entered 0x23 r).replied 0x23 r (.invalid [.destination])))) ∧
    (∀ x, s.admits r.link 0x24 = true → decodeFields r.payload = some fs → natField 1 fs = .val i.num →
      s.sensors.streams.get i = some x →
      (r.link = .primary ∨ x.opener = .remote →
        exec (.streamClose r) s = .next (State.replied
          { s.entered 0x24 r with sensors := s.sensors.setStream i none } 0x24 r Reply.ok)) ∧
      (r.link = .remote → x.opener = .primary →
        exec (.streamClose r) s = .next ((s.entered 0x24 r).replied 0x24 r (Reply.refuse .denied)))) ∧
    (s.admits r.link 0x24 = true → decodeFields r.payload = some fs → natField 1 fs = .val i.num →
      s.sensors.streams.get i = none →
      exec (.streamClose r) s = .next ((s.entered 0x24 r).replied 0x24 r (.invalid [.id]))) ∧
    (∀ x, s.supply.power ≠ .sleep → s.sensors.streams.get i = some x → s.now = x.next →
      ((s.router.link x.dest).notices.length < 16 → exec (.streamExpiry i) s = .next (State.notify
        { s with sensors := s.sensors.setStream i (some
            { x with next := x.next + BitVec.ofNat 32 x.interval, marks := s.movedMarks x }) }
        x.dest (.report (s.reportLayout i x)))) ∧
      (16 ≤ (s.router.link x.dest).notices.length → exec (.streamExpiry i) s = .next
        { s with sensors := s.sensors.setStream i (some { x with next := x.next + BitVec.ofNat 32 x.interval }) })) ∧
    (∀ x, s.sensors.streams.get i = some x → s.now ≠ x.next → exec (.streamExpiry i) s = .next s) ∧
    (∀ x : Stream, (s.movedMarks x).length = x.marks.length ∧
      ∀ (n : Nat) (p : SensorPort) (mark : Word32) (z : Section), x.marks[n]? = some (p, mark) →
        (s.reportSections x)[n]? = some z →
        let fresh := (s.port p).ring.filter (fun y => decide (0 < newCount mark y.arrival))
        (z.carried = false → (s.movedMarks x)[n]? = some (p, mark)) ∧
        (∀ older newest, z.carried = true → fresh = older ++ [newest] →
          (s.movedMarks x)[n]? = some (p, newest.arrival)) ∧
        (z.carried = true → fresh ≠ []))

/-- R87 to R89, 11.7: a REPORT of at most eight ports fits a payload of 240 bytes and holds a section for every port,
in order. The section of a READY port carries its newest new samples, newest first: as many as are new and in its
ring, at most the burst limit and at most what fits the room left after the headers and the samples of the
sections before; the more flag says that new samples were left out, in the ring or lost from it. That of a port
in another state carries the state, the reason of an ERROR and no sample. Which samples of before a SOFT reset
count as new is the model's choice (log entry 51). -/
def Obligations.ReportFitsItsFrame : Prop :=
  (∀ (i : StreamId) (x : Stream) (s : State), x.marks.length ≤ 8 →
    (∀ p, ∀ z ∈ (s.port p).ring, ∀ y, (s.port p).modeDesc = some y → z.values.length = y.valueCount) →
    (s.reportLayout i x).length ≤ 240 ∧ (s.reportLayout i x).take 6 =
      byte i.num :: (leBytes 4 s.now.toNat ++ [byte x.marks.length]) ∧
    (s.reportSections x).length = x.marks.length ∧ ∀ z ∈ s.reportSections x, 6 ≤ z.bytes.length) ∧
  (∀ (i : StreamId) (x : Stream) (s : State),
    (s.reportLayout i x).drop 6 = (s.reportSections x).flatMap (fun z => z.bytes) ∧
    ∀ (n : Nat) (p : SensorPort) (mark : Word32) (z : Section), x.marks[n]? = some (p, mark) →
      (s.reportSections x)[n]? = some z →
      let q := s.port p
      let fresh := q.ring.filter (fun y => decide (0 < newCount mark y.arrival))
      let room := 234 - 6 * x.marks.length - (((s.reportSections x).take n).map (fun y => y.bytes.length - 6)).sum
      (q.state ≠ .ready → z.carried = false ∧ z.bytes =
        [byte p.num, byte (portStateCode q.state),
          (match q.state, q.reason with | .error, some e => byte (reasonCode e) | _, _ => 255), byte q.mode, 255, 0]) ∧
      (∀ m, q.state = .ready → q.modeDesc = some m →
        let width : Nat := match m.format with | .int8 => 1 | .int16 => 2 | .int32 => 4
        let k := min (min fresh.length x.burst) (room / (5 + m.valueCount * width))
        let more : Nat := if k < max (newCount mark q.arrival) fresh.length then 128 else 0
        z.carried = decide (0 < k) ∧ z.bytes =
          [byte p.num, byte (portStateCode q.state), 255, byte q.mode,
            byte (m.valueCount + 16 * formatCode m.format), byte (k + more)] ++
          (fresh.reverse.take k).flatMap (fun y =>
            leBytes 4 y.time.toNat ++ (byte y.mode :: y.values.flatMap (fun v => leInt width v)))))

/-- R90, R91, R96: CAPTURE_START with fields that fail is INVALID with exactly their checks; with fields that pass it
is refused, in this order, INVALID(REGION) without the region, INVALID(KIND) for a clip, BUSY with a capture on the
port, FULL with four captures, ACCESS for a region of the window or of another capture, NO_DEVICE for a port that is
not READY, INVALID(VALUE_INDEX) for a value the selected mode does not have. Else it fills in a capture record and
opens its region, a wrapping capture on a full region from offset 0; a STOP capture on a full region ends FULL at
once, nothing written, its region READY; CAPTURE_STOP frees the entry and makes the region READY; the tablet may not
stop a capture of the host. R92, R93: every decim-th sample of a capture's port is recorded: the value clamped to
-32768 to 32767, as two bytes of two's complement, least significant first, at the write offset, which rises by 2, the
fill length rising with it; the samples between only count. That PASSIVE_SAMPLE and DATA_RECORD offer their reading so
is stated of exec in ReadingsJoinTheRing. R93 to R95: at the end of the region a STOP capture ends FULL, its entry
free, its region READY and CAPTURE_END sent to its starter, and a WRAP capture goes on from offset 0 with its wrapped
flag set. -/
def Obligations.CapturesStartRecordAndStop : Prop :=
  (∀ (r : Req) (fs : Fields) (s : State), s.admits r.link 0x25 = true → s.store.compaction = none →
     decodeFields r.payload = some fs →
     let x := CaptureFields.read fs
     let bad := x.port.need ++ x.region.need ++ x.index.need ++ x.decim.need ++ x.endMode.need
     (bad ≠ [] → exec (.captureStart r) s = .next ((s.entered 0x25 r).replied 0x25 r (.invalid bad))) ∧
     (∀ n, natField 1 fs = .val n → (Check.port ∈ bad ↔ n < 1 ∨ 8 < n)) ∧
     (∀ n, natField 2 fs = .val n → (Check.region ∈ bad ↔ n < 1 ∨ 24 < n)) ∧
     (∀ n, natField 3 fs = .val n → (Check.valueIndex ∈ bad ↔ 3 < n)) ∧
     (∀ n, natField 4 fs = .val n → (Check.decimation ∈ bad ↔ n < 1 ∨ 100 < n)) ∧
     (∀ n, natField 5 fs = .val n → (Check.endMode ∈ bad ↔ 1 < n)) ∧
     (Check.missingField ∈ bad ↔ fieldValue 1 fs = none ∨ fieldValue 2 fs = none ∨ fieldValue 3 fs = none ∨
       fieldValue 4 fs = none ∨ fieldValue 5 fs = none)) ∧
  (∀ (r : Req) (fs : Fields) (p : SensorPort) (id index decim : Nat) (e : EndMode) (s : State),
     s.admits r.link 0x25 = true → s.store.compaction = none → decodeFields r.payload = some fs →
     CaptureFields.read fs = { port := .val p, region := .val id, index := .val index, decim := .val decim,
                               endMode := .val e } →
     let refused (y : Reply) : Prop := exec (.captureStart r) s = .next ((s.entered 0x25 r).replied 0x25 r y)
     (s.store.find id = none → refused (.invalid [.region])) ∧
     ∀ g, s.store.find id = some g →
       (g.kind = .clip → refused (.invalid [.kind])) ∧
       (g.kind = .capture →
         (s.sensors.captureOn p ≠ none → refused (Reply.refuse .busy)) ∧
         (s.sensors.captureOn p = none →
           (4 ≤ s.sensors.captures.length → refused (Reply.refuse .full)) ∧
           (s.sensors.captures.length < 4 →
             (s.store.windowOn id = true ∨ s.sensors.capturing id = true → refused (Reply.refuse .access)) ∧
             (s.store.windowOn id = false → s.sensors.capturing id = false →
               ((s.port p).state ≠ .ready → refused (Reply.refuse .noDevice)) ∧
               ((s.port p).state = .ready → (∀ m, (s.port p).modeDesc = some m → m.valueCount ≤ index) →
                 refused (.invalid [.valueIndex])) ∧
               ((s.port p).state = .ready → (∃ m, (s.port p).modeDesc = some m ∧ index < m.valueCount) →
                 e = .stop → g.fill = g.length →
                 exec (.captureStart r) s = .next (State.replied (State.notify
                   { s.entered 0x25 r with store := s.store.update id (fun x => { x with ready := true }) } r.link
                   (.captureEnd { port := p, region := id, index := index, decim := decim, endMode := .stop,
                                  starter := r.link, count := 0, offset := g.fill, written := 0, wrapped := false }
                     .full g.fill s.now)) 0x25 r Reply.ok))))))) ∧
  (∀ (r : Req) (fs : Fields) (p : SensorPort) (id index decim : Nat) (e : EndMode) (g : Region) (s : State),
     decodeFields r.payload = some fs → sensorPortField 1 fs = .val p →
     (s.admits r.link 0x25 = true → s.store.compaction = none →
       CaptureFields.read fs = { port := .val p, region := .val id, index := .val index, decim := .val decim,
                                 endMode := .val e } →
       s.store.find id = some g → g.kind = .capture → s.sensors.captureOn p = none →
       s.sensors.captures.length < 4 → s.store.windowOn id = false → s.sensors.capturing id = false →
       (s.port p).state = .ready → (∃ m, (s.port p).modeDesc = some m ∧ index < m.valueCount) →
       (g.fill < g.length ∨ e = .wrap) →
       exec (.captureStart r) s = .next (State.replied
         { s.entered 0x25 r with
             sensors := { s.sensors with captures := s.sensors.captures ++
               [{ port := p, region := g.id, index := index, decim := decim, endMode := e, starter := r.link, count := 0,
                  offset := if e = .wrap ∧ g.fill = g.length then 0 else g.fill, written := 0,
                  wrapped := decide (e = .wrap ∧ g.fill = g.length) }] },
             store := s.store.update g.id (fun x => { x with ready := false }) } 0x25 r Reply.ok)) ∧
     (s.admits r.link 0x26 = true → s.sensors.captureOn p = none →
       exec (.captureStop r) s = .next ((s.entered 0x26 r).replied 0x26 r (.invalid [.capture]))) ∧
     (∀ c, s.admits r.link 0x26 = true → s.sensors.captureOn p = some c →
       (r.link = .remote → c.starter = .primary →
         exec (.captureStop r) s = .next ((s.entered 0x26 r).replied 0x26 r (Reply.refuse .denied))) ∧
       (r.link = .primary ∨ c.starter = .remote → ∃ t, exec (.captureStop r) s = .next t ∧
         (∀ x ∈ t.sensors.captures, x.port ≠ p) ∧
         t.store = s.store.update c.region (fun x => { x with ready := true }) ∧
         t.sensors.ports = s.sensors.ports ∧ t.motors = s.motors ∧ t.mixer = s.mixer ∧ t.watch = s.watch ∧
         t.supply = s.supply ∧
         (r.cls = .ask → (t.router.link r.link).replies = (s.router.link r.link).replies ++
           [replyFrame 0x26 r.tag (byte 0 :: (fieldNat 1 4 c.written ++ fieldNat 2 4 c.offset))])))) ∧
  (∀ (p : SensorPort) (values : List Int) (c : Capture) (g : Region) (s : State),
     s.sensors.captureOn p = some c → s.store.find c.region = some g → Memory.wf s.store.mem = true →
     (c.count + 1 < c.decim →
       s.offer p values = { s with sensors := s.sensors.setCapture { c with count := c.count + 1 } }) ∧
     (c.decim ≤ c.count + 1 → g.base + c.offset + 1 < storeSize →
       let t := s.offer p values
       let v := max (-32768) (min 32767 (values.getD c.index 0))
       let n := (if v < 0 then v + 65536 else v).toNat
       let fill := max g.fill (c.offset + 2)
       (Memory.read (g.base + c.offset) t.store.mem).toNat = n % 256 ∧
       (Memory.read (g.base + c.offset + 1) t.store.mem).toNat = n / 256 ∧
       (∀ a, a ≠ g.base + c.offset → a ≠ g.base + c.offset + 1 →
         Memory.read a t.store.mem = Memory.read a s.store.mem) ∧
       t.motors = s.motors ∧ t.watch = s.watch ∧ t.mixer = s.mixer ∧ t.supply = s.supply ∧
       t.sensors.ports = s.sensors.ports ∧
       (c.offset + 2 < g.length → t.router = s.router ∧ t.store.find c.region = some { g with fill := fill } ∧
         ∃ d ∈ t.sensors.captures, d.port = p ∧ d.offset = c.offset + 2 ∧ d.count = 0 ∧ d.wrapped = c.wrapped ∧
           (c.written < 4294967295 → d.written = c.written + 1)) ∧
       (g.length ≤ c.offset + 2 → c.endMode = .wrap → t.router = s.router ∧
         t.store.find c.region = some { g with fill := fill } ∧
         ∃ d ∈ t.sensors.captures, d.port = p ∧ d.offset = 0 ∧ d.count = 0 ∧ d.wrapped = true ∧
           (c.written < 4294967295 → d.written = c.written + 1)) ∧
       (g.length ≤ c.offset + 2 → c.endMode = .stop → c.written < 4294967295 →
         (∀ d ∈ t.sensors.captures, d.port ≠ p) ∧
         t.store.find c.region = some { g with fill := fill, ready := true } ∧
         t.router = s.router.place c.starter (.captureEnd
           { c with count := 0, offset := c.offset + 2, written := c.written + 1 } .full fill s.now))))

/-! ### The watch unit -/

/-- R108 to R110: WATCH_SET writes an entry with the source, comparison, hysteresis, debounce, rearm, actions and
notify link of the request (hysteresis 0, debounce 1, rearm ONCE and no notify link when absent) and its run state
clear, ACTIVE or, when its sensor port does not fit, DORMANT; WATCH_CLEAR empties one; WATCH_REARM makes a FIRED one
ACTIVE again, clears the run state of an ACTIVE EDGE one and leaves an ACTIVE ONCE or DORMANT one; WATCH_ENABLE
enables and disables, leaves an enabled one at yes, sets the reason BY_REQUEST at no, and is INVALID(STATE) for an
EMPTY one. The tablet is DENIED an entry of the host. SOURCE, COMPARISON, RANGE and ACTIONS are among the failed
checks of WATCH_SET exactly as R108 says. How the composite fields are read, and that bytes after their parts are
ignored, are the model's choice (log entries 8, 10 and 59). -/
def Obligations.WatchEntriesAreSetClearedAndRearmed : Prop :=
  ∀ (r : Req) (fs : Fields) (i : WatchId) (s : State), decodeFields r.payload = some fs →
    natField 1 fs = .val i.num →
    let o := s.watch.entries.get i
    let x := WatchFields.read fs
    (∀ c ∈ [(Instr.watchSet r, (0x30 : Byte)), (.watchClear r, 0x31), (.watchRearm r, 0x32)] ++
        (if (flagField 2 fs).need = [] then [(.watchEnable r, 0x35)] else []),
      s.admits r.link c.2 = true → r.link = .remote → (∃ e, o = some e ∧ e.owner = .primary) →
      exec c.1 s = .next ((s.entered c.2 r).replied c.2 r (Reply.refuse .denied))) ∧
    (r.link = .primary ∨ (∀ e, o = some e → e.owner = .remote) →
      (s.admits r.link 0x30 = true → x.bad ≠ [] →
        exec (.watchSet r) s = .next ((s.entered 0x30 r).replied 0x30 r (.invalid x.bad))) ∧
      (s.admits r.link 0x30 = true → x.bad = [] →
        let e := (x.entry r.link).activated s.sensors.ports
        exec (.watchSet r) s = .next (State.replied
          { s.entered 0x30 r with watch := s.watch.setEntry i (some e) } 0x30 r
          (.plain .ok (fieldNat 1 1 (watchStateCode (some e.state))))) ∧
        e.owner = r.link ∧ e.cond = false ∧ e.trueCount = 0 ∧ e.latch = false ∧ e.last = none ∧ e.fires = 0 ∧
        e.state = (if e.source.fits s.sensors.ports then .active else .dormant) ∧
        (∃ v, fieldValue 2 fs = some v ∧ parseSource v = .val e.source) ∧
        (∃ v, fieldValue 3 fs = some v ∧ parseComparison v = .val e.cmp) ∧
        (∀ n, natField 4 fs = .val n → e.hyst = n) ∧ (fieldValue 4 fs = none → e.hyst = 0) ∧
        (∀ n, natField 5 fs = .val n → e.debounce = n) ∧ (fieldValue 5 fs = none → e.debounce = 1) ∧
        (natField 6 fs = .val 0 ∨ fieldValue 6 fs = none → e.rearm = .once) ∧
        (natField 6 fs = .val 1 → e.rearm = .edge) ∧
        (fieldValues 7 fs).map parseAction = e.actions.map Composite.val ∧
        (natField 8 fs = .val 0 → e.notify = some .primary) ∧ (natField 8 fs = .val 1 → e.notify = some .remote) ∧
        (fieldValue 8 fs = none → e.notify = none)) ∧
      (s.admits r.link 0x31 = true →
        exec (.watchClear r) s = .next (State.replied
          { s.entered 0x31 r with watch := s.watch.setEntry i none } 0x31 r Reply.ok)) ∧
      (∀ e, s.admits r.link 0x32 = true → o = some e → e.state = .fired →
        exec (.watchRearm r) s = .next (State.replied
          { s.entered 0x32 r with watch := s.watch.setEntry i (some (e.activated s.sensors.ports)) } 0x32 r
          (.plain .ok (fieldNat 1 1 (watchStateCode (some (e.activated s.sensors.ports).state)))))) ∧
      (s.admits r.link 0x32 = true → (o = none ∨ ∃ e w, o = some e ∧ e.state = .disabled w) →
        exec (.watchRearm r) s = .next ((s.entered 0x32 r).replied 0x32 r (.invalid [.state]))) ∧
      (∀ e w, s.admits r.link 0x35 = true → o = some e → e.state = .disabled w → flagField 2 fs = .val true →
        exec (.watchEnable r) s = .next (State.replied
          { s.entered 0x35 r with watch := s.watch.setEntry i (some (e.activated s.sensors.ports)) } 0x35 r
          (.plain .ok (fieldNat 1 1 (watchStateCode (some (e.activated s.sensors.ports).state)))))) ∧
      (∀ e, s.admits r.link 0x35 = true → o = some e → (∀ w, e.state ≠ .disabled w) → flagField 2 fs = .val false →
        exec (.watchEnable r) s = .next (State.replied
          { s.entered 0x35 r with watch := s.watch.setEntry i (some
              { e with cond := false, trueCount := 0, latch := false, state := .disabled .byRequest }) } 0x35 r
          (.plain .ok (fieldNat 1 1 4)))) ∧
      (∀ e, s.admits r.link 0x32 = true → o = some e → e.state = .active ∨ e.state = .dormant →
        exec (.watchRearm r) s = .next (State.replied
          { s.entered 0x32 r with watch := s.watch.setEntry i (some
              (if e.state = .active ∧ e.rearm = .edge
                then { e with cond := false, trueCount := 0, latch := false } else e)) } 0x32 r
          (.plain .ok (fieldNat 1 1 (watchStateCode (some e.state)))))) ∧
      (∀ b, s.admits r.link 0x35 = true → o = none → flagField 2 fs = .val b →
        exec (.watchEnable r) s = .next ((s.entered 0x35 r).replied 0x35 r (.invalid [.state]))) ∧
      (∀ e, s.admits r.link 0x35 = true → o = some e → (∀ w, e.state ≠ .disabled w) → flagField 2 fs = .val true →
        exec (.watchEnable r) s = .next (State.replied
          { s.entered 0x35 r with watch := s.watch.setEntry i (some e) } 0x35 r
          (.plain .ok (fieldNat 1 1 (watchStateCode (some e.state)))))) ∧
      (∀ e w, s.admits r.link 0x35 = true → o = some e → e.state = .disabled w → flagField 2 fs = .val false →
        exec (.watchEnable r) s = .next (State.replied
          { s.entered 0x35 r with watch := s.watch.setEntry i (some { e with state := .disabled .byRequest }) } 0x35 r
          (.plain .ok (fieldNat 1 1 4)))) ∧
      (∀ e : Watch, let d := e.activated s.sensors.ports
        d = { e with cond := false, trueCount := 0, latch := false,
                     state := if e.source.fits s.sensors.ports then .active else .dormant })) ∧
    (let h := x.hyst.get?.getD 0
     (Check.source ∈ x.bad ↔
       fieldValue 2 fs = none ∨ ∃ v, fieldValue 2 fs = some v ∧ parseSource v = .invalid) ∧
     (Check.comparison ∈ x.bad ↔ fieldValue 3 fs = none ∨ ∃ v, fieldValue 3 fs = some v ∧
       (parseComparison v = .invalid ∨ ∃ lo hi, (parseComparison v = .val (.inside lo hi) ∧ hi < lo) ∨
         (parseComparison v = .val (.outside lo hi) ∧ (hi < lo ∨ hi - lo < 2 * (h : Int))))) ∧
     (Check.range ∈ x.bad ↔ (∃ n, natField 4 fs = .val n ∧ 65535 < n) ∨
       (∃ n, natField 5 fs = .val n ∧ (n < 1 ∨ 50 < n)) ∨ (∃ n, natField 6 fs = .val n ∧ 1 < n) ∨
       ∃ n, natField 8 fs = .val n ∧ 1 < n) ∧
     (Check.actions ∈ x.bad ↔ fieldValues 7 fs = [] ∨ 3 < (fieldValues 7 fs).length ∨
       ∃ v ∈ fieldValues 7 fs, parseAction v = .invalid)) ∧
    (∀ (k a b c : Byte) (rest : List Byte),
      (parseSource [0, a, b, c] = .invalid ↔ a.toNat < 1 ∨ 8 < a.toNat ∨ 7 < b.toNat ∨ 3 < c.toNat) ∧
      (parseSource [1, a, b] = .invalid ↔ 5 < a.toNat ∨ 3 < b.toNat) ∧
      (parseSource [2, a] = .invalid ↔ a.toNat < 1 ∨ 8 < a.toNat) ∧
      (parseSource [3, a] = .invalid ↔ a.toNat < 1 ∨ 24 < a.toNat) ∧ parseSource [4] = .val .battery ∧
      (4 < k.toNat → parseSource (k :: rest) = .invalid) ∧
      (parseComparison (k :: rest) = .invalid ↔ 5 < k.toNat) ∧
      (k = 0 ∨ k = 1 → (parseAction (k :: rest) = .invalid ↔ rest = [] ∨ ∃ y ∈ rest, 5 < y.toNat)) ∧
      (parseAction [2, a, b, c] = .invalid ↔ a.toNat < 1 ∨ 24 < a.toNat ∨ 7 < c.toNat) ∧
      parseAction [3] = .val .stopVoices ∧
      (parseAction [4, a, b] = .invalid ↔ a.toNat < 1 ∨ 8 < a.toNat ∨ 1 < b.toNat) ∧
      (parseAction [5, a, b] = .invalid ↔ 1 < a.toNat) ∧
      (5 < k.toNat → parseAction (k :: rest) = .invalid)) ∧
    (∀ a b c : Byte,
      (∀ p : SensorPort, p.num = a.toNat → b.toNat ≤ 7 → c.toNat ≤ 3 →
        parseSource [0, a, b, c] = .val (.sensor p b.toNat c.toNat)) ∧
      (∀ (p : MotorPort) (z : Quantity), p.code = a.toNat →
        b.toNat = (match z with | .position => 0 | .speed => 1 | .current => 2 | .stall => 3) →
        parseSource [1, a, b] = .val (.motor p z)) ∧
      (∀ j : VirtualId, j.num = a.toNat → parseSource [2, a] = .val (.virt j)) ∧
      (1 ≤ a.toNat → a.toNat ≤ 24 → parseSource [3, a] = .val (.cue a.toNat)) ∧
      (1 ≤ a.toNat → a.toNat ≤ 24 → c.toNat ≤ 7 → parseAction [2, a, b, c] = .val (.play a.toNat b.toNat c.toNat)) ∧
      (∀ j : VirtualId, j.num = a.toNat → b.toNat ≤ 1 → parseAction [4, a, b] = .val (.setVirtual j b.toNat)) ∧
      (∀ l : Link, a.toNat = (match l with | .primary => 0 | .remote => 1) →
        parseAction [5, a, b] = .val (.notify l b.toNat))) ∧
    (∀ lo hi : List Byte, lo.length = 4 → hi.length = 4 →
      parseComparison (0 :: lo) = .val (.above (leSigned lo)) ∧ parseComparison (1 :: lo) = .val (.below (leSigned lo)) ∧
      parseComparison (2 :: (lo ++ hi)) = .val (.inside (leSigned lo) (leSigned hi)) ∧
      parseComparison (3 :: (lo ++ hi)) = .val (.outside (leSigned lo) (leSigned hi)) ∧
      parseComparison (4 :: lo) = .val (.equal (leSigned lo)) ∧ parseComparison [5] = .val .change) ∧
    (∀ ps : List MotorPort, ps ≠ [] →
      let set := MotorPort.all.filter (fun p => ps.contains p)
      parseAction (0 :: portBytes ps) = .val (.brake set) ∧ parseAction (1 :: portBytes ps) = .val (.coast set))

/-- R101, R112: SET_VIRTUAL stores its value and then evaluates the ACTIVE entries on the input in ascending order of
id, each at depth 1, before its reply, which carries how many were evaluated and how many firings there were.
Where no watching entry writes an input, each is evaluated once, with the value stored: R102, R103 give its
record, and the reply counts those that fired; with none watching nothing is evaluated. R106: the write of an
action is stored and evaluated in the same way before the next action, one depth deeper than its entry; at depth
4 an action whose input an ACTIVE entry watches is not performed, the entry becomes DISABLED with reason LOOP and
its later actions are not performed; an action whose input none watches is performed. R103, R107: a firing
counts, performs its actions in list order, takes the state its rearm gives and then hands its WATCH_FIRED over,
with its depth. An entry is evaluated when its turn comes if it is ACTIVE then, the model's choice (log entry
61), and so are that outer firings of an entry disabled for LOOP go on, the link of their notices, and the 2-byte
size of the firings field (log entries 54, 44 and 8). -/
def Obligations.SetVirtualStoresAndEvaluates : Prop :=
  (∀ (r : Req) (fs : Fields) (i : VirtualId) (v : Int) (s : State), s.admits r.link 0x34 = true →
    decodeFields r.payload = some fs → natField 1 fs = .val i.num → intField 2 fs = .val v →
    -2147483648 ≤ v → v ≤ 2147483647 →
    (s.watch.watched i = false →
      exec (.setVirtual r) s = .next (State.replied
        { s.entered 0x34 r with watch := { s.watch with virt := s.watch.virt.set i v } } 0x34 r
        (.plain .ok (fieldNat 1 1 0 ++ fieldNat 2 2 0)))) ∧
    (∃ t, exec (.setVirtual r) s = .next t ∧ t.sensors = s.sensors ∧ t.store = s.store ∧ t.supply = s.supply ∧
      t.watch.scanEnc = s.watch.scanEnc ∧
      (∀ k, s.watch.entries.get k = none → t.watch.entries.get k = none)) ∧
    (let z := evalEach (evalWith s.watchFeed 3) (fun x => x == .virt i) (fun _ => v) Num16.all
        ((s.entered 0x34 r).reach.setInput i v)
     exec (.setVirtual r) s = .next (((s.entered 0x34 r).withReach z.1).replied 0x34 r
       (.plain .ok (fieldNat 1 1 z.2.1 ++ fieldNat 2 2 z.2.2)))) ∧
    (let on (k : WatchId) : Bool :=
        (s.watch.entries.get k).any (fun e => e.state == .active && e.source == .virt i)
     let fires (k : WatchId) : Bool := on k && (s.watch.entries.get k).any (fun e => (e.seen v).fires?)
     (∀ k e, s.watch.entries.get k = some e → on k = true → ∀ a ∈ e.actions, ∀ j b, a ≠ .setVirtual j b) →
     ∃ t, exec (.setVirtual r) s = .next t ∧ t.watch.virt = s.watch.virt.set i v ∧
       (∀ k, on k = false → t.watch.entries.get k = s.watch.entries.get k) ∧
       (∀ k e, s.watch.entries.get k = some e → on k = true →
         t.watch.entries.get k = some
           { e with
               cond := e.newCond v, last := some v,
               trueCount := if e.newCond v = true then min e.debounce (e.trueCount + 1) else 0,
               latch := (e.newCond v && e.latch) || (fires k && e.rearm == .edge),
               state := if fires k = true ∧ e.rearm = .once then .fired else .active,
               fires := if fires k = true then min 65535 (e.fires + 1) else e.fires }) ∧
       (r.cls = .ask → (t.router.link r.link).replies = (s.router.link r.link).replies ++
         [replyFrame 0x34 r.tag (byte 0 ::
           (fieldNat 1 1 (Num16.all.filter on).length ++ fieldNat 2 2 (Num16.all.filter fires).length))]))) ∧
  (∀ (ev : Evaluate) (x : Source → Bool) (value : Watch → Int) (k : WatchId) (ks : List WatchId) (w : Reach),
    evalEach ev x value [] w = (w, 0, 0) ∧
    (∀ e, w.watch.entries.get k = some e → e.state = .active → x e.source = true →
      let r := ev k (value e) w
      let y := evalEach ev x value ks r.1
      evalEach ev x value (k :: ks) w = (y.1, y.2.1 + 1, r.2 + y.2.2)) ∧
    ((∀ e, w.watch.entries.get k = some e → e.state ≠ .active ∨ x e.source = false) →
      evalEach ev x value (k :: ks) w = evalEach ev x value ks w)) ∧
  (∀ (f : WatchFeed) (n : Nat) (k : WatchId) (v : Int) (e : Watch) (w : Reach), n ≤ 3 →
    w.watch.entries.get k = some e →
    let depth := 4 - n
    let inner : Option Evaluate := match n with | 0 => none | j + 1 => some (evalWith f j)
    let e1 := e.seen v
    (e1.fires? = false → evalWith f n k v w = (w.update k (fun _ => e1), 0)) ∧
    (e1.fires? = true →
      let x := performActions f inner k v e.actions
        (w.update k (fun _ => { e1 with fires := min 65535 (e1.fires + 1) }))
      (evalWith f n k v w).2 = x.2.2 + 1 ∧
      ∀ y, x.1.watch.entries.get k = some y →
        let z : Watch :=
          { y with state := if y.state = .active ∧ y.rearm = .once then .fired else y.state,
                   latch := y.latch || (y.state == .active && y.rearm == .edge) }
        let dest : Option Link := if y.notify = none ∧ y.state = .disabled .loop then some .primary else y.notify
        (evalWith f n k v w).1 =
          (match dest with
            | some l => (x.1.update k (fun _ => z)).send
                [{ link := l, notice := .watchFired k v depth z.state z.fires x.2.1 f.time }]
            | none => x.1.update k (fun _ => z)))) ∧
  (∀ (f : WatchFeed) (n : Nat) (k : WatchId) (v : Int) (i : VirtualId) (b : Nat) (as : List Action) (w : Reach),
    performActions f none k v [] w = (w, [], 0) ∧
    (let z := evalEach (evalWith f n) (fun x => x == .virt i) (fun _ => (b : Int)) Num16.all (w.setInput i b)
     let y := performActions f (some (evalWith f n)) k v as z.1
     performActions f (some (evalWith f n)) k v (.setVirtual i b :: as) w = (y.1, .done :: y.2.1, z.2.2 + y.2.2)) ∧
    (w.watch.watched i = true →
      performActions f none k v (.setVirtual i b :: as) w =
        (w.update k (fun e => { e with state := .disabled .loop }), .notPerformed :: as.map (fun _ => .notPerformed),
          0)) ∧
    (w.watch.watched i = false →
      let y := performActions f none k v as (w.setInput i b)
      performActions f none k v (.setVirtual i b :: as) w = (y.1, .done :: y.2.1, y.2.2)))

/-- R102: the comparisons with their hysteresis. R103: an ACTIVE entry whose debounce the evaluation reaches fires at
depth 1; where its actions write no virtual input its count rises, and it becomes FIRED under ONCE or latched
under EDGE. Otherwise WATCH_FIRE changes nothing. R100: a scan keeps the encoder counts of the ports with a
motor, clears the run state of the ACTIVE entries on a port without one, and evaluates the ACTIVE entries on a
port with a motor and those on the battery in ascending order of id, each at depth 1 with the value of the table;
where none of them writes a virtual input, each gets the record R102 and R103 give. R104: BRAKE and COAST cut
every port of the set that has a motor and is not in FAULT, and their result names the ports skipped; R105: PLAY
starts a voice of the arbiter or carries the status of its refusal, STOP_VOICES ends every playing voice.
WATCH_FIRE as a command of its own, without effect where the evaluation does not fire, a MOTOR SPEED past the
range of a value, the skipped set listed from A to F, and that an entry is evaluated when its turn comes if it is
ACTIVE then, are the model's choices (log entries 3, 47, 50 and 61). -/
def Obligations.WatchComparesFiresAndScans : Prop :=
  (∀ (e : Watch) (v x : Int),
     (∀ lo, e.cmp = .above lo → (e.newCond v = true ↔ if e.cond then lo - e.hyst ≤ v else lo < v)) ∧
     (∀ hi, e.cmp = .below hi → (e.newCond v = true ↔ if e.cond then v ≤ hi + e.hyst else v < hi)) ∧
     (∀ lo hi, e.cmp = .inside lo hi →
       (e.newCond v = true ↔ if e.cond then lo - e.hyst ≤ v ∧ v ≤ hi + e.hyst else lo ≤ v ∧ v ≤ hi)) ∧
     (∀ lo hi, e.cmp = .outside lo hi →
       (e.newCond v = true ↔ if e.cond then v < lo + e.hyst ∨ hi - e.hyst < v else v < lo ∨ hi < v)) ∧
     (∀ n, e.cmp = .equal n → (e.newCond v = true ↔ v = n)) ∧
     (e.cmp = .change → e.last = some x → (e.newCond v = true ↔ v ≠ x)) ∧
     (e.cmp = .change → e.last = none → e.newCond v = false)) ∧
  (∀ (i : WatchId) (v : Int) (e : Watch) (s : State), s.supply.power ≠ .sleep → s.watch.entries.get i = some e →
     let e1 := e.seen v
     (e.state = .active → e1.fires? = true → (∀ a ∈ e.actions, ∀ k b, a ≠ .setVirtual k b) →
       ∃ t, exec (.watchFire i v) s = .next t ∧
         t.watch.entries.get i = some { e1 with
           fires := min 65535 (e.fires + 1),
           state := if e.rearm = .once then .fired else .active, latch := if e.rearm = .once then e1.latch else true } ∧
         (∀ k, k ≠ i → t.watch.entries.get k = s.watch.entries.get k) ∧ t.watch.virt = s.watch.virt ∧
         t.watch.scanEnc = s.watch.scanEnc ∧ t.sensors = s.sensors ∧ t.store = s.store ∧ t.supply = s.supply) ∧
     (e.state = .active → e1.fires? = true →
       exec (.watchFire i v) s = .next (s.withReach (evalWith s.watchFeed 3 i v s.reach).1)) ∧
     (e.state ≠ .active ∨ e1.fires? = false → exec (.watchFire i v) s = .next s) ∧
     (e1.fires? = true ↔ e.newCond v = true ∧ e.state = .active ∧ e.latch = false ∧
       e.debounce ≤ min e.debounce (e.trueCount + 1))) ∧
  (∀ d : Int, -2147483648 ≤ d * 100 → d * 100 ≤ 2147483647 → motorSpeed d = d * 100) ∧
  (∀ s : State, s.supply.power ≠ .sleep →
     let bare (f : Watch) : Bool := match f.source with | .motor p _ => (s.motors.ch.get p).kind == .none | _ => false
     let scanned (x : Source) : Bool := match x with
       | .motor p _ => (s.motors.ch.get p).kind != .none
       | .battery => true
       | _ => false
     let value (e : Watch) : Int := match e.source with
       | .motor p .position => (s.motors.ch.get p).enc
       | .motor p .speed => motorSpeed ((s.motors.ch.get p).enc - s.watch.scanEnc.get p)
       | .motor p .current => (s.motors.ch.get p).mA
       | .motor p .stall => (s.motors.ch.get p).stallTimer
       | .battery => s.supply.vb
       | _ => 0
     let judged (e : Watch) (v : Int) : Watch :=
       let fires : Bool := (e.seen v).fires?
       { e with
           cond := e.newCond v, last := some v,
           trueCount := if e.newCond v = true then min e.debounce (e.trueCount + 1) else 0,
           latch := (e.newCond v && e.latch) || (fires && e.rearm == .edge),
           state := if fires = true ∧ e.rearm = .once then .fired else .active,
           fires := if fires = true then min 65535 (e.fires + 1) else e.fires }
     let waits (f : Watch) : Watch :=
       if f.state = .active ∧ bare f = true then { f with cond := false, trueCount := 0, latch := false } else f
     ∃ (u : WatchUnit) (t : State), exec .watchScan s = .next t ∧
     u.virt = s.watch.virt ∧ (∀ k, u.entries.get k = (s.watch.entries.get k).map waits) ∧
     (∀ p, u.scanEnc.get p = if (s.motors.ch.get p).kind = .none then 0 else (s.motors.ch.get p).enc) ∧
     t = s.withReach (evalEach (evalWith s.watchFeed 3) scanned value Num16.all { s.reach with watch := u }).1 ∧
     t.watch.scanEnc = u.scanEnc ∧ t.sensors = s.sensors ∧ t.store = s.store ∧ t.supply = s.supply ∧
     ((∀ k e, s.watch.entries.get k = some e → e.state = .active → scanned e.source = true →
         ∀ a ∈ e.actions, ∀ j b, a ≠ .setVirtual j b) →
       t.watch.virt = s.watch.virt ∧
       ∀ k, t.watch.entries.get k = (s.watch.entries.get k).map (fun e =>
         if e.state = .active ∧ scanned e.source = true then judged e (value e) else waits e)) ∧
     ((∀ k f, s.watch.entries.get k = some f → f.state = .active → scanned f.source = false) →
       t.motors = s.motors ∧ t.mixer = s.mixer ∧ t.router = s.router)) ∧
  (∀ (f : WatchFeed) (inner : Option Evaluate) (k : WatchId) (v : Int) (as : List Action) (w : Reach),
    let goesOn (a : Action) (x : Reach) (y : ActionResult) : Prop :=
      let z := performActions f inner k v as x
      performActions f inner k v (a :: as) w = (z.1, y :: z.2.1, z.2.2)
    (∀ a ps rest, (a = .brake ps ∧ rest = .brake) ∨ (a = .coast ps ∧ rest = .coast) →
      let cut := w.motors.watchCut f.live rest ps
      goesOn a ({ w with motors := cut.1 }.send cut.2.1) (if cut.2.2 = [] then .done else .skippedPorts cut.2.2)) ∧
    (∀ g volume priority,
      let play := Action.play g volume priority
      let voice (y : Layout) : Voice :=
        clipVoice (w.motors.pause != .running) g y 1000 1
          { volume := volume, priority := priority, free := false, notify := false, origin := .localUnit }
      (f.store.compaction ≠ none → goesOn play w (.refused .busy)) ∧
      (f.store.compaction = none → f.power = .critical → goesOn play w (.refused .power)) ∧
      (f.store.compaction = none → f.power ≠ .critical →
        (f.store.find g = none ∨ (∃ x, f.store.find g = some x ∧ x.kind = .capture) →
          goesOn play w (.refused .invalid)) ∧
        (∀ x, f.store.find g = some x → x.kind = .clip →
          (x.layout = none ∨ x.ready = false ∨ f.store.windowOn g = true → goesOn play w (.refused .access)) ∧
          (∀ y, x.layout = some y → x.ready = true → f.store.windowOn g = false →
            (w.mixer.arbiter f.power priority = .refused → goesOn play w (.refused .noVoice)) ∧
            (∀ i, w.mixer.arbiter f.power priority = .free i →
              goesOn play { w with mixer := w.mixer.fillVoice i (voice y) } (.doneVoice i)) ∧
            (∀ i, w.mixer.arbiter f.power priority = .steal i →
              goesOn play ({ w with mixer := w.mixer.fillVoice i (voice y) }.send
                (voiceEndNotice f.time i (w.mixer.voices.get i) .stolen)) (.doneVoice i)))))) ∧
    (∃ x : Mixer, x = { w.mixer with voices := x.voices } ∧
      (∀ i, x.voices.get i = if (w.mixer.voices.get i).playing = true
        then { w.mixer.voices.get i with state := .free, prior := none } else w.mixer.voices.get i) ∧
      goesOn .stopVoices ({ w with mixer := x }.send ([Num4.n1, .n2, .n3, .n4].flatMap (fun i =>
          if (w.mixer.voices.get i).playing = true
          then voiceEndNotice f.time i (w.mixer.voices.get i) .stopped else [])))
        (.doneCount ([Num4.n1, .n2, .n3, .n4].filter (fun i => (w.mixer.voices.get i).playing)).length)) ∧
    (∀ l c, goesOn (.notify l c) (w.send [{ link := l, notice := .watchNote k c v f.time }]) .done)) ∧
  (∀ (live : Bool) (rest : Rest) (ps : List MotorPort) (m : Motors), rest = .brake ∨ rest = .coast →
    let cut := m.watchCut live rest ps
    let taken (p : MotorPort) : Prop := p ∈ ps ∧ (m.ch.get p).kind ≠ .none ∧ (m.ch.get p).state ≠ .fault
    let still : Prop := m.groups = [] ∧ ∀ p, (m.ch.get p).state ≠ .syncWait
    (∀ p, p ∈ cut.2.2 ↔ p ∈ ps ∧ ¬ taken p) ∧
    (∃ ns, cut.2.1 = MotorPort.all.flatMap (fun p =>
        let c := m.ch.get p
        if p ∈ ps ∧ c.kind ≠ .none ∧ c.state ≠ .fault then
          match c.state, c.queue with
          | .syncWait, g :: gs =>
            segmentEnd p g .cut c.enc none 0 ++ gs.flatMap (fun h => segmentEnd p h .cancelled c.enc none 0)
          | _, _ => c.endNotices p .cut .cancelled
        else []) ++ ns ∧ (still → m.pause ≠ .pausing → ns = [])) ∧
    ∀ p, let c := m.ch.get p
      let d := cut.1.ch.get p
      (taken p →
        d.current = none ∧ d.queue = [] ∧ d.state = .idle ∧ d.rest = rest ∧ d.q = c.enc * 1000000 ∧ d.spd = 0 ∧
        d.integ = 0 ∧ d.lastTarget = none ∧ d.resume = none ∧ d.heldAction = none ∧ d.stepMark = .none ∧
        d.applied = 0 ∧ d.drive = (if live = true ∧ rest = .brake then .shorted else .off) ∧ d.enc = c.enc ∧
        d.kind = c.kind ∧ d.gains = c.gains ∧ d.holder = (if c.lostLink = true then none else c.holder)) ∧
      (¬ taken p → d.current = c.current ∧ d.enc = c.enc ∧ d.kind = c.kind ∧ d.applied = c.applied ∧
        d.drive = c.drive ∧ d.queue.Sublist c.queue ∧ (still → c.lostLink = false → d = c)))

/-! ### The sound store -/

/-- R115, R116: DEFINE_REGION places a region at the lowest gap that holds it, zeroed, OPEN and without a layout; FULL,
ACCESS and NO_SPACE in that order; DELETE_REGION takes one that is not in use out of the table. The place found in a
table ordered by base, its regions apart and inside the store: the lowest block from which the extent meets no region
and stays inside the store; none is found only where there is no such block. -/
def Obligations.RegionsAreDefinedAndDeleted : Prop :=
  (∀ (st : Store) (n : Nat), 1 ≤ n → (∀ g ∈ st.regions, 0 < g.length ∧ g.base / 64 + (g.length + 63) / 64 ≤ 2048) →
    st.regions.Pairwise (fun g h => g.base / 64 + (g.length + 63) / 64 ≤ h.base / 64) →
    let fits (b : Nat) : Prop :=
      b + n ≤ 2048 ∧ ∀ g ∈ st.regions, b + n ≤ g.base / 64 ∨ g.base / 64 + (g.length + 63) / 64 ≤ b
    (∀ b, st.firstFit n = some b → fits b ∧ ∀ a, a < b → ¬ fits a) ∧ (st.firstFit n = none → ∀ b, ¬ fits b)) ∧
  ∀ (r : Req) (fs : Fields) (id : Nat) (s : State), decodeFields r.payload = some fs →
    idField .id 1 fs = .val id → s.store.compaction = none → Memory.wf s.store.mem = true →
    (s.admits r.link 0x40 = true → ∀ (kind : RegionKind) (n : Nat),
      enumFieldAs .kind 2 regionKindOfCode fs = .val kind → natField 3 fs = .val n →
      ((n < 64 ∨ 131072 < n ∨ (kind = .capture ∧ n % 2 = 1)) →
        exec (.defineRegion r) s = .next ((s.entered 0x40 r).replied 0x40 r (.invalid [.length]))) ∧
      (64 ≤ n → n ≤ 131072 → (kind = .capture → n % 2 = 0) →
        (24 ≤ s.store.regions.length →
          exec (.defineRegion r) s = .next ((s.entered 0x40 r).replied 0x40 r (Reply.refuse .full))) ∧
        (s.store.regions.length < 24 → (s.store.find id).isSome →
          exec (.defineRegion r) s = .next ((s.entered 0x40 r).replied 0x40 r (Reply.refuse .access))) ∧
        (s.store.regions.length < 24 → s.store.find id = none → s.store.firstFit ((n + 63) / 64) = none →
          exec (.defineRegion r) s = .next ((s.entered 0x40 r).replied 0x40 r
            (.plain .noSpace (fieldNat 1 2 s.store.freeBlocks ++ fieldNat 2 2 s.store.largestGap)))) ∧
        (∀ b, s.store.regions.length < 24 → s.store.find id = none → s.store.firstFit ((n + 63) / 64) = some b →
          ∃ t, exec (.defineRegion r) s = .next t ∧
            t.store.regions = insertRegion
              { id := id, kind := kind, base := b * 64, length := n, ready := false, fill := 0, layout := none }
              s.store.regions ∧
            (∀ a, b * 64 ≤ a → a < b * 64 + (n + 63) / 64 * 64 → Memory.read a t.store.mem = 0) ∧
            (∀ a, a < b * 64 ∨ b * 64 + (n + 63) / 64 * 64 ≤ a →
              Memory.read a t.store.mem = Memory.read a s.store.mem) ∧
            t.store.window = s.store.window ∧ t.motors = s.motors ∧ t.sensors = s.sensors ∧ t.mixer = s.mixer ∧
            t.watch = s.watch ∧ t.supply = s.supply))) ∧
    (s.admits r.link 0x41 = true → idField .region 1 fs = .val id →
      (s.store.find id = none →
        exec (.deleteRegion r) s = .next ((s.entered 0x41 r).replied 0x41 r (.invalid [.region]))) ∧
      ((s.store.find id).isSome → s.store.inUse s.uses id = true →
        exec (.deleteRegion r) s = .next ((s.entered 0x41 r).replied 0x41 r (Reply.refuse .access))) ∧
      ((s.store.find id).isSome → s.store.inUse s.uses id = false →
        let st : Store := { s.store with regions := List.filter (fun g => g.id != id) s.store.regions }
        exec (.deleteRegion r) s = .next (State.replied { s.entered 0x41 r with store := st } 0x41 r
          (.plain .ok (fieldNat 1 2 st.freeBlocks)))))

/-- R117, R137: SET_CLIP writes the layout of a READY clip that no voice plays and no window targets, when its checks
pass; SET_LOOP_START moves the loop start of a clip with a layout. When each check of R117 fails: RATE, LAYOUT_SUM,
LOOP_START, LOOP_SHORT, CUE_RANGE, REVERSE_LOOP, MISSING_FIELD. 7.3, 11.5: the layout written holds the rate, the
lengths, the loop start, the cue offset and the direction of the request's fields 2 to 8, with loop start 0, no cue
offset and FORWARD where they are absent; MISSING_FIELD is a failed check exactly when the rate or a length is absent.
That a check which reads a field that is absent or did not decode is left out is the model's choice (log entries 66
and 68). -/
def Obligations.ClipLayoutsAreWritten : Prop :=
  (∀ (x : ClipFields) (fill : Nat),
    (∀ q, x.rate = .val q → (Check.rate ∈ x.checks fill ↔ q ≠ 8000 ∧ q ≠ 16000 ∧ q ≠ 22050)) ∧
    (∀ h l t, x.head = .val h → x.loop = .val l → x.tail = .val t →
      (Check.layoutSum ∈ x.checks fill ↔ h + l + t ≠ fill ∨ h + l + t = 0) ∧
      (∀ n, x.loopStart = .val n → (Check.loopStart ∈ x.checks fill ↔ (l ≠ 0 ∧ l ≤ n) ∨ (l = 0 ∧ n ≠ 0))) ∧
      (x.loopStart = .absent → Check.loopStart ∉ x.checks fill) ∧
      (Check.loopShort ∈ x.checks fill ↔ 1 ≤ l ∧ l ≤ 63) ∧
      (∀ c, x.cue = .val c → (Check.cueRange ∈ x.checks fill ↔ h + l + t ≤ c)) ∧
      (x.cue = .absent → Check.cueRange ∉ x.checks fill) ∧
      (∀ d, x.reverse = .val d → (Check.reverseLoop ∈ x.checks fill ↔ d = true ∧ l ≠ 0)) ∧
      (x.reverse = .absent → Check.reverseLoop ∉ x.checks fill)) ∧
    (x.rate = .absent ∨ x.head = .absent ∨ x.loop = .absent ∨ x.tail = .absent →
      Check.missingField ∈ x.failures)) ∧
  (∀ (fs : Fields) (fill : Nat),
    let x := ClipFields.read fs
    let y := x.layout
    x.rate = natField 2 fs ∧ x.head = natField 3 fs ∧ x.loop = natField 4 fs ∧ x.tail = natField 5 fs ∧
    x.loopStart = natField 6 fs ∧ x.cue = natField 7 fs ∧ x.reverse = flagField 8 fs ∧
    (Check.missingField ∈ x.failures ++ x.checks fill ↔
      fieldValue 2 fs = none ∨ fieldValue 3 fs = none ∨ fieldValue 4 fs = none ∨ fieldValue 5 fs = none) ∧
    (∀ n, natField 2 fs = .val n → y.rate = n) ∧ (∀ n, natField 3 fs = .val n → y.head = n) ∧
    (∀ n, natField 4 fs = .val n → y.loop = n) ∧ (∀ n, natField 5 fs = .val n → y.tail = n) ∧
    (∀ n, natField 6 fs = .val n → y.loopStart = n) ∧ (fieldValue 6 fs = none → y.loopStart = 0) ∧
    (∀ n, natField 7 fs = .val n → y.cue = some n) ∧ (fieldValue 7 fs = none → y.cue = none) ∧
    (natField 8 fs = .val 1 → y.reverse = true) ∧
    (natField 8 fs = .val 0 ∨ fieldValue 8 fs = none → y.reverse = false)) ∧
  ∀ (r : Req) (fs : Fields) (id : Nat) (g : Region) (s : State), decodeFields r.payload = some fs →
    idField .region 1 fs = .val id → s.store.compaction = none → s.store.find id = some g →
    (s.admits r.link 0x42 = true →
      let x := ClipFields.read fs
      let bad := x.failures ++ x.checks g.fill
      (g.kind = .capture →
        exec (.setClip r) s = .next ((s.entered 0x42 r).replied 0x42 r (.invalid [.kind]))) ∧
      (g.kind = .clip → (g.ready = false ∨ s.mixer.plays id = true ∨ s.store.windowOn id = true) →
        exec (.setClip r) s = .next ((s.entered 0x42 r).replied 0x42 r (Reply.refuse .access))) ∧
      (g.kind = .clip → g.ready = true → s.mixer.plays id = false → s.store.windowOn id = false → bad ≠ [] →
        exec (.setClip r) s = .next ((s.entered 0x42 r).replied 0x42 r (.invalid bad))) ∧
      (g.kind = .clip → g.ready = true → s.mixer.plays id = false → s.store.windowOn id = false → bad = [] →
        exec (.setClip r) s = .next (State.replied
          { s.entered 0x42 r with store := s.store.update id (fun y => { y with layout := some x.layout }) }
          0x42 r Reply.ok))) ∧
    (s.admits r.link 0x4D = true → ∀ n y, natField 2 fs = .val n → g.kind = .clip → g.layout = some y →
      ((y.loop = 0 ∧ n ≠ 0) ∨ (y.loop ≠ 0 ∧ y.loop ≤ n) →
        exec (.setLoopStart r) s = .next ((s.entered 0x4D r).replied 0x4D r (.invalid [.loopStart]))) ∧
      ((y.loop = 0 ∧ n = 0) ∨ n < y.loop →
        exec (.setLoopStart r) s = .next (State.replied
          { s.entered 0x4D r with
              store := s.store.update id (fun z => { z with layout := some { y with loopStart := n } }) }
          0x4D r Reply.ok)))

/-- R119 to R121, R126: WRITE_START opens the window on a region it makes OPEN without a layout; WRITE_DATA writes
its bytes from the cursor, those past the region's end dropped under TRUNCATE and written from its start under
WRAP, the fill length rising with them; WRITE_END closes the window and makes the region READY.
Each is refused by the rules of the window's owner. R123: READ_REGION answers with the region's state and fill
length and its bytes from the offset, at most 232 of them and none past the fill length; it changes nothing. -/
def Obligations.RegionContentIsWrittenAndRead : Prop :=
  (∀ (r : Req) (s : State), s.store.compaction = none →
     (∀ (fs : Fields) (id o : Nat) (md : WriteMode) (g : Region), s.admits r.link 0x43 = true →
       decodeFields r.payload = some fs → idField .region 1 fs = .val id → natField 2 fs = .val o →
       enumFieldAs .mode 3 writeModeOfCode fs = .val md → s.store.find id = some g →
       (s.store.window ≠ none →
         exec (.writeStart r) s = .next ((s.entered 0x43 r).replied 0x43 r (Reply.refuse .busy))) ∧
       (s.store.window = none → g.kind = .capture ∨ s.mixer.plays id = true →
         exec (.writeStart r) s = .next ((s.entered 0x43 r).replied 0x43 r (Reply.refuse .access))) ∧
       (s.store.window = none → g.kind = .clip → s.mixer.plays id = false → g.length ≤ o →
         exec (.writeStart r) s = .next ((s.entered 0x43 r).replied 0x43 r (.invalid [.offset]))) ∧
       (s.store.window = none → g.kind = .clip → s.mixer.plays id = false → o < g.length →
         exec (.writeStart r) s = .next (State.replied
           { s.entered 0x43 r with
               store := { s.store.update id (fun y => { y with ready := false, layout := none }) with
                 window := some { region := id, owner := r.link, mode := md, cursor := o, accepted := 0 } } }
           0x43 r (.plain .ok (fieldNat 1 4 g.length ++ fieldNat 2 4 g.fill))))) ∧
     (s.admits r.link 0x44 = true → s.supply.power = .critical →
       exec (.writeData r) s = .next ((s.entered 0x44 r).replied 0x44 r (Reply.refuse .power))) ∧
     (s.admits r.link 0x44 = true → s.supply.power ≠ .critical → r.payload = [] →
       exec (.writeData r) s = .next ((s.entered 0x44 r).replied 0x44 r (Reply.refuse .length))) ∧
     (s.admits r.link 0x44 = true → s.supply.power ≠ .critical → r.payload ≠ [] → s.store.window = none →
       exec (.writeData r) s = .next ((s.entered 0x44 r).replied 0x44 r (Reply.refuse .busy))) ∧
     (∀ w g, s.admits r.link 0x44 = true → s.supply.power ≠ .critical → r.payload ≠ [] → s.store.window = some w →
       w.owner = r.link → s.store.find w.region = some g → Memory.wf s.store.mem = true →
       w.cursor ≤ g.length → g.base + g.length ≤ storeSize →
       let len := r.payload.length
       let after (t : State) (cursor fill n : Nat) : Prop :=
         t.store.window = some { w with cursor := cursor, accepted := addCount w.accepted n } ∧
         (w.accepted + n < 4294967296 → addCount w.accepted n = w.accepted + n) ∧
         t.store.regions = (s.store.update w.region (fun y => { y with fill := fill })).regions ∧
         t.motors = s.motors ∧ t.mixer = s.mixer ∧ t.sensors = s.sensors ∧ t.watch = s.watch ∧ t.supply = s.supply
       (w.mode = .truncate →
         let n := min len (g.length - w.cursor)
         ∃ t, exec (.writeData r) s = .next t ∧
           (∀ i, i < n → Memory.read (g.base + w.cursor + i) t.store.mem = r.payload.getD i 0) ∧
           (∀ a, a < g.base + w.cursor ∨ g.base + w.cursor + n ≤ a →
             Memory.read a t.store.mem = Memory.read a s.store.mem) ∧
           after t (w.cursor + n) (if n = 0 then g.fill else max g.fill (w.cursor + n)) n ∧
           (r.cls = .ask → (t.router.link r.link).replies = (s.router.link r.link).replies ++
             [replyFrame 0x44 r.tag ((if n = len then [byte 0] else [byte 1, byte 1, byte 1]) ++
               (fieldNat 1 1 n ++ fieldNat 2 4 (w.cursor + n)))])) ∧
       (w.mode = .wrap → w.cursor < g.length →
         ∃ t, exec (.writeData r) s = .next t ∧
           (∀ i, i < len → len ≤ i + g.length →
             Memory.read (g.base + (w.cursor + i) % g.length) t.store.mem = r.payload.getD i 0) ∧
           (∀ a, (∀ i, i < len → a ≠ g.base + (w.cursor + i) % g.length) →
             Memory.read a t.store.mem = Memory.read a s.store.mem) ∧
           after t ((w.cursor + len) % g.length) (max g.fill (min (w.cursor + len) g.length)) len ∧
           (r.cls = .ask → (t.router.link r.link).replies = (s.router.link r.link).replies ++
             [replyFrame 0x44 r.tag (byte 0 :: (fieldNat 1 1 len ++
               fieldNat 2 4 ((w.cursor + len) % g.length)))]))) ∧
     (∀ w, s.admits r.link 0x44 = true → s.supply.power ≠ .critical → r.payload ≠ [] →
       s.store.window = some w → w.owner ≠ r.link →
       exec (.writeData r) s = .next ((s.entered 0x44 r).replied 0x44 r (Reply.refuse .access))) ∧
     (s.admits r.link 0x45 = true → s.store.window = none →
       exec (.writeEnd r) s = .next ((s.entered 0x45 r).replied 0x45 r (Reply.refuse .busy))) ∧
     (∀ w, s.admits r.link 0x45 = true → s.store.window = some w → w.owner ≠ r.link →
       exec (.writeEnd r) s = .next ((s.entered 0x45 r).replied 0x45 r (Reply.refuse .access))) ∧
     (∀ w g, s.admits r.link 0x45 = true → s.store.window = some w → w.owner = r.link →
       s.store.find w.region = some g →
       exec (.writeEnd r) s = .next (State.replied
         { s.entered 0x45 r with
             store := { s.store.update w.region (fun y => { y with ready := true }) with window := none } }
         0x45 r (.plain .ok (fieldNat 1 4 g.fill ++ fieldNat 2 4 w.accepted))))) ∧
  (∀ (r : Req) (fs : Fields) (id o n : Nat) (g : Region) (s : State), s.admits r.link 0x46 = true →
     s.store.compaction = none → decodeFields r.payload = some fs → idField .region 1 fs = .val id →
     natField 2 fs = .val o → natField 3 fs = .val n → 1 ≤ n → n ≤ 240 → s.store.find id = some g →
     let k := min (min (o + n) g.fill - o) 232
     ∃ data : List Byte, data.length = k ∧
       (∀ i, i < k → data.getD i 0 = Memory.read (g.base + o + i) s.store.mem) ∧
       exec (.readRegion r) s = .next ((s.entered 0x46 r).replied 0x46 r (.plain .ok
         (byte (flagCode g.ready) :: (leBytes 4 g.fill ++
           (byte k :: byte (flagCode (decide (232 < min (o + n) g.fill - o))) :: data))))))

/-- R124, R125: COMPACT is refused POWER in CRITICAL and ACCESS while a region is in use; else it begins, its reply
waiting; each copy moves the region's bytes and its base, and is the last under a SOFT reset; at the end the
asker gets the number of regions moved. The plan of a table: every region that does not lie right behind the
extents of the regions before it moves there, in the table's order, its copy due 1 ms and 1 more for each 4096
bytes begun of the extents copied up to it; the end is due with the last copy. While it runs, a request on a
store or mixer channel is BUSY. How the time of the copies is kept is the model's choice (log entry 30). -/
def Obligations.CompactionMovesTheRegions : Prop :=
  ∀ (r : Req) (s : State),
    (s.admits r.link 0x47 = true → s.store.compaction = none → s.supply.power = .critical →
      exec (.compact r) s = .next ((s.entered 0x47 r).replied 0x47 r (Reply.refuse .power))) ∧
    (s.admits r.link 0x47 = true → s.store.compaction = none → s.supply.power ≠ .critical →
      (s.store.window ≠ none ∨ ∃ g ∈ s.store.regions, s.store.inUse s.uses g.id = true) →
      exec (.compact r) s = .next ((s.entered 0x47 r).replied 0x47 r (Reply.refuse .access))) ∧
    (s.admits r.link 0x47 = true → s.store.compaction = none → s.supply.power ≠ .critical → s.store.window = none →
      (∀ g ∈ s.store.regions, s.store.inUse s.uses g.id = false) →
      let plan := compactPlan 0 0 s.store.regions
      let k : Compaction :=
        { plan := plan, due := planDue plan, elapsed := 0, moved := plan.length,
          asker := if r.cls = .ask then some (r.link, r.tag) else none, soft := false }
      exec (.compact r) s =
        .next { s.entered 0x47 r with store := { s.store with compaction := some k } }) ∧
    (∀ k mv rest g, s.supply.power ≠ .sleep → s.store.compaction = some k → k.plan = mv :: rest →
      mv.due ≤ k.elapsed → s.store.find mv.region = some g → Memory.wf s.store.mem = true →
      mv.base + g.extent * 64 ≤ storeSize → ∃ t, exec .compactRegionCopied s = .next t ∧
        (∀ i, i < g.extent * 64 → Memory.read (mv.base + i) t.store.mem = Memory.read (g.base + i) s.store.mem) ∧
        (∀ a, a < mv.base ∨ mv.base + g.extent * 64 ≤ a →
          Memory.read a t.store.mem = Memory.read a s.store.mem) ∧
        t.store.regions = (s.store.update mv.region (fun y => { y with base := mv.base })).regions ∧
        t.store.compaction = (if k.soft = true then none else some { k with plan := rest }) ∧
        t.router = s.router ∧ t.mixer = s.mixer) ∧
    (∀ k, s.supply.power ≠ .sleep → s.store.compaction = some k → k.plan = [] → k.due ≤ k.elapsed →
      k.soft = false → ∃ t, exec .compactComplete s = .next t ∧
        t.store = { s.store with compaction := none } ∧ t.motors = s.motors ∧ t.mixer = s.mixer ∧
        (k.asker = none → t.router = s.router) ∧
        (∀ l tag, k.asker = some (l, tag) → t.router = s.router.placeReply l (replyFrame 0x47 tag
          (byte 0 :: (fieldNat 1 1 k.moved ++ fieldNat 2 2 s.store.freeBlocks))))) ∧
    (s.store.compaction ≠ none →
      ∀ c ∈ [(Instr.defineRegion r, (0x40 : Byte)), (.deleteRegion r, 0x41), (.setClip r, 0x42),
        (.writeStart r, 0x43), (.writeData r, 0x44), (.writeEnd r, 0x45), (.readRegion r, 0x46), (.compact r, 0x47),
        (.play r, 0x48), (.playTone r, 0x49), (.releaseVoice r, 0x4A), (.stopVoice r, 0x4B), (.setVolume r, 0x4C),
        (.setLoopStart r, 0x4D), (.captureStart r, 0x25)],
      s.admits r.link c.2 = true →
      exec c.1 s = .next ((s.entered c.2 r).replied c.2 r (Reply.refuse .busy))) ∧
    (∀ gs : List Region,
      let size (n : Nat) : Nat := ((gs.map (fun g => (g.length + 63) / 64 * 64)).getD n 0)
      let place (n : Nat) : Nat := ((List.range n).map size).sum
      let moves (n : Nat) : Bool := (gs.map (fun g => g.base)).getD n 0 != place n
      let copied (n : Nat) : Nat := (((List.range (n + 1)).filter moves).map size).sum
      compactPlan 0 0 gs = ((List.range gs.length).filter moves).map (fun n =>
        { region := (gs.map (fun g => g.id)).getD n 0, base := place n, due := 1 + (copied n + 4095) / 4096 })) ∧
    planDue [] = 1 ∧ ∀ plan mv, planDue (plan ++ [mv]) = mv.due

/-! ### Voices and the mixer -/

/-- R130: the arbiter grants the lowest free voice considered; else it steals the voice of lowest priority, the
oldest of these, when that priority is at most the new one; else it refuses. In ECONOMY only voices 1 and 2 are
considered. A granted voice takes the start counter, which rises by 1; past its range the playing voices are
renumbered in their order. R131, R132: PLAY and PLAY_TONE fill in the voice granted and answer with its number
and the origin of a stolen voice, which ends STOLEN first; a pitch is held within 250 to 4000; in CRITICAL they
are refused POWER; their fields fail exactly outside their ranges; a region that is unknown, a CAPTURE, or
without a layout, OPEN or written through the window cannot be played; no voice to be had refuses them. R141:
under a pause a started voice is FROZEN unless its free flag is set. The numbering of the reply, and FIELD for a
field that does not decode, are the model's choices (log entries 8 and 10). -/
def Obligations.PlayStartsAVoiceOfTheArbiter : Prop :=
  (∀ (x : Mixer) (power : PowerState) (priority : Nat) (i : VoiceId),
     let vs : List VoiceId := if power = .economy then [.n1, .n2] else [.n1, .n2, .n3, .n4]
     (x.arbiter power priority = .free i →
       i ∈ vs ∧ (x.voices.get i).playing = false ∧
         ∀ j ∈ vs, (x.voices.get j).playing = false → i.num ≤ j.num) ∧
     (x.arbiter power priority = .steal i →
       i ∈ vs ∧ (x.voices.get i).priority ≤ priority ∧ (∀ j ∈ vs, (x.voices.get j).playing = true) ∧
         ∀ j ∈ vs, (x.voices.get i).priority < (x.voices.get j).priority ∨
           ((x.voices.get i).priority = (x.voices.get j).priority ∧
             (x.voices.get i).order ≤ (x.voices.get j).order)) ∧
     (x.arbiter power priority = .refused →
       ∀ j ∈ vs, (x.voices.get j).playing = true ∧ priority < (x.voices.get j).priority)) ∧
  (∀ (x : Mixer) (i : VoiceId) (v : Voice),
     let y := x.fillVoice i v
     let old (j : VoiceId) : Voice := if j = i then { v with order := x.startCounter } else x.voices.get j
     (x.startCounter < 4294967295 →
       y = { x with voices := x.voices.set i { v with order := x.startCounter },
                    startCounter := x.startCounter + 1 }) ∧
     (4294967295 ≤ x.startCounter →
       y.startCounter = ([Num4.n1, .n2, .n3, .n4].filter (fun j => (old j).playing)).length ∧
       (∀ j, (old j).playing = false → y.voices.get j = old j) ∧
       (∀ j, (old j).playing = true → y.voices.get j = { old j with order := (y.voices.get j).order } ∧
         (y.voices.get j).order < y.startCounter) ∧
       (∀ j k, (old j).playing = true → (old k).playing = true → (old j).order < (old k).order →
         (y.voices.get j).order < (y.voices.get k).order))) ∧
  (∀ (r : Req) (fs : Fields) (i : VoiceId) (s : State), s.store.compaction = none →
     decodeFields r.payload = some fs →
     let paused := s.motors.pause != .running
     let stolen := voiceEndNotice s.now i (s.mixer.voices.get i) .stolen
     (∀ c ∈ [(Instr.play r, (0x48 : Byte)), (.playTone r, 0x49)], s.admits r.link c.2 = true →
       s.supply.power = .critical →
       exec c.1 s = .next ((s.entered c.2 r).replied c.2 r (Reply.refuse .power))) ∧
     (s.admits r.link 0x48 = true → s.supply.power ≠ .critical → (PlayFields.read fs).bad ≠ [] →
       exec (.play r) s = .next ((s.entered 0x48 r).replied 0x48 r (.invalid (PlayFields.read fs).bad))) ∧
     (∀ id, s.admits r.link 0x48 = true → s.supply.power ≠ .critical → (PlayFields.read fs).bad = [] →
       (PlayFields.read fs).region = .val id →
       let x := PlayFields.read fs
       let pitch := x.pitch.get?.getD 1000
       let kept := min 4000 (max 250 pitch)
       let o : StartOptions :=
         { volume := x.volume.get?.getD 255, priority := x.priority.get?.getD 0, free := x.free.get?.getD false,
           notify := x.notify.get?.getD true, origin := if r.link = .primary then .primary else .remote }
       let answer (info : List Byte) : Reply :=
         if kept = pitch then .plain .ok info else .clamped [4] (fieldNat 1 2 kept ++ info)
       (∀ y, s.store.playable id = .error y → exec (.play r) s = .next ((s.entered 0x48 r).replied 0x48 r y)) ∧
       (∀ y, s.store.playable id = .ok y →
         let v := clipVoice paused id y kept (x.loopCount.get?.getD 1) o
         (s.mixer.arbiter s.supply.power o.priority = .refused →
           exec (.play r) s = .next ((s.entered 0x48 r).replied 0x48 r (Reply.refuse .noVoice))) ∧
         (s.mixer.arbiter s.supply.power o.priority = .free i →
           exec (.play r) s = .next (State.replied { s.entered 0x48 r with mixer := s.mixer.fillVoice i v }
             0x48 r (answer (fieldNat 2 1 i.num)))) ∧
         (s.mixer.arbiter s.supply.power o.priority = .steal i →
           exec (.play r) s = .next (((s.entered 0x48 r).withMixer (s.mixer.fillVoice i v, stolen)).replied 0x48 r
             (answer (fieldNat 2 1 i.num ++ fieldNat 3 1 (originCode (s.mixer.voices.get i).origin))))))) ∧
     (s.admits r.link 0x49 = true → s.supply.power ≠ .critical → (ToneFields.read fs).bad ≠ [] →
       exec (.playTone r) s = .next ((s.entered 0x49 r).replied 0x49 r (.invalid (ToneFields.read fs).bad))) ∧
     (∀ f d, s.admits r.link 0x49 = true → s.supply.power ≠ .critical → (ToneFields.read fs).bad = [] →
       (ToneFields.read fs).freq = .val f → (ToneFields.read fs).duration = .val d →
       let x := ToneFields.read fs
       let o : StartOptions :=
         { volume := x.volume.get?.getD 255, priority := x.priority.get?.getD 0, free := x.free.get?.getD false,
           notify := x.notify.get?.getD true, origin := if r.link = .primary then .primary else .remote }
       let v := toneVoice paused f d o
       (s.mixer.arbiter s.supply.power o.priority = .refused →
         exec (.playTone r) s = .next ((s.entered 0x49 r).replied 0x49 r (Reply.refuse .noVoice))) ∧
       (s.mixer.arbiter s.supply.power o.priority = .free i →
         exec (.playTone r) s = .next (State.replied { s.entered 0x49 r with mixer := s.mixer.fillVoice i v }
           0x49 r (.plain .ok (fieldNat 1 1 i.num)))) ∧
       (s.mixer.arbiter s.supply.power o.priority = .steal i →
         exec (.playTone r) s = .next (((s.entered 0x49 r).withMixer (s.mixer.fillVoice i v, stolen)).replied 0x49 r
           (.plain .ok (fieldNat 1 1 i.num ++ fieldNat 2 1 (originCode (s.mixer.voices.get i).origin))))))) ∧
  (∀ fs : Fields,
     let x := PlayFields.read fs
     let y := ToneFields.read fs
     (Check.region ∈ x.bad ↔ fieldValue 1 fs = none ∨ ∃ n, natField 1 fs = .val n ∧ (n < 1 ∨ 24 < n)) ∧
     (Check.volume ∈ x.bad ↔ ∃ n, natField 2 fs = .val n ∧ 255 < n) ∧
     (Check.priority ∈ x.bad ↔ ∃ n, natField 3 fs = .val n ∧ 7 < n) ∧
     (Check.loopCount ∈ x.bad ↔ ∃ n, natField 5 fs = .val n ∧ 255 < n) ∧
     (∀ c ∈ x.bad, c ∈ [Check.region, .volume, .priority, .loopCount, .field]) ∧
     (Check.frequency ∈ y.bad ↔ ∃ n, natField 1 fs = .val n ∧ (n < 50 ∨ 8000 < n)) ∧
     (Check.duration ∈ y.bad ↔ ∃ n, natField 2 fs = .val n ∧ (n < 1 ∨ 60000 < n)) ∧
     (Check.volume ∈ y.bad ↔ ∃ n, natField 3 fs = .val n ∧ 255 < n) ∧
     (Check.priority ∈ y.bad ↔ ∃ n, natField 4 fs = .val n ∧ 7 < n) ∧
     (Check.missingField ∈ y.bad ↔ fieldValue 1 fs = none ∨ fieldValue 2 fs = none) ∧
     (∀ c ∈ y.bad, c ∈ [Check.frequency, .duration, .volume, .priority, .missingField, .field])) ∧
  (∀ (st : Store) (id : Nat),
     (st.find id = none → st.playable id = .error (.invalid [.region])) ∧
     (∀ g, st.find id = some g →
       (g.kind = .capture → st.playable id = .error (.invalid [.kind])) ∧
       (g.kind = .clip → g.layout = none ∨ g.ready = false ∨ st.windowOn id = true →
         st.playable id = .error (Reply.refuse .access)) ∧
       (∀ y, g.kind = .clip → g.layout = some y → g.ready = true → st.windowOn id = false →
         st.playable id = .ok y))) ∧
  (∀ (paused : Bool) (f d : Nat) (o : StartOptions),
     let v := toneVoice paused f d o
     v.source = some (.tone f) ∧ v.left = d * 32 ∧ v.tonePhase = 0 ∧ v.volume = o.volume ∧ v.priority = o.priority ∧
     v.free = o.free ∧ v.notify = o.notify ∧ v.origin = o.origin ∧ v.release = false ∧
     (paused = false ∨ o.free = true → v.state = .tone ∧ v.prior = none) ∧
     (paused = true → o.free = false → v.state = .frozen ∧ v.prior = some .tone)) ∧
  (∀ (paused : Bool) (id : Nat) (y : Layout) (pitch count : Nat) (o : StartOptions),
     let v := clipVoice paused id y pitch count o
     let w := clipVoice false id y pitch count o
     v.source = some (.region id) ∧ v.volume = o.volume ∧ v.priority = o.priority ∧ v.loopCount = count ∧
     v.free = o.free ∧ v.notify = o.notify ∧ v.origin = o.origin ∧
     (paused = true → o.free = false → v = { w with state := .frozen, prior := some w.state }) ∧
     (paused = false ∨ o.free = true → v = w ∧ w.prior = none))

/-- R136, R142, R132: STOP_VOICE ends a playing voice with VOICE_END STOPPED, RELEASE_VOICE marks a clip in its head
or loop and ends a tone with VOICE_END ENDED, a FROZEN voice by its prior state; the tablet is DENIED a voice
whose origin is the host, playing or FREE; then a FREE voice is INVALID(STATE). TONE_END ends a tone whose last
sample has been played. That TONE_END before the last sample changes nothing, and which origin a FREE voice's
record keeps, are the model's choices (log entries 3 and 38). -/
def Obligations.VoicesAreReleasedAndStopped : Prop :=
  ∀ (r : Req) (fs : Fields) (i : VoiceId) (s : State), decodeFields r.payload = some fs →
    natField 1 fs = .val i.num → s.store.compaction = none →
    let v := s.mixer.voices.get i
    (∀ c ∈ [(Instr.releaseVoice r, (0x4A : Byte)), (.stopVoice r, 0x4B)], s.admits r.link c.2 = true →
      (r.link = .remote → v.origin = .primary →
        exec c.1 s = .next ((s.entered c.2 r).replied c.2 r (Reply.refuse .denied))) ∧
      (r.link = .primary ∨ v.origin ≠ .primary → v.playing = false →
        exec c.1 s = .next ((s.entered c.2 r).replied c.2 r (.invalid [.state])))) ∧
    (s.admits r.link 0x4B = true → v.playing = true → r.link = .primary ∨ v.origin ≠ .primary →
      ∃ t, exec (.stopVoice r) s = .next t ∧ (t.mixer.voices.get i).state = .free ∧
        (t.mixer.voices.get i).prior = none ∧ (∀ j, j ≠ i → t.mixer.voices.get j = s.mixer.voices.get j) ∧
        t.router = (((s.entered 0x4B r).notifyAll (voiceEndNotice s.now i v .stopped)).replied 0x4B r
          (.plain .ok (fieldNat 1 1 0))).router ∧
        t.mixer.volume = s.mixer.volume ∧ t.motors = s.motors ∧ t.sensors = s.sensors ∧ t.store = s.store) ∧
    (s.admits r.link 0x4A = true → r.link = .primary ∨ v.origin ≠ .primary →
      (v.state = .head ∨ v.state = .loop ∨ (v.state = .frozen ∧ (v.prior = some .head ∨ v.prior = some .loop)) →
        exec (.releaseVoice r) s = .next (State.replied
          { s.entered 0x4A r with mixer := s.mixer.setVoice i { v with release := true } } 0x4A r
          (.plain .ok (fieldNat 1 1 (voiceStateCode v.state))))) ∧
      (v.state = .tail ∨ (v.state = .frozen ∧ v.prior = some .tail) →
        exec (.releaseVoice r) s =
          .next ((s.entered 0x4A r).replied 0x4A r (.plain .ok (fieldNat 1 1 (voiceStateCode v.state))))) ∧
      (v.state = .tone ∨ (v.state = .frozen ∧ v.prior = some .tone) →
        ∃ t, exec (.releaseVoice r) s = .next t ∧ (t.mixer.voices.get i).state = .free ∧
        (t.mixer.voices.get i).prior = none ∧ (∀ j, j ≠ i → t.mixer.voices.get j = s.mixer.voices.get j) ∧
        t.router = (((s.entered 0x4A r).notifyAll (voiceEndNotice s.now i v .ended)).replied 0x4A r
          (.plain .ok (fieldNat 1 1 0))).router ∧
        t.mixer.volume = s.mixer.volume ∧ t.motors = s.motors ∧ t.sensors = s.sensors ∧ t.store = s.store)) ∧
    (s.supply.power ≠ .sleep → v.state = .tone → v.left ≤ 1 → ∃ t, exec (.toneEnd i) s = .next t ∧
      (t.mixer.voices.get i).state = .free ∧ (∀ j, j ≠ i → t.mixer.voices.get j = s.mixer.voices.get j) ∧
      t.router = s.router.placeAll (voiceEndNotice s.now i v .ended) ∧ t.motors = s.motors ∧ t.store = s.store) ∧
    (v.state ≠ .tone ∨ 1 < v.left → exec (.toneEnd i) s = .next s)

/-- R139: SET_VOLUME sets M at once, or starts a ramp toward the target with its timer at 0, and carries M and the
ramp target; every 4 ms of a ramp M moves one step, and the ramp stops when M equals the target. A target above
255 is INVALID(VOLUME). That a ramp step before its 4 ms changes nothing is the model's choice (log entry 3). -/
def Obligations.VolumeIsSetOrRamped : Prop :=
  ∀ (r : Req) (fs : Fields) (n : Nat) (s : State),
    (s.admits r.link 0x4C = true → s.store.compaction = none → decodeFields r.payload = some fs →
      natField 1 fs = .val n →
      (255 < n → (flagField 2 fs).fails = [] →
        exec (.setVolume r) s = .next ((s.entered 0x4C r).replied 0x4C r (.invalid [.volume]))) ∧
      (n ≤ 255 → flagField 2 fs = .absent ∨ flagField 2 fs = .val false →
        exec (.setVolume r) s = .next (State.replied
          { s.entered 0x4C r with
              mixer := { s.mixer with volume := n, target := n, rampTimer := 0, ramping := false } } 0x4C r
          (.plain .ok (fieldNat 1 1 n ++ fieldNat 2 1 n)))) ∧
      (n ≤ 255 → flagField 2 fs = .val true →
        exec (.setVolume r) s = .next (State.replied
          { s.entered 0x4C r with
              mixer := { s.mixer with target := n, rampTimer := 0, ramping := decide (s.mixer.volume ≠ n) } } 0x4C r
          (.plain .ok (fieldNat 1 1 s.mixer.volume ++ fieldNat 2 1 n))))) ∧
    (s.supply.power ≠ .sleep → s.mixer.ramping = true → 4 ≤ s.mixer.rampTimer →
      (s.mixer.volume < s.mixer.target →
        exec .volumeRampStep s = .next { s with mixer := { s.mixer with
          volume := s.mixer.volume + 1, rampTimer := 0, ramping := decide (s.mixer.volume + 1 ≠ s.mixer.target) } }) ∧
      (s.mixer.target < s.mixer.volume →
        exec .volumeRampStep s = .next { s with mixer := { s.mixer with
          volume := s.mixer.volume - 1, rampTimer := 0, ramping := decide (s.mixer.volume - 1 ≠ s.mixer.target) } })) ∧
    (s.mixer.ramping = false ∨ s.mixer.rampTimer < 4 → exec .volumeRampStep s = .next s)

/-- R132, R133, R135, R138, R142: at an output event every playing voice moves on by one event, and the output is the
sum of the samples, each lowered in ECONOMY to a multiple of 16, times their volumes, scaled by the master volume and
clamped to 12 bits, CLIPPED set when the clamp changed it; with the amplifier off the output is 0. A FREE or FROZEN
voice gives 0 and stays as it is; a tone gives +100 below phase 32000 and else -100, adds twice its frequency to its
phase modulo 64000, and is FREE when its samples left reach 0. The VOICE_ENDs go out and then, cue by cue in voice
order, the CUE notice; R101: each cue then reaches the ACTIVE CUE entries on its region in ascending order of id, the
voice number as the value, and where no entry hears one nothing but mixer and router changes. R133: a clip voice
starts with the step its rate and pitch give; at an output event it reads the sample at the integer part of its
position and adds its step; at the end of the head it goes to the loop or the tail; at the end of the loop a pass is
complete, and it runs on into the tail after its last pass or wraps back by the loop length less the loop start (here
one wrap); at the end of the clip it becomes FREE. R134: a REVERSE voice subtracts its step and ends below 0. R135:
the cue is raised where it lies on the path since the last read, that read not counted, with the part before a wrap; a
clip starts with a path that holds the index first read alone. That VOICE_END notices go before cue notices and that a
CUE carries the passes before the advance are the model's choices (log entry 20), and so are the place of a voice
released in its head, the position at which a REVERSE voice ends (log entry 19), and that an entry hears a cue if it
is ACTIVE at its turn (log entry 61). -/
def Obligations.OutputEventMixesTheVoices : Prop :=
  (∀ (id : Nat) (y : Layout) (pitch count : Nat) (o : StartOptions),
    let v := clipVoice false id y pitch count o
    v.step = y.rate * pitch * 65536 / (32000 * 1000) ∧ v.loopCopy = y.loopStart ∧ v.passes = 0 ∧ v.release = false ∧
    v.pos = (if y.reverse = true then (y.head + y.loop + y.tail - 1) * 65536 else 0) ∧
    v.covered = [] ∧ v.pathMark = (if y.reverse = true then y.head + y.loop + y.tail else 0) ∧
    v.state = (if y.reverse = true then .tail else if y.head ≠ 0 then .head else if y.loop ≠ 0 then .loop else .tail)) ∧
  (∀ (st : Store) (i : VoiceId) (v : Voice) (id : Nat) (g : Region) (y : Layout), v.source = some (.region id) →
    st.find id = some g → g.layout = some y → v.state = .head ∨ v.state = .loop ∨ v.state = .tail →
    let p := v.play st i
    let w := p.voice
    let read := v.pos / 65536
    p.sample = (Memory.read (g.base + read) st.mem).toInt ∧ w.step = v.step ∧ w.volume = v.volume ∧
    w.release = v.release ∧ w.loopCount = v.loopCount ∧ w.source = v.source ∧ w.origin = v.origin ∧
    w.notify = v.notify ∧
    (y.reverse = false →
      let next := v.pos + v.step
      let j := next / 65536
      let back := next - (y.loop - y.loopStart) * 65536
      let total := y.head + y.loop + y.tail
      let n := min 255 (v.passes + 1)
      let last : Prop := v.release = true ∨ (v.loopCount ≠ 0 ∧ n = v.loopCount)
      let inLoop : Prop := v.state = .loop ∨ (v.state = .head ∧ y.head ≤ j ∧ y.loop ≠ 0 ∧ v.release = false)
      let inTail : Prop := v.state = .tail ∨ (v.state = .head ∧ y.head ≤ j ∧ y.loop = 0)
      (v.state = .head → j < y.head → w.state = .head ∧ w.pos = next ∧ w.passes = v.passes) ∧
      (v.state = .head → y.head ≤ j → y.loop ≠ 0 → v.release = true →
        w.pos = next + y.loop * 65536 ∧ w.state = if j + y.loop < total then .tail else .free) ∧
      (inLoop → j < y.head + y.loop → w.state = .loop ∧ w.pos = next ∧ w.passes = v.passes) ∧
      (inLoop → y.head + y.loop ≤ j → last →
        w.passes = n ∧ w.pos = next ∧ w.state = if j < total then .tail else .free) ∧
      (inLoop → y.head + y.loop ≤ j → ¬ last → back / 65536 < y.head + y.loop →
        w.passes = n ∧ w.pos = back ∧ w.loopCopy = y.loopStart ∧ w.state = .loop ∧
        w.covered = [(read + 1, y.head + y.loop - 1)] ∧ w.pathMark = y.head + y.loopStart) ∧
      (inTail → w.pos = next ∧ w.passes = v.passes ∧ w.state = if j < total then .tail else .free) ∧
      (j < y.head + y.loop → v.release = false → w.covered = [] ∧ w.pathMark = read + 1)) ∧
    (y.reverse = true →
      (v.step ≤ v.pos → w.state = v.state ∧ w.pos = v.pos - v.step ∧ w.pathMark = read) ∧
      (v.pos < v.step → w.state = .free ∧ w.pos = 0)) ∧
    (y.cue = none → p.cue = none) ∧
    (∀ c, y.cue = some c →
      (y.reverse = false → (p.cue ≠ none ↔ (v.pathMark ≤ c ∧ c ≤ read) ∨ ∃ r ∈ v.covered, r.1 ≤ c ∧ c ≤ r.2)) ∧
      (y.reverse = true → (p.cue ≠ none ↔ read ≤ c ∧ c < v.pathMark)) ∧
      (∀ e, p.cue = some e → e.voice = i ∧ e.region = id ∧ e.offset = c ∧ e.passes = v.passes))) ∧
  (∀ (st : Store) (i : VoiceId) (v : Voice),
    let p := v.play st i
    (v.state = .free ∨ v.state = .frozen → p = { sample := 0, voice := v, cue := none }) ∧
    (∀ f, v.state = .tone → v.source = some (.tone f) →
      p.sample = (if v.tonePhase < 32000 then 100 else -100) ∧ p.cue = none ∧
      p.voice = { v with
        tonePhase := (v.tonePhase + 2 * f) % 64000, left := v.left - 1,
        state := if v.left ≤ 1 then .free else .tone, prior := if v.left ≤ 1 then none else v.prior })) ∧
  (∀ (z : PowerState) (x : Int),
    (z ≠ .economy → mixSample z x = x) ∧ mixSample .economy x % 16 = 0 ∧ mixSample .economy x ≤ x ∧
      x < mixSample .economy x + 16) ∧
  (∀ s : State, s.supply.power ≠ .sleep →
    (∀ i, ((s.mixer.voices.get i).play s.store i).cue = none) ∨
      (∀ k e g, s.watch.entries.get k = some e → e.source = .cue g → e.state ≠ .active) →
    let sample (i : VoiceId) : Int :=
      mixSample s.supply.power ((s.mixer.voices.get i).play s.store i).sample * (s.mixer.voices.get i).volume
    let me := if s.supply.power = .economy then min s.mixer.volume 128 else s.mixer.volume
    let raw := ((sample .n1 + sample .n2 + sample .n3 + sample .n4) * (me : Int)).tdiv 8192
    ∃ t, exec .outputEvent s = .next t ∧
      t.mixer.output = (if s.mixer.amp then clamp (-2048) 2047 raw else 0) ∧
      -2048 ≤ t.mixer.output ∧ t.mixer.output ≤ 2047 ∧
      t.mixer.clipped = (s.mixer.clipped || decide (raw < -2048 ∨ 2047 < raw)) ∧
      (∀ i, t.mixer.voices.get i = ((s.mixer.voices.get i).play s.store i).voice) ∧
      (∀ i, (s.mixer.voices.get i).state = .free ∨ (s.mixer.voices.get i).state = .frozen →
        t.mixer.voices.get i = s.mixer.voices.get i) ∧
      (∀ i f, (s.mixer.voices.get i).state = .tone → (s.mixer.voices.get i).source = some (.tone f) →
        (t.mixer.voices.get i).left = (s.mixer.voices.get i).left - 1 ∧
        (t.mixer.voices.get i).tonePhase = ((s.mixer.voices.get i).tonePhase + 2 * f) % 64000) ∧
      t.router = s.router.placeAll
        ((Num4.all.flatMap (fun i =>
            let v := ((s.mixer.voices.get i).play s.store i).voice
            if (s.mixer.voices.get i).playing = true ∧ v.playing = false then voiceEndNotice s.now i v .ended else [])) ++
          (Num4.all.flatMap (fun i =>
            match ((s.mixer.voices.get i).play s.store i).cue with
            | some c => c.notices s.now
            | none => []))) ∧
      t.mixer.volume = s.mixer.volume ∧ t.motors = s.motors ∧ t.watch = s.watch ∧ t.store = s.store ∧
      t.sensors = s.sensors ∧ t.supply = s.supply) ∧
  ∀ s : State, s.supply.power ≠ .sleep →
    let cues := Num4.all.filterMap (fun i => ((s.mixer.voices.get i).play s.store i).cue)
    let sample (i : VoiceId) : Int :=
      mixSample s.supply.power ((s.mixer.voices.get i).play s.store i).sample * (s.mixer.voices.get i).volume
    let me := if s.supply.power = .economy then min s.mixer.volume 128 else s.mixer.volume
    let raw := ((sample .n1 + sample .n2 + sample .n3 + sample .n4) * (me : Int)).tdiv 8192
    let hear (x : State) (c : CueEvent) : State :=
      let y := x.notifyAll (c.notices s.now)
      y.withReach (evalEach (evalWith y.watchFeed 3) (fun a => a == .cue c.region) (fun _ => (c.voice.num : Int))
        Num16.all y.reach).1
    let judged (e : Watch) (v : Int) : Watch :=
      let fires : Bool := (e.seen v).fires?
      { e with
          cond := e.newCond v, last := some v,
          trueCount := if e.newCond v = true then min e.debounce (e.trueCount + 1) else 0,
          latch := (e.newCond v && e.latch) || (fires && e.rearm == .edge),
          state := if fires = true ∧ e.rearm = .once then .fired else .active,
          fires := if fires = true then min 65535 (e.fires + 1) else e.fires }
    ∃ u t, exec .outputEvent s = .next t ∧ t = cues.foldl hear u ∧
      (∀ i, u.mixer.voices.get i = ((s.mixer.voices.get i).play s.store i).voice) ∧
      u.mixer = { s.mixer with
        voices := u.mixer.voices, output := if s.mixer.amp then clamp (-2048) 2047 raw else 0,
        clipped := s.mixer.clipped || decide (raw < -2048 ∨ 2047 < raw) } ∧
      u.router = s.router.placeAll (Num4.all.flatMap (fun i =>
        let v := ((s.mixer.voices.get i).play s.store i).voice
        if (s.mixer.voices.get i).playing = true ∧ v.playing = false then voiceEndNotice s.now i v .ended else [])) ∧
      u.motors = s.motors ∧ u.watch = s.watch ∧ u.store = s.store ∧ u.sensors = s.sensors ∧ u.supply = s.supply ∧
      t.store = s.store ∧ t.sensors = s.sensors ∧ t.supply = s.supply ∧
      (∀ c, cues = [c] →
        (∀ k e, s.watch.entries.get k = some e → e.source = .cue c.region → ∀ a ∈ e.actions, ∀ j b,
          a ≠ .setVirtual j b) →
        t.watch.virt = s.watch.virt ∧ ∀ k, t.watch.entries.get k = (s.watch.entries.get k).map (fun e =>
          if e.state = .active ∧ e.source = .cue c.region then judged e c.voice.num else e))

/-! ### Routing requests -/

/-- R157, R158: SET_WINDOW writes one window, SET_FORWARD the wait time and the abort mode it carries, REMOTE_POLICY the
loss policy; each checks its fields first. The layout of the four windows in the SET_WINDOW reply is the model's choice
(log entry 8). -/
def Obligations.RoutingRequestsWriteTheRouter : Prop :=
  ∀ (r : Req) (fs : Fields) (s : State), decodeFields r.payload = some fs →
    (∀ n b l d, s.admits r.link 0x50 = true → natField 1 fs = .val n → natField 2 fs = .val b →
      natField 3 fs = .val l → enumFieldAs .disposition 4 dispositionOfCode fs = .val d → b ≤ 255 → l ≤ 255 →
      (3 < n → exec (.setWindow r) s = .next ((s.entered 0x50 r).replied 0x50 r (.invalid [.window]))) ∧
      (n ≤ 3 →
        let x := (s.entered 0x50 r).router.setWindow n
          { base := BitVec.ofNat 8 b, limit := BitVec.ofNat 8 l, disp := d }
        exec (.setWindow r) s = .next (State.replied { s.entered 0x50 r with router := x } 0x50 r
          (.plain .ok (x.windowFields 1))) ∧
        x.windows.getD n RouteWindow.unused = RouteWindow.mk (BitVec.ofNat 8 b) (BitVec.ofNat 8 l) d ∧
        ∀ k, k < 4 → k ≠ n → x.windows.getD k RouteWindow.unused = s.router.windows.getD k RouteWindow.unused)) ∧
    (s.admits r.link 0x51 = true →
      (∀ w, natField 1 fs = .val w → fieldValue 2 fs = none → w ≠ 0 → (w % 10 ≠ 0 ∨ w < 10 ∨ 2550 < w) →
        exec (.setForward r) s = .next ((s.entered 0x51 r).replied 0x51 r (.invalid [.wait]))) ∧
      (∀ w a, natField 1 fs = .val w → enumFieldAs .mode 2 abortOfCode fs = .val a →
        (w = 0 ∨ (w % 10 = 0 ∧ 10 ≤ w ∧ w ≤ 2550)) →
        exec (.setForward r) s = .next (State.replied
          { s.entered 0x51 r with router := { (s.entered 0x51 r).router with wait := w, abortMode := a } } 0x51 r
          Reply.ok)) ∧
      (∀ w a, natField 1 fs = .val w → enumFieldAs .mode 2 abortOfCode fs = .val a → w ≠ 0 →
        (w % 10 ≠ 0 ∨ w < 10 ∨ 2550 < w) →
        exec (.setForward r) s = .next ((s.entered 0x51 r).replied 0x51 r (.invalid [.wait]))) ∧
      (∀ w, natField 1 fs = .val w → fieldValue 2 fs = none → (w = 0 ∨ (w % 10 = 0 ∧ 10 ≤ w ∧ w ≤ 2550)) →
        exec (.setForward r) s = .next (State.replied
          { s.entered 0x51 r with router := { (s.entered 0x51 r).router with wait := w } } 0x51 r Reply.ok)) ∧
      (∀ a, fieldValue 1 fs = none → enumFieldAs .mode 2 abortOfCode fs = .val a →
        exec (.setForward r) s = .next (State.replied
          { s.entered 0x51 r with router := { (s.entered 0x51 r).router with abortMode := a } } 0x51 r Reply.ok)) ∧
      (fieldValue 1 fs = none → fieldValue 2 fs = none →
        exec (.setForward r) s = .next ((s.entered 0x51 r).replied 0x51 r (.invalid [.missingField])))) ∧
    (∀ p, s.admits r.link 0x53 = true → enumFieldAs .policy 1 lossPolicyOfCode fs = .val p →
      exec (.remotePolicy r) s = .next (State.replied
        { s.entered 0x53 r with router := { (s.entered 0x53 r).router with lossPolicy := p } } 0x53 r Reply.ok))

/-! ### What every step keeps -/

/-- The bytes of the store keep their canonical form: addresses strictly rising and inside the store, no 0 listed. -/
def Obligations.StoreFormIsKept : Prop :=
  ∀ s t : State, Memory.wf s.store.mem = true → step s = .next t → Memory.wf t.store.mem = true

/-- R147, R148, R149: the bounds of the router's queues hold before a command and after it: at most four replies
reserved on a link, sixteen notices, eight forwarded frames, and a place reserved for every reply queued, every open
record and the asker of a compaction. -/
def Obligations.QueueBoundsAreKept : Prop :=
  ∀ s t : State, s.queuesBounded = true → step s = .next t → t.queuesBounded = true

/-- R160, R164, R26: lambda stays within 1 to 1000, V_b within 5000 to 9000 mV, the battery history at eight
measurements, L within 1000 to 4000, and a motor that is not driven has no output. -/
def Obligations.SupplyAndDrivesStayInRange : Prop :=
  ∀ s t : State, s.supplyInRange = true → s.drivesInRange = true → step s = .next t →
    t.supplyInRange = true ∧ t.drivesInRange = true

/-- The three invariants hold at reset. -/
def Obligations.InvariantsHoldAtReset : Prop :=
  Memory.wf State.reset.store.mem = true ∧ State.reset.queuesBounded = true ∧ State.reset.supplyInRange = true ∧
    State.reset.drivesInRange = true
end

