-- ==== Sys2Proof/Laws/Tables.lean ====
section
/-! SUPPORT. Reading an entry of a table after a write, and of tables given entry by entry. -/

namespace Sys2Proof

@[simp] theorem Six.get_set_same {α : Type} (t : Six α) (i : MotorPort) (v : α) : (t.set i v).get i = v := by
  cases i <;> rfl

@[simp] theorem Six.get_set_ne {α : Type} (t : Six α) {i j : MotorPort} (h : j ≠ i) (v : α) : (t.set i v).get j = t.get j := by
  cases i <;> cases j <;> first | rfl | exact absurd rfl h

@[simp] theorem Six.get_ofFn {α : Type} (g : MotorPort → α) (i : MotorPort) : (Six.ofFn g).get i = g i := by cases i <;> rfl

@[simp] theorem Six.get_map {α β : Type} (g : α → β) (t : Six α) (i : MotorPort) : (t.map g).get i = g (t.get i) := by
  cases i <;> rfl

@[simp] theorem Six.get_fill {α : Type} (v : α) (i : MotorPort) : (Six.fill v).get i = v := by cases i <;> rfl

theorem Six.get_set {α : Type} (t : Six α) (i j : MotorPort) (v : α) :
    (t.set i v).get j = if j = i then v else t.get j := by
  by_cases h : j = i
  · subst h; simp
  · simp [h]

theorem MotorPort.mem_all (i : MotorPort) : i ∈ MotorPort.all := by cases i <;> decide

@[simp] theorem Four.get_set_same {α : Type} (t : Four α) (i : Num4) (v : α) : (t.set i v).get i = v := by
  cases i <;> rfl

@[simp] theorem Four.get_set_ne {α : Type} (t : Four α) {i j : Num4} (h : j ≠ i) (v : α) : (t.set i v).get j = t.get j := by
  cases i <;> cases j <;> first | rfl | exact absurd rfl h

@[simp] theorem Four.get_ofFn {α : Type} (g : Num4 → α) (i : Num4) : (Four.ofFn g).get i = g i := by cases i <;> rfl

@[simp] theorem Four.get_map {α β : Type} (g : α → β) (t : Four α) (i : Num4) : (t.map g).get i = g (t.get i) := by
  cases i <;> rfl

@[simp] theorem Four.get_fill {α : Type} (v : α) (i : Num4) : (Four.fill v).get i = v := by cases i <;> rfl

theorem Four.get_set {α : Type} (t : Four α) (i j : Num4) (v : α) :
    (t.set i v).get j = if j = i then v else t.get j := by
  by_cases h : j = i
  · subst h; simp
  · simp [h]

theorem Num4.mem_all (i : Num4) : i ∈ Num4.all := by cases i <;> decide

@[simp] theorem Eight.get_set_same {α : Type} (t : Eight α) (i : Num8) (v : α) : (t.set i v).get i = v := by
  cases i <;> rfl

@[simp] theorem Eight.get_set_ne {α : Type} (t : Eight α) {i j : Num8} (h : j ≠ i) (v : α) : (t.set i v).get j = t.get j := by
  cases i <;> cases j <;> first | rfl | exact absurd rfl h

@[simp] theorem Eight.get_ofFn {α : Type} (g : Num8 → α) (i : Num8) : (Eight.ofFn g).get i = g i := by cases i <;> rfl

@[simp] theorem Eight.get_map {α β : Type} (g : α → β) (t : Eight α) (i : Num8) : (t.map g).get i = g (t.get i) := by
  cases i <;> rfl

@[simp] theorem Eight.get_fill {α : Type} (v : α) (i : Num8) : (Eight.fill v).get i = v := by cases i <;> rfl

theorem Eight.get_set {α : Type} (t : Eight α) (i j : Num8) (v : α) :
    (t.set i v).get j = if j = i then v else t.get j := by
  by_cases h : j = i
  · subst h; simp
  · simp [h]

theorem Num8.mem_all (i : Num8) : i ∈ Num8.all := by cases i <;> decide

@[simp] theorem Sixteen.get_set_same {α : Type} (t : Sixteen α) (i : Num16) (v : α) : (t.set i v).get i = v := by
  cases i <;> rfl

@[simp] theorem Sixteen.get_set_ne {α : Type} (t : Sixteen α) {i j : Num16} (h : j ≠ i) (v : α) : (t.set i v).get j = t.get j := by
  cases i <;> cases j <;> first | rfl | exact absurd rfl h

@[simp] theorem Sixteen.get_ofFn {α : Type} (g : Num16 → α) (i : Num16) : (Sixteen.ofFn g).get i = g i := by cases i <;> rfl

@[simp] theorem Sixteen.get_map {α β : Type} (g : α → β) (t : Sixteen α) (i : Num16) : (t.map g).get i = g (t.get i) := by
  cases i <;> rfl

@[simp] theorem Sixteen.get_fill {α : Type} (v : α) (i : Num16) : (Sixteen.fill v).get i = v := by cases i <;> rfl

theorem Sixteen.get_set {α : Type} (t : Sixteen α) (i j : Num16) (v : α) :
    (t.set i v).get j = if j = i then v else t.get j := by
  by_cases h : j = i
  · subst h; simp
  · simp [h]

theorem Num16.mem_all (i : Num16) : i ∈ Num16.all := by cases i <;> decide

end Sys2Proof
end

