-- ==== Sys2Proof/Laws/Segments.lean ====
section
/-! SUPPORT. What the end of a segment leaves of its channel, and what the conclusion of an event that flushes nothing
leaves of every channel. -/

namespace Sys2Proof.Machine

theorem Motors.groupsOn_nil (m : Motors) : m.groupsOn [] = [] := by simp [Motors.groupsOn]

/-- The conclusion of an event on no port only finishes releases (R23). -/
theorem Motors.conclude_nil_get (m : Motors) (q : MotorPort) :
    (m.conclude []).1.ch.get q = (m.ch.get q).finishRelease := by
  simp only [Motors.conclude, Motors.groupsOn_nil, Motors.breakAll]
  unfold Motors.pauseTest
  split <;> simp [Motors.finishReleases, Motors.noteGroups]

/-- A finished release changes only the holder and its mark. -/
theorem Channel.finishRelease_frame (c : Channel) :
    c.finishRelease.enc = c.enc ∧ c.finishRelease.kind = c.kind ∧ c.finishRelease.current = c.current ∧
      c.finishRelease.queue = c.queue ∧ c.finishRelease.state = c.state ∧ c.finishRelease.rest = c.rest ∧
      c.finishRelease.stallTimer = c.stallTimer ∧ c.finishRelease.steps = c.steps ∧
      c.finishRelease.applied = c.applied ∧ c.finishRelease.drive = c.drive ∧ c.finishRelease.q = c.q ∧
      c.finishRelease.spd = c.spd := by
  unfold Channel.finishRelease; split <;> simp

theorem Channel.takeRest_frame (live : Bool) (a : Rest) (rate : Nat) (c : Channel) :
    (c.takeRest live a rate).enc = c.enc ∧ (c.takeRest live a rate).kind = c.kind ∧
      (c.takeRest live a rate).current = c.current ∧ (c.takeRest live a rate).queue = c.queue := by
  cases a <;> exact ⟨rfl, rfl, rfl, rfl⟩

theorem Channel.dropCurrent_frame (c : Channel) :
    c.dropCurrent.enc = c.enc ∧ c.dropCurrent.kind = c.kind ∧ c.dropCurrent.queue = c.queue ∧
      c.dropCurrent.lastTarget = c.lastTarget ∧ c.dropCurrent.q = c.q ∧ c.dropCurrent.current = none := by
  unfold Channel.dropCurrent; split <;> simp_all

/-- A stop leaves what the motor is and where it stands, and nothing to run. -/
theorem Channel.stopWith_frame (live : Bool) (a : Rest) (c : Channel) :
    (c.stopWith live a).enc = c.enc ∧ (c.stopWith live a).kind = c.kind ∧ (c.stopWith live a).gains = c.gains ∧
      (c.stopWith live a).holder = c.holder ∧ (c.stopWith live a).lostLink = c.lostLink ∧
      (c.stopWith live a).current = none ∧ (c.stopWith live a).queue = [] ∧ (c.stopWith live a).state = .idle ∧
      (c.stopWith live a).rest = a := by
  cases a <;> simp only [Channel.stopWith, Channel.takeRest, Channel.applyAction, Channel.beginStop, Channel.unwound,
    Channel.emptied, Channel.dropCurrent] <;> (repeat' split) <;> simp_all

theorem Channel.goIdle_frame (live : Bool) (b : Boundary) (c : Channel) :
    (c.goIdle live b).enc = c.enc ∧ (c.goIdle live b).kind = c.kind := by
  cases b <;> simp [Channel.goIdle, Channel.takeRest_frame]

theorem Channel.becomeCurrent_frame (live : Bool) (g : Segment) (rest : List Segment) (c : Channel) :
    (c.becomeCurrent live g rest).enc = c.enc ∧ (c.becomeCurrent live g rest).kind = c.kind := by
  simp only [Channel.becomeCurrent]; split <;> simp [Channel.takeRest_frame]

theorem Channel.holdAt_frame (live : Bool) (b : Boundary) (c : Channel) :
    (c.holdAt live b).enc = c.enc ∧ (c.holdAt live b).kind = c.kind := by
  cases b <;> simp only [Channel.holdAt] <;> (try split) <;> simp [Channel.beginStop, Channel.unwound]

/-- Moving on at a boundary leaves the encoder count and the motor kind. -/
theorem Channel.moveOn_frame (pause : PauseState) (live : Bool) (p : MotorPort) (n : Nat) (b : Boundary) (c : Channel) :
    (c.moveOn pause live p n b).1.enc = c.enc ∧ (c.moveOn pause live p n b).1.kind = c.kind := by
  induction n generalizing b c with
  | zero => simp [Channel.moveOn, Channel.goIdle_frame]
  | succ n ih =>
    unfold Channel.moveOn
    split
    · simp [Channel.goIdle_frame]
    · split
      · split
        · simp only [Channel.startHead]
          split <;> rename_i he <;> split at he <;> simp at he
          · obtain ⟨h1, h2⟩ := he
            subst h1
            simp [Channel.becomeCurrent_frame]
          · obtain ⟨h1, h2, h3⟩ := he
            subst h1
            simp [ih, Channel.dropCurrent_frame, Channel.becomeCurrent_frame]
        · simp [Channel.enterWait, Channel.beginStop]
      · simp [Channel.holdAt_frame]

end Sys2Proof.Machine
end

