-- ==== Sys2Proof/Laws/Groups.lean ====
section
/-! SUPPORT. What an event on several ports, the break of sync groups and the conclusion of an event leave of each channel,
port by port. -/

namespace Sys2Proof.Machine

theorem MotorPort.all_nodup : MotorPort.all.Nodup := by decide

/-! ### Events on ports -/

/-- An event on ports leaves the pause state and the open groups. -/
theorem Motors.onPorts_rest (f : MotorPort → Channel → Channel × List Sent) (ps : List MotorPort) (m : Motors) :
    (Motors.onPorts f ps m).1.pause = m.pause ∧ (Motors.onPorts f ps m).1.groups = m.groups := by
  induction ps generalizing m with
  | nil => exact ⟨rfl, rfl⟩
  | cons p ps ih => simp [Motors.onPorts, ih, Motors.setCh]

theorem Motors.onPorts_get_notMem {f : MotorPort → Channel → Channel × List Sent} {ps : List MotorPort} {m : Motors}
    {q : MotorPort} (h : q ∉ ps) : (Motors.onPorts f ps m).1.ch.get q = m.ch.get q := by
  induction ps generalizing m with
  | nil => rfl
  | cons p ps ih =>
    simp only [List.mem_cons, not_or] at h
    simp [Motors.onPorts, ih h.2, Motors.setCh, h.1]

/-- An event on ports named once each changes each of them by itself. -/
theorem Motors.onPorts_get {f : MotorPort → Channel → Channel × List Sent} {ps : List MotorPort} {m : Motors}
    (hn : ps.Nodup) (q : MotorPort) :
    (Motors.onPorts f ps m).1.ch.get q = if q ∈ ps then (f q (m.ch.get q)).1 else m.ch.get q := by
  induction ps generalizing m with
  | nil => rfl
  | cons p ps ih =>
    simp only [List.nodup_cons] at hn
    by_cases h : q = p
    · subst h
      simp [Motors.onPorts, Motors.onPorts_get_notMem hn.1, Motors.setCh]
    · simp [Motors.onPorts, ih hn.2, Motors.setCh, h]

/-- Its notices are those of the ports, in their order. -/
theorem Motors.onPorts_sent {f : MotorPort → Channel → Channel × List Sent} {ps : List MotorPort} {m : Motors}
    (hn : ps.Nodup) : (Motors.onPorts f ps m).2 = ps.flatMap (fun q => (f q (m.ch.get q)).2) := by
  induction ps generalizing m with
  | nil => rfl
  | cons p ps ih =>
    simp only [List.nodup_cons] at hn
    simp only [Motors.onPorts, ih hn.2, List.flatMap_cons, Motors.setCh]
    congr 1
    apply List.flatMap_congr
    intro q hq
    have : q ≠ p := fun h => hn.1 (h ▸ hq)
    simp [this]

/-! ### Breaks of sync groups (R53) -/

theorem takeBroken_nil (xs : List Segment) : takeBroken [] xs = (xs, []) := by
  induction xs with
  | nil => rfl
  | cons x xs ih => simp [takeBroken, ih]

/-- A break keeps the order of the segments it leaves. -/
theorem takeBroken_sublist (gs : List Group) (xs : List Segment) : (takeBroken gs xs).1.Sublist xs := by
  induction xs generalizing gs with
  | nil => simp [takeBroken]
  | cons x xs ih =>
    unfold takeBroken
    split
    · exact (ih _).trans (List.sublist_cons_self x xs)
    · exact (ih _).cons_cons x

/-- Nothing of a queue ends where no segment belongs to the groups. -/
theorem takeBroken_none {gs : List Group} {xs : List Segment} (h : ∀ x ∈ xs, x.group ∉ gs) :
    takeBroken gs xs = (xs, []) := by
  induction xs with
  | nil => cases gs <;> rfl
  | cons x xs ih =>
    have hx : x.group ∉ gs := h x (by simp)
    simp [takeBroken, hx, ih (fun y hy => h y (by simp [hy]))]

/-- The break of one group ends its first segment counted from the head. -/
theorem takeBroken_one {g : Group} {front back : List Segment} {x : Segment} (hf : ∀ y ∈ front, y.group ≠ g)
    (hx : x.group = g) : takeBroken [g] (front ++ x :: back) = (front ++ back, [x]) := by
  induction front with
  | nil => simp [takeBroken, hx, takeBroken_nil]
  | cons y ys ih =>
    have hy : y.group ≠ g := hf y (by simp)
    simp [takeBroken, hy, ih (fun z hz => hf z (by simp [hz]))]

/-- A break leaves what a channel runs and how its motor is driven. -/
theorem Channel.breakGroups_frame (gs : List Group) (p : MotorPort) (c : Channel) :
    (c.breakGroups gs p).1.current = c.current ∧ (c.breakGroups gs p).1.enc = c.enc ∧
      (c.breakGroups gs p).1.kind = c.kind ∧ (c.breakGroups gs p).1.applied = c.applied ∧
      (c.breakGroups gs p).1.drive = c.drive ∧ (c.breakGroups gs p).1.holder = c.holder ∧
      (c.breakGroups gs p).1.lostLink = c.lostLink ∧ (c.breakGroups gs p).1.queue = (takeBroken gs c.queue).1 := by
  unfold Channel.breakGroups
  split
  · rename_i xs h
    have := takeBroken_sublist gs c.queue
    refine ⟨rfl, rfl, rfl, rfl, rfl, rfl, rfl, ?_⟩
    rw [h]
    have hl : ∀ (gs : List Group) (q : List Segment), (takeBroken gs q).2 = [] → (takeBroken gs q).1 = q := by
      intro gs q
      induction q generalizing gs with
      | nil => intro _; cases gs <;> rfl
      | cons x q ih =>
        unfold takeBroken
        split
        · simp
        · intro hh; simp [ih _ hh]
    have h2 := hl gs c.queue (by rw [h])
    rw [h] at h2
    exact h2.symm
  · rename_i left ended _ h
    simp only [h]
    split <;> simp

theorem Channel.breakGroups_nil (p : MotorPort) (c : Channel) : c.breakGroups [] p = (c, []) := by
  simp [Channel.breakGroups, takeBroken_nil]

/-- A break of groups on each port. -/
theorem Motors.breakAll_get (gs : List Group) (m : Motors) (q : MotorPort) :
    (Motors.breakAll gs m).1.ch.get q = ((m.ch.get q).breakGroups (groupsOf q gs) q).1 := by
  cases gs with
  | nil => simp [Motors.breakAll, groupsOf, Channel.breakGroups_nil]
  | cons g gs => simp [Motors.breakAll, Motors.onPorts_get MotorPort.all_nodup, MotorPort.mem_all]

/-- The notices of a break, port by port from A to F. -/
theorem Motors.breakAll_sent (gs : List Group) (m : Motors) :
    (Motors.breakAll gs m).2 = MotorPort.all.flatMap (fun q => ((m.ch.get q).breakGroups (groupsOf q gs) q).2) := by
  cases gs with
  | nil => simp [Motors.breakAll, groupsOf, Channel.breakGroups_nil]
  | cons g gs => simp [Motors.breakAll, Motors.onPorts_sent MotorPort.all_nodup]

theorem Motors.breakAll_rest (gs : List Group) (m : Motors) :
    (Motors.breakAll gs m).1.pause = m.pause ∧
      (Motors.breakAll gs m).1.groups = m.groups.filter (fun h => !gs.contains h) := by
  cases gs with
  | nil => simp [Motors.breakAll]
  | cons g gs => simp [Motors.breakAll, Motors.onPorts_rest]

/-! ### Open groups (R50) -/

/-- No new group opens where every waiting channel waits for an open one. -/
theorem Motors.newGroups_nil {m : Motors} (h : ∀ q g, (m.ch.get q).waitGroup = some g → g ∈ m.groups) :
    m.newGroups = [] := by
  have step : ∀ ps : List MotorPort,
      ps.foldl (fun acc p =>
        match (m.ch.get p).waitGroup with
        | none => acc
        | some g => if m.groups.contains g || acc.contains g then acc else acc ++ [g]) ([] : List Group) = [] := by
    intro ps
    induction ps with
    | nil => rfl
    | cons p ps ih =>
      rw [List.foldl_cons]
      cases hw : (m.ch.get p).waitGroup with
      | none => exact ih
      | some g => simpa [h p g hw] using ih
  exact step _

theorem Channel.waitGroup_none {c : Channel} (h : c.state ≠ .syncWait) : c.waitGroup = none := by
  simp [Channel.waitGroup, h]

/-! ### The conclusion of an event -/

theorem Motors.pauseTest_ch (m : Motors) : m.pauseTest.1.ch = m.ch ∧ m.pauseTest.1.groups = m.groups := by
  unfold Motors.pauseTest; split <;> simp

theorem Motors.pauseTest_quiet {m : Motors} (h : m.pause ≠ .pausing) : m.pauseTest = (m, []) := by
  simp [Motors.pauseTest, h]

/-- The conclusion of an event on each channel: the groups it breaks, then R23. -/
theorem Motors.conclude_get (ps : List MotorPort) (m : Motors) (q : MotorPort) :
    (m.conclude ps).1.ch.get q =
      ((m.ch.get q).breakGroups (groupsOf q (m.noteGroups.groupsOn ps)) q).1.finishRelease := by
  simp [Motors.conclude, Motors.pauseTest_ch, Motors.finishReleases, Motors.breakAll_get, Motors.noteGroups]

/-- An empty queue has nothing a break can end. -/
theorem Channel.breakGroups_empty (gs : List Group) (p : MotorPort) {c : Channel} (h : c.queue = []) :
    c.breakGroups gs p = (c, []) := by
  unfold Channel.breakGroups; rw [h]; cases gs <;> rfl

/-- An event on ports named once each, port by port: its own effect, the groups it breaks, then R23. -/
theorem Motors.event_get {f : MotorPort → Channel → Channel × List Sent} {ps : List MotorPort} {m : Motors}
    (hn : ps.Nodup) (q : MotorPort) :
    (Motors.event f ps m).1.ch.get q =
      ((if q ∈ ps then (f q (m.ch.get q)).1 else m.ch.get q).breakGroups
        (groupsOf q ((Motors.onPorts f ps m).1.noteGroups.groupsOn ps)) q).1.finishRelease := by
  simp only [Motors.event, Motors.conclude_get, Motors.onPorts_get hn]

/-- Where no group is open and none opens, an event on ports breaks none. -/
theorem Motors.event_quiet {f : MotorPort → Channel → Channel × List Sent} {ps : List MotorPort} {m : Motors}
    (hn : ps.Nodup) (hf : ∀ q ∈ ps, (f q (m.ch.get q)).1.state ≠ .syncWait) (hg : m.groups = [])
    (hs : ∀ q, (m.ch.get q).state ≠ .syncWait) : (Motors.onPorts f ps m).1.noteGroups.groups = [] := by
  have hnew : (Motors.onPorts f ps m).1.newGroups = [] := by
    apply Motors.newGroups_nil
    intro q g h
    rw [Motors.onPorts_get hn] at h
    split at h
    · rename_i hq; rw [Channel.waitGroup_none (hf q hq)] at h; simp at h
    · rw [Channel.waitGroup_none (hs q)] at h; simp at h
  simp [Motors.noteGroups, hnew, Motors.onPorts_rest, hg]

/-- The groups open after the conclusion of an event. -/
theorem Motors.conclude_groups (ps : List MotorPort) (m : Motors) :
    (m.conclude ps).1.groups =
      m.noteGroups.groups.filter (fun h => !(m.noteGroups.groupsOn ps).contains h) := by
  simp [Motors.conclude, Motors.pauseTest_ch, Motors.finishReleases, Motors.breakAll_rest]

/-- The notices of the conclusion of an event while no pause begins. -/
theorem Motors.conclude_sent {ps : List MotorPort} {m : Motors} (h : m.pause ≠ .pausing) :
    (m.conclude ps).2 = MotorPort.all.flatMap
      (fun q => ((m.ch.get q).breakGroups (groupsOf q (m.noteGroups.groupsOn ps)) q).2) := by
  have hp : (Motors.breakAll (m.noteGroups.groupsOn ps) m.noteGroups).1.finishReleases.pause ≠ .pausing := by
    simpa [Motors.finishReleases, Motors.breakAll_rest, Motors.noteGroups] using h
  simp only [Motors.conclude]
  rw [Motors.pauseTest_quiet hp]
  simp [Motors.breakAll_sent, Motors.noteGroups]

end Sys2Proof.Machine
end

