-- ==== Sys2Proof/Laws/Expiry.lean ====
section
/-! SUPPORT. What the parts of a control expiry leave of each channel: its ending checks port by port, the examination of the
barrier, the stages (R3, R25, R50 to R52). -/

namespace Sys2Proof.Machine

/-! ### The checks, port by port -/

theorem Motors.checkPorts_notMem {f : Feed} {r : Six MotorReading} {ps : List MotorPort} {m : Motors} {q : MotorPort}
    (h : q ∉ ps) : (Motors.checkPorts f r ps m).1.ch.get q = m.ch.get q := by
  induction ps generalizing m with
  | nil => rfl
  | cons p ps ih =>
    simp only [List.mem_cons, not_or] at h
    simp [Motors.checkPorts, ih h.2, Motors.setCh, h.1]

theorem Motors.checkPorts_rest (f : Feed) (r : Six MotorReading) (ps : List MotorPort) (m : Motors) :
    (Motors.checkPorts f r ps m).1.pause = m.pause ∧ (Motors.checkPorts f r ps m).1.groups = m.groups := by
  induction ps generalizing m with
  | nil => exact ⟨rfl, rfl⟩
  | cons p ps ih => simp [Motors.checkPorts, ih, Motors.setCh]

/-- The checks of a port see only its own channel. -/
theorem Motors.checkPorts_get {f : Feed} {r : Six MotorReading} {ps : List MotorPort} {m : Motors} (hn : ps.Nodup)
    (q : MotorPort) :
    (Motors.checkPorts f r ps m).1.ch.get q =
      if q ∈ ps then ((m.ch.get q).expiryChecks m.pause f q (r.get q)).ch else m.ch.get q := by
  induction ps generalizing m with
  | nil => rfl
  | cons p ps ih =>
    simp only [List.nodup_cons] at hn
    by_cases h : q = p
    · subst h
      simp [Motors.checkPorts, Motors.checkPorts_notMem hn.1, Motors.setCh]
    · simp [Motors.checkPorts, ih hn.2, Motors.setCh, h]

/-- No port is counted by R52 where no check flushed a queue. -/
theorem Motors.checkPorts_calm {f : Feed} {r : Six MotorReading} {ps : List MotorPort} {m : Motors} (hn : ps.Nodup)
    (h : ∀ p ∈ ps, ((m.ch.get p).expiryChecks m.pause f p (r.get p)).flushed = false) :
    (Motors.checkPorts f r ps m).2.2 = [] := by
  induction ps generalizing m with
  | nil => rfl
  | cons p ps ih =>
    simp only [List.nodup_cons] at hn
    have hp := h p (by simp)
    have := ih (m := m.setCh p ((m.ch.get p).expiryChecks m.pause f p (r.get p)).ch) hn.2 (by
      intro q hq
      have hne : q ≠ p := fun e => hn.1 (e ▸ hq)
      simpa [Motors.setCh, hne] using h q (by simp [hq]))
    simp [Motors.checkPorts, hp, this]

/-- The checks of a port with no motor do nothing. -/
theorem Channel.expiryChecks_none {pause : PauseState} {f : Feed} {p : MotorPort} {r : MotorReading} {c : Channel}
    (h : c.kind = .none) : c.expiryChecks pause f p r = Checked.quiet c := by simp [Channel.expiryChecks, h]

/-- The record that the checks of a channel at rest or at the barrier leave before it moves on: the inputs read, the
overcurrent count and the stall timer at 0. -/
def Channel.calmed (r : MotorReading) (c : Channel) : Channel :=
  { c.readInputs r with overCount := 0, stallTimer := 0, starved := false }

/-- R25 items 1 to 3 on a channel in IDLE whose current is not above the threshold. -/
theorem Channel.expiryChecks_idle {pause : PauseState} {f : Feed} {p : MotorPort} {r : MotorReading} {c : Channel}
    (hk : c.kind ≠ .none) (hs : c.state = .idle)
    (hc : absInt r.current ≤ 2 * (c.kind.ratedCurrent : Int)) :
    c.expiryChecks pause f p r =
      (Checked.ofPair false ((c.calmed r).moveOn pause f.live p (c.queue.length + 1) .resting)).andThen
        (fun d => Checked.ofPair false (d.finishStop pause f.live p)) := by
  have h1 : (c.readInputs r) = { c with enc := clamp (-2000000000) 2000000000 (c.enc + r.delta), mA := r.current } := by
    simp [Channel.readInputs, hk]
  have h2 : (c.readInputs r).checkCurrent p = Checked.quiet { c.readInputs r with overCount := 0 } := by
    have : ¬ 2 * (c.kind.ratedCurrent : Int) < absInt r.current := by omega
    simp [Channel.checkCurrent, Channel.currentChecked, h1, hk, hs, Channel.overCurrent, this]
  have h3 : Channel.checkDone pause f.live p { c.readInputs r with overCount := 0 } =
      Checked.quiet { c.readInputs r with overCount := 0 } := by
    simp only [Channel.checkDone, h1]
    split
    · rfl
    · simp [Channel.durationUsed, hs]
  have h4 : Channel.checkStall f.live f.lam c.applied p { c.readInputs r with overCount := 0 } =
      Checked.quiet (c.calmed r) := by
    simp [Channel.checkStall, h1, hs, Channel.calmed]
  have h5 : Channel.takeHead pause f.live p (c.calmed r) =
      Checked.ofPair false ((c.calmed r).moveOn pause f.live p (c.queue.length + 1) .resting) := by
    simp [Channel.takeHead, Channel.calmed, h1, hs]
  simp only [Channel.expiryChecks, hk, if_false]
  simp only [Checked.andThen, Checked.quiet, h2, h3, h4, h5]
  simp [Checked.ofPair]

/-- R25 items 1 to 3 on a channel in SYNC_WAIT whose current is not above the threshold. -/
theorem Channel.expiryChecks_syncWait {pause : PauseState} {f : Feed} {p : MotorPort} {r : MotorReading} {c : Channel}
    (hk : c.kind ≠ .none) (hs : c.state = .syncWait)
    (hc : absInt r.current ≤ 2 * (c.kind.ratedCurrent : Int)) :
    c.expiryChecks pause f p r = Checked.quiet (c.calmed r) := by
  have h1 : (c.readInputs r) = { c with enc := clamp (-2000000000) 2000000000 (c.enc + r.delta), mA := r.current } := by
    simp [Channel.readInputs, hk]
  have h2 : (c.readInputs r).checkCurrent p = Checked.quiet { c.readInputs r with overCount := 0 } := by
    have : ¬ 2 * (c.kind.ratedCurrent : Int) < absInt r.current := by omega
    simp [Channel.checkCurrent, Channel.currentChecked, h1, hk, hs, Channel.overCurrent, this]
  have h3 : Channel.checkDone pause f.live p { c.readInputs r with overCount := 0 } =
      Checked.quiet { c.readInputs r with overCount := 0 } := by
    simp only [Channel.checkDone, h1]
    split
    · rfl
    · simp [Channel.durationUsed, hs]
  have h4 : Channel.checkStall f.live f.lam c.applied p { c.readInputs r with overCount := 0 } =
      Checked.quiet (c.calmed r) := by
    simp [Channel.checkStall, h1, hs, Channel.calmed]
  have h5 : Channel.takeHead pause f.live p (c.calmed r) = Checked.quiet (c.calmed r) := by
    simp [Channel.takeHead, Channel.calmed, h1, hs]
  have h6 : Channel.finishStop pause f.live p (c.calmed r) = (c.calmed r, []) := by
    simp only [Channel.finishStop]
    split
    · simp [Channel.stopLands, Channel.calmed, h1, hs]
    · rfl
  simp only [Channel.expiryChecks, hk, if_false]
  simp only [Checked.andThen, Checked.quiet, h2, h3, h4, h5, h6]
  simp [Checked.ofPair]

/-- R3: a channel in IDLE, no pause, its head with no sync tag and no STOP: the head becomes current. -/
theorem Channel.expiryChecks_takes {f : Feed} {p : MotorPort} {r : MotorReading} {c : Channel} {h : Segment}
    {rest : List Segment} (hk : c.kind ≠ .none) (hs : c.state = .idle)
    (hc : absInt r.current ≤ 2 * (c.kind.ratedCurrent : Int)) (hq : c.queue = h :: rest) (ht : h.syncTag = 0)
    (hh : h.kind ≠ .stop) :
    c.expiryChecks .running f p r = Checked.quiet ((c.calmed r).becomeCurrent f.live h rest) := by
  have hq' : (c.calmed r).queue = h :: rest := by
    simp [Channel.calmed, Channel.readInputs, hk, hq]
  have hpl : ((c.calmed r).planned h).kind = h.kind := by simp only [Channel.planned]; split <;> rfl
  have hst : stopsAtOnce h ((c.calmed r).becomeCurrent f.live h rest) = false := by simp [stopsAtOnce, hh]
  have hm : (c.calmed r).moveOn .running f.live p (c.queue.length + 1) .resting =
      ((c.calmed r).becomeCurrent f.live h rest, []) := by
    rw [Channel.moveOn]
    simp [hq', Channel.permitted, ht, Channel.startHead, hst]
  have hcur : ((c.calmed r).becomeCurrent f.live h rest).current = some ((c.calmed r).planned h) := by
    simp [Channel.becomeCurrent, hh]
  rw [Channel.expiryChecks_idle hk hs hc, hm]
  simp [Checked.andThen, Checked.ofPair, Checked.quiet, Channel.finishStop, hcur, hpl, hh]

/-- R50: a channel in IDLE, no pause, its head with a sync tag: it waits. -/
theorem Channel.expiryChecks_waits {f : Feed} {p : MotorPort} {r : MotorReading} {c : Channel} {h : Segment}
    {rest : List Segment} (hk : c.kind ≠ .none) (hs : c.state = .idle)
    (hc : absInt r.current ≤ 2 * (c.kind.ratedCurrent : Int)) (hq : c.queue = h :: rest) (ht : h.syncTag ≠ 0) :
    c.expiryChecks .running f p r = Checked.quiet (c.calmed r).enterWait := by
  have hq' : (c.calmed r).queue = h :: rest := by
    simp [Channel.calmed, Channel.readInputs, hk, hq]
  have hm : (c.calmed r).moveOn .running f.live p (c.queue.length + 1) .resting = ((c.calmed r).enterWait, []) := by
    rw [Channel.moveOn]
    simp [hq', Channel.permitted, ht]
  rw [Channel.expiryChecks_idle hk hs hc, hm]
  have : Channel.finishStop .running f.live p (c.calmed r).enterWait = ((c.calmed r).enterWait, []) := by
    simp only [Channel.finishStop]
    split
    · simp [Channel.stopLands, Channel.enterWait]
    · rfl
  simp [Checked.andThen, Checked.ofPair, Checked.quiet, this]

/-- A channel in IDLE with an empty queue stays. -/
theorem Channel.expiryChecks_rests {pause : PauseState} {f : Feed} {p : MotorPort} {r : MotorReading} {c : Channel}
    (hk : c.kind ≠ .none) (hs : c.state = .idle) (hc : absInt r.current ≤ 2 * (c.kind.ratedCurrent : Int))
    (hq : c.queue = []) : c.expiryChecks pause f p r = Checked.quiet (c.calmed r) := by
  have hq' : (c.calmed r).queue = [] := by simp [Channel.calmed, Channel.readInputs, hk, hq]
  have hm : (c.calmed r).moveOn pause f.live p (c.queue.length + 1) .resting = (c.calmed r, []) := by
    rw [Channel.moveOn]
    simp [hq', Channel.goIdle]
  rw [Channel.expiryChecks_idle hk hs hc, hm]
  have : Channel.finishStop pause f.live p (c.calmed r) = (c.calmed r, []) := by
    simp only [Channel.finishStop]
    split
    · simp [Channel.stopLands, Channel.calmed, Channel.readInputs, hk, hs]
    · rfl
  simp [Checked.andThen, Checked.ofPair, Checked.quiet, this]

/-! ### The barrier -/

/-- Two records of a channel that differ only where a break of groups takes segments out of the queue. -/
def Channel.trimmed (c d : Channel) : Prop :=
  ∃ q n k, d = { c with queue := q, allowance := n, stepMark := k } ∧ q.Sublist c.queue

theorem Channel.trimmed_refl (c : Channel) : c.trimmed c := ⟨_, _, _, rfl, List.Sublist.refl _⟩

theorem Channel.trimmed_trans {a b c : Channel} (h : a.trimmed b) (g : b.trimmed c) : a.trimmed c := by
  obtain ⟨q, n, k, rfl, h1⟩ := h
  obtain ⟨q', n', k', rfl, h2⟩ := g
  exact ⟨q', n', k', rfl, h2.trans h1⟩

theorem Channel.trimmed_frame {c d : Channel} (h : c.trimmed d) : d.state = c.state ∧ d.waits = c.waits := by
  obtain ⟨q, n, k, rfl, _⟩ := h
  exact ⟨rfl, rfl⟩

/-- A break takes segments out of the queue of a channel that does not wait at the barrier, and nothing else. -/
theorem Channel.breakGroups_trimmed (gs : List Group) (p : MotorPort) {c : Channel} (h : c.waits = false) :
    c.trimmed (c.breakGroups gs p).1 := by
  have hq := takeBroken_sublist gs c.queue
  unfold Channel.breakGroups
  split
  · exact c.trimmed_refl
  · rename_i left ended _ he
    rw [he] at hq
    simp only [h, Bool.and_false, Bool.false_eq_true, if_false]
    exact ⟨_, _, _, rfl, hq⟩

theorem Motors.breakAll_trimmed (gs : List Group) {m : Motors} {p : MotorPort} (h : (m.ch.get p).waits = false) :
    (m.ch.get p).trimmed ((Motors.breakAll gs m).1.ch.get p) := by
  rw [Motors.breakAll_get]; exact Channel.breakGroups_trimmed _ _ h

/-- A release changes members of its group only. -/
theorem Motors.releaseAll_notMem {live : Bool} {gs : List Group} {m : Motors} {p : MotorPort}
    (h : ∀ g ∈ gs, p ∉ g.members) : (Motors.releaseAll live gs m).1.ch.get p = m.ch.get p := by
  induction gs generalizing m with
  | nil => rfl
  | cons g gs ih =>
    simp only [Motors.releaseAll]
    rw [ih (fun g' hg => h g' (by simp [hg])), Motors.onPorts_get_notMem (h g (by simp))]

/-- The examination takes segments out of the queue of a channel that does not wait at the barrier, and nothing else. -/
theorem Motors.examine_trimmed (live : Bool) (n : Nat) (gs : List Group) {m : Motors} {p : MotorPort}
    (h : (m.ch.get p).waits = false) : (m.ch.get p).trimmed ((Motors.examine live n gs m).1.ch.get p) := by
  induction n generalizing gs m with
  | zero => exact Channel.trimmed_refl _
  | succ n ih =>
    have hb := Motors.breakAll_trimmed (gs.filter m.mismatched) h
    have hr : ((Motors.releaseAll live (gs.filter m.releases) (Motors.breakAll (gs.filter m.mismatched) m).1).1).ch.get p =
        (Motors.breakAll (gs.filter m.mismatched) m).1.ch.get p := by
      apply Motors.releaseAll_notMem
      intro g hg hp
      have := (List.mem_filter.mp hg).2
      simp only [Motors.releases, List.all_eq_true] at this
      have := this p hp
      have hs : (m.ch.get p).state ≠ .syncWait := by intro e; simp [Channel.waits, e] at h
      simp [Channel.readyFor, Channel.waitGroup, hs] at this
    simp only [Motors.examine]
    split
    · rw [hr]; exact hb
    · have e : (Motors.releaseAll live (gs.filter m.releases)
          (Motors.breakAll (gs.filter m.mismatched) m).1).1.noteGroups.ch.get p =
            (Motors.breakAll (gs.filter m.mismatched) m).1.ch.get p := hr
      refine Channel.trimmed_trans ?_ (ih _ ?_)
      · rw [e]; exact hb
      · rw [e, (Channel.trimmed_frame hb).2]; exact h

/-- Where no open group is released or broken and every waiting channel waits for an open one, the examination does
nothing. -/
theorem Motors.examine_quiet (live : Bool) (n : Nat) {gs : List Group} {m : Motors}
    (hb : ∀ g ∈ gs, m.mismatched g = false) (hr : ∀ g ∈ gs, m.releases g = false)
    (hw : ∀ q g, (m.ch.get q).waitGroup = some g → g ∈ m.groups) : Motors.examine live (n + 1) gs m = (m, []) := by
  have e1 : gs.filter m.mismatched = [] := by simpa [List.filter_eq_nil_iff] using hb
  have e2 : gs.filter m.releases = [] := by simpa [List.filter_eq_nil_iff] using hr
  simp [Motors.examine, e1, e2, Motors.breakAll, Motors.releaseAll, Motors.newGroups_nil hw]

/-- A member's head that is no STOP becomes current when its group is released. -/
theorem Channel.released_moves {pause : PauseState} {live : Bool} {p : MotorPort} {c : Channel} {h : Segment}
    {rest : List Segment} (hq : c.queue = h :: rest) (hh : h.kind ≠ .stop) :
    c.released pause live p = (c.becomeCurrent live h rest, []) := by
  have hpl : (c.planned h).kind = h.kind := by simp only [Channel.planned]; split <;> rfl
  have hst : stopsAtOnce h (c.becomeCurrent live h rest) = false := by simp [stopsAtOnce, hh]
  have hcur : (c.becomeCurrent live h rest).current = some (c.planned h) := by simp [Channel.becomeCurrent, hh]
  have hs : c.startReleased pause live p = (c.becomeCurrent live h rest, []) := by
    simp [Channel.startReleased, hq, Channel.startHead, hst]
  simp [Channel.released, hs, Channel.finishStop, hcur, hpl, hh]

/-- The release of the one open group whose members all wait with no STOP at the head. -/
theorem Motors.examine_release (live : Bool) (n : Nat) {g : Group} {m : Motors} (hg : m.groups = [g])
    (hn : g.members.Nodup)
    (hm : ∀ p ∈ g.members, (m.ch.get p).state = .syncWait ∧
      ∃ h rest, (m.ch.get p).queue = h :: rest ∧ h.group = g ∧ h.kind ≠ .stop)
    (ho : ∀ p, p ∉ g.members → (m.ch.get p).state ≠ .syncWait) :
    (Motors.examine live (n + 1) [g] m).1.groups = [] ∧ (Motors.examine live (n + 1) [g] m).2 = [] ∧
      (∀ p, p ∉ g.members → (Motors.examine live (n + 1) [g] m).1.ch.get p = m.ch.get p) ∧
      (∀ p ∈ g.members, ∀ h rest, (m.ch.get p).queue = h :: rest →
        (Motors.examine live (n + 1) [g] m).1.ch.get p = (m.ch.get p).becomeCurrent live h rest) := by
  have hmis : m.mismatched g = false := by
    simp only [Motors.mismatched, List.any_eq_false]
    intro p hp
    obtain ⟨_, h, rest, hq, hgr, _⟩ := hm p hp
    subst hgr
    simp [hq, Segment.inGroup, Segment.group]
  have hrel : m.releases g = true := by
    simp only [Motors.releases, List.all_eq_true]
    intro p hp
    obtain ⟨hs, h, rest, hq, hgr, _⟩ := hm p hp
    simp [Channel.readyFor, Channel.waitGroup, hs, hq, hgr]
  let r := Motors.onPorts (fun p c => c.released m.pause live p) g.members { m with groups := [] }
  have hget : ∀ p, r.1.ch.get p =
      if p ∈ g.members then ((m.ch.get p).released m.pause live p).1 else m.ch.get p :=
    fun p => Motors.onPorts_get hn p
  have hmoves : ∀ p ∈ g.members, ∀ h rest, (m.ch.get p).queue = h :: rest →
      (m.ch.get p).released m.pause live p = ((m.ch.get p).becomeCurrent live h rest, []) := by
    intro p hp h rest hq
    obtain ⟨_, h', rest', hq', _, hk⟩ := hm p hp
    rw [hq'] at hq; simp only [List.cons.injEq] at hq
    exact Channel.released_moves (by rw [hq', hq.1, hq.2]) (hq.1 ▸ hk)
  have hsent : r.2 = [] := by
    show (Motors.onPorts _ _ _).2 = []
    rw [Motors.onPorts_sent hn, List.flatMap_eq_nil_iff]
    intro p hp
    obtain ⟨_, h, rest, hq, _, _⟩ := hm p hp
    show ((m.ch.get p).released m.pause live p).2 = []
    rw [hmoves p hp h rest hq]
  have hnew : r.1.newGroups = [] := by
    apply Motors.newGroups_nil
    intro q g' hw
    exfalso
    have hne : (r.1.ch.get q).state ≠ .syncWait := by
      rw [hget]
      split
      · rename_i hq
        obtain ⟨_, h, rest, hqq, _, hk⟩ := hm q hq
        rw [hmoves q hq h rest hqq]
        simp [Channel.becomeCurrent, hk]
      · rename_i hq; exact ho q hq
    simp [Channel.waitGroup, hne] at hw
  have hex : Motors.examine live (n + 1) [g] m = (r.1, []) := by
    have e : (Motors.onPorts (fun p c => c.released m.pause live p) g.members { m with groups := [] }).2 = [] := hsent
    have e2 : (Motors.onPorts (fun p c => c.released m.pause live p) g.members { m with groups := [] }).1.newGroups = [] := hnew
    simp [Motors.examine, hmis, hrel, Motors.breakAll, Motors.releaseAll, hg, e, e2, r]
  rw [hex]
  refine ⟨(Motors.onPorts_rest _ _ _).2, rfl, fun p hp => by rw [hget]; simp [hp], fun p hp h rest hq => ?_⟩
  rw [hget, if_pos hp, hmoves p hp h rest hq]

/-! ### The whole expiry -/

/-- The record of a channel after the expiry: what the barrier left of it, then the stages, then R23. -/
theorem Motors.expiry_get (f : Feed) (r : Six MotorReading) (m : Motors) (p : MotorPort) :
    let x := Motors.checkPorts f r MotorPort.all m
    let b := Motors.breakAll (x.1.noteGroups.groupsOn x.2.2) x.1.noteGroups
    let e := Motors.examine f.live 9 b.1.groups b.1
    (Motors.expiry f r m).1.ch.get p = ((e.1.ch.get p).work f).finishRelease ∧
      (Motors.expiry f r m).1.groups = e.1.groups := by
  intro x b e
  simp only [Motors.expiry, Motors.pauseTest_ch, Motors.finishReleases]
  simp [x, b, e]

/-! ### The stages -/

theorem Channel.calmed_frame (r : MotorReading) (c : Channel) :
    (c.calmed r).queue = c.queue ∧ (c.calmed r).state = c.state ∧ (c.calmed r).q = c.q ∧
      (c.calmed r).lastTarget = c.lastTarget ∧ (c.calmed r).kind = c.kind ∧ (c.calmed r).current = c.current := by
  unfold Channel.calmed Channel.readInputs; split <;> simp

/-- The stages keep the queue, the current segment, the rest action and the motor kind; a channel that runs stays in
RUNNING or, when a MOVE reaches its target, goes to SETTLING, and counts one step of a DUTY or SPEED segment (R25,
R33). -/
theorem Channel.work_frame (f : Feed) (c : Channel) :
    (c.work f).queue = c.queue ∧ (c.work f).current = c.current ∧ (c.work f).rest = c.rest ∧ (c.work f).kind = c.kind ∧
    (c.state ≠ .running → (c.work f).state = c.state) ∧
    (∀ g, c.state = .running → c.current = some g → g.kind ≠ .stop →
      (c.work f).state = .running ∨ (g.isMove = true ∧ (c.work f).state = .settling)) ∧
    (∀ g, c.state = .running → c.current = some g → g.kind = .duty ∨ g.kind = .speed → c.kind ≠ .none → f.live = true →
      (c.work f).steps = c.steps + 1) := by
  have hm : ∀ g, (Channel.moveStep g c).queue = c.queue ∧ (Channel.moveStep g c).current = c.current ∧
      (Channel.moveStep g c).rest = c.rest ∧ (Channel.moveStep g c).kind = c.kind ∧
      ((Channel.moveStep g c).state = c.state ∨ (Channel.moveStep g c).state = .settling) := by
    intro g; simp only [Channel.moveStep]; split <;> simp [Channel.withProfile]
  have hr : c.restStep.queue = c.queue ∧ c.restStep.current = c.current ∧ c.restStep.rest = c.rest ∧
      c.restStep.kind = c.kind ∧ c.restStep.state = c.state ∧ c.restStep.steps = c.steps := by
    simp only [Channel.restStep]; split <;> (try split) <;> simp [Channel.withProfile]
  unfold Channel.work
  by_cases hk : c.kind = .none
  · simp only [hk, if_true]
    exact ⟨trivial, trivial, trivial, trivial, fun _ => trivial, fun g hs _ _ => .inl hs, fun g _ _ _ h => absurd rfl h⟩
  · simp only [hk, if_false]
    by_cases hc : c.computed f.live = true
    · simp only [hc, if_true, Channel.outputDriven]
      unfold Channel.commanded
      cases hs : c.state <;> simp only [reduceCtorEq, ne_eq, not_false_eq_true, forall_const, not_true,
        IsEmpty.forall_iff, Channel.controlled]
      all_goals try (simp [hr, hs])
      cases hcur : c.current with
      | none => simp
      | some g =>
        have h1 := hm g
        cases hk2 : g.kind <;>
          simp [hk2, h1, hs, hcur, Channel.dutyStep, Channel.speedStep, Channel.withProfile, Segment.isMove]
        · rcases h1.2.2.2.2 with h | h <;> simp [h, hs]
        · rcases h1.2.2.2.2 with h | h <;> simp [h, hs]
    · have hc' : c.computed f.live = false := by simpa using hc
      simp only [hc', Bool.false_eq_true, if_false, Channel.followMotor, Channel.unwound]
      refine ⟨trivial, trivial, trivial, trivial, fun _ => trivial, fun g hs _ _ => .inl hs, fun g hs _ _ _ hl => ?_⟩
      simp [Channel.computed, hl, hs] at hc'

/-- R3, R51: a channel that has just taken a segment, after the stages: the segment is current with its target, its
first step is taken. -/
theorem Channel.taken_after (f : Feed) (r : MotorReading) (c : Channel) (h : Segment) (rest : List Segment)
    (hk : c.kind ≠ .none) (hh : h.kind ≠ .stop) (d : Channel) (ht : ((c.calmed r).becomeCurrent f.live h rest).trimmed d) :
    let e := (d.work f).finishRelease
    e.current = some (if h.kind = .moveBy then { h with target := moveByTarget c.lastTarget c.q h.distance } else h) ∧
      (e.state = .running ∨ (h.isMove = true ∧ e.state = .settling)) ∧
      (f.live = true → h.kind = .duty ∨ h.kind = .speed → e.steps = 1) ∧ e.queue.Sublist rest ∧ e.queue = d.queue := by
  obtain ⟨q, n, k, rfl, hs⟩ := ht
  intro e
  have cf := Channel.calmed_frame r c
  let b := (c.calmed r).becomeCurrent f.live h rest
  have hb : b.current = some ((c.calmed r).planned h) ∧ b.state = .running ∧ b.kind = c.kind ∧ b.steps = 0 ∧
      b.queue = rest := by
    simp [b, Channel.becomeCurrent, hh, cf]
  have hpl : (c.calmed r).planned h =
      (if h.kind = .moveBy then { h with target := moveByTarget c.lastTarget c.q h.distance } else h) := by
    simp [Channel.planned, cf]
  have hpk : ((c.calmed r).planned h).kind = h.kind := by simp only [Channel.planned]; split <;> rfl
  have w := Channel.work_frame f { b with queue := q, allowance := n, stepMark := k }
  have ff := Channel.finishRelease_frame (Channel.work f { b with queue := q, allowance := n, stepMark := k })
  refine ⟨?_, ?_, ?_, ?_, ?_⟩
  · exact (ff.2.2.1.trans w.2.1).trans (hb.1.trans (by rw [hpl]))
  · have := w.2.2.2.2.2.1 _ hb.2.1 hb.1 (by rw [hpk]; exact hh)
    have hm : ((c.calmed r).planned h).isMove = h.isMove := by simp [Segment.isMove, hpk]
    rw [hm] at this
    show (Channel.finishRelease _).state = _ ∨ _ ∧ (Channel.finishRelease _).state = _
    rw [ff.2.2.2.2.1]; exact this
  · intro hl hd
    have := w.2.2.2.2.2.2 _ hb.2.1 hb.1 (by rw [hpk]; exact hd) (by show b.kind ≠ _; rw [hb.2.2.1]; exact hk) hl
    exact ff.2.2.2.2.2.2.2.1.trans (this.trans (by show b.steps + 1 = 1; rw [hb.2.2.2.1]))
  · have : e.queue = q := ff.2.2.2.1.trans w.1
    rw [this]; have hbq : b.queue = rest := hb.2.2.2.2; exact hbq ▸ hs
  · exact ff.2.2.2.1.trans w.1

/-! ### A channel that the barrier leaves alone -/

/-- Two records that differ only in the queue, the pause permissions and the holder. -/
def Channel.sameMotion (c d : Channel) : Prop :=
  ∃ q n k h l, d = { c with queue := q, allowance := n, stepMark := k, holder := h, lostLink := l }

/-- The stages do not read what the barrier can take from a channel that does not wait. -/
theorem Channel.work_trimmed (f : Feed) {c d : Channel} (h : c.trimmed d) : (c.work f).sameMotion (d.work f) := by
  obtain ⟨q, n, k, rfl, _⟩ := h
  refine ⟨q, n, k, (c.work f).holder, (c.work f).lostLink, ?_⟩
  unfold Channel.work
  by_cases hk : c.kind = .none
  · simp [hk]
  · simp only [hk, if_false]
    have hc : ({ c with queue := q, allowance := n, stepMark := k } : Channel).computed f.live = c.computed f.live := rfl
    rw [hc]
    cases c.computed f.live
    · rfl
    · simp only [if_true, Channel.commanded]
      have hm : ∀ g, (Channel.moveStep g { c with queue := q, allowance := n, stepMark := k }) =
          { Channel.moveStep g c with queue := q, allowance := n, stepMark := k } := by
        intro g; simp only [Channel.moveStep]; split <;> rfl
      have hr : ({ c with queue := q, allowance := n, stepMark := k } : Channel).restStep =
          { c.restStep with queue := q, allowance := n, stepMark := k } := by
        simp only [Channel.restStep]; split <;> (try split) <;> rfl
      split
      · split
        · rfl
        · rfl
        · rw [hm]; rfl
        · rw [hm]; rfl
        · rw [hr]; rfl
      · rfl
      · rw [hr]; rfl

theorem Channel.finishRelease_sameMotion (c : Channel) : c.sameMotion c.finishRelease := by
  unfold Channel.finishRelease; split
  · exact ⟨_, _, _, _, _, rfl⟩
  · exact ⟨c.queue, c.allowance, c.stepMark, c.holder, c.lostLink, rfl⟩

theorem Channel.sameMotion_trans {a b c : Channel} (h : a.sameMotion b) (g : b.sameMotion c) : a.sameMotion c := by
  obtain ⟨q, n, k, x, l, rfl⟩ := h
  obtain ⟨q', n', k', x', l', rfl⟩ := g
  exact ⟨q', n', k', x', l', rfl⟩

/-- R25: a channel that the checks leave not waiting at the barrier goes through the stages as the checks left it. -/
theorem Motors.expiry_left {f : Feed} {r : Six MotorReading} {m : Motors} {p : MotorPort} {c : Channel}
    (hc : ((m.ch.get p).expiryChecks m.pause f p (r.get p)).ch = c) (hw : c.waits = false) :
    (c.work f).sameMotion ((Motors.expiry f r m).1.ch.get p) := by
  have hx : (Motors.checkPorts f r MotorPort.all m).1.ch.get p = c := by
    rw [Motors.checkPorts_get MotorPort.all_nodup, if_pos (MotorPort.mem_all p), hc]
  rw [(Motors.expiry_get f r m p).1]
  refine Channel.sameMotion_trans (Channel.work_trimmed f ?_) (Channel.finishRelease_sameMotion _)
  have h0 : ((Motors.checkPorts f r MotorPort.all m).1.noteGroups.ch.get p).waits = false := by
    show ((Motors.checkPorts f r MotorPort.all m).1.ch.get p).waits = false
    rw [hx]; exact hw
  have h1 := Motors.breakAll_trimmed ((Motors.checkPorts f r MotorPort.all m).1.noteGroups.groupsOn
    (Motors.checkPorts f r MotorPort.all m).2.2) h0
  have h2 := Motors.examine_trimmed f.live 9 (Motors.breakAll ((Motors.checkPorts f r MotorPort.all m).1.noteGroups.groupsOn
    (Motors.checkPorts f r MotorPort.all m).2.2) (Motors.checkPorts f r MotorPort.all m).1.noteGroups).1.groups
    (h := by rw [(Channel.trimmed_frame h1).2]; exact h0)
  have h3 := Channel.trimmed_trans h1 h2
  have e : (Motors.checkPorts f r MotorPort.all m).1.noteGroups.ch.get p = c := hx
  rw [e] at h3
  exact h3

/-- A current that is not above the threshold only changes the overcurrent count (R48). -/
theorem Channel.checkCurrent_calm (p : MotorPort) {c : Channel} (h : absInt c.mA ≤ 2 * (c.kind.ratedCurrent : Int)) :
    ∃ o, c.checkCurrent p = Checked.quiet { c with overCount := o } := by
  have hn : c.overCurrent = false := by simp [Channel.overCurrent]; omega
  by_cases hc : c.currentChecked = true
  · exact ⟨0, by simp [Channel.checkCurrent, hc, hn]⟩
  · exact ⟨c.overCount, by simp [Channel.checkCurrent, hc]⟩

/-- A segment that does not end only changes the settling counts (R33, R44). -/
theorem Channel.checkDone_goesOn (pause : PauseState) (live : Bool) (p : MotorPort) {c : Channel}
    (hd : ∀ g, c.current = some g → c.durationUsed g = false)
    (hs : ∀ g, c.current = some g → c.state = .settling →
      (c.settleCounted g).inTol < g.settleCount ∧ c.settleTime + 1 < g.settleLimit) :
    ∃ t i, c.checkDone pause live p = Checked.quiet { c with settleTime := t, inTol := i } := by
  unfold Channel.checkDone
  split
  · exact ⟨c.settleTime, c.inTol, rfl⟩
  · rename_i g hg
    rw [hd g hg]
    by_cases h : c.state = .settling
    · obtain ⟨h1, h2⟩ := hs g hg h
      have e1 : ¬ g.settleCount ≤ (c.settleCounted g).inTol := by omega
      have e2 : ¬ g.settleLimit ≤ (c.settleCounted g).settleTime := by show ¬ _ ≤ c.settleTime + 1; omega
      rw [if_neg (by simp), if_pos h, if_neg e1, if_neg e2]
      exact ⟨_, _, rfl⟩
    · rw [if_neg (by simp), if_neg h]
      exact ⟨c.settleTime, c.inTol, rfl⟩

/-- A stall timer below its limit only counts on or is cleared (R46). -/
theorem Channel.checkStall_goesOn (live : Bool) (lam : Nat) (u : Int) (p : MotorPort) {c : Channel}
    (h : c.stallTimer + 1 < c.stallTime) :
    ∃ n b, c.checkStall live lam u p = Checked.quiet { c with stallTimer := n, starved := b } := by
  unfold Channel.checkStall
  split
  · split
    · exact ⟨_, _, rfl⟩
    · by_cases hlam : lam < 1000
      · have : ¬ c.stallTime ≤ c.stallTimer := by omega
        exact ⟨c.stallTimer, true, by simp [hlam, this]⟩
      · have : ¬ c.stallTime ≤ c.stallTimer + 1 := by omega
        exact ⟨c.stallTimer + 1, false, by simp [hlam, this]⟩
  · exact ⟨_, _, rfl⟩

/-- A channel outside IDLE takes no head (R3). -/
theorem Channel.takeHead_away (pause : PauseState) (live : Bool) (p : MotorPort) {c : Channel} (h : c.state ≠ .idle) :
    c.takeHead pause live p = Checked.quiet c := by
  unfold Channel.takeHead; rw [if_neg h]

/-- A channel whose current segment is no STOP that lands is not stopped (R7). -/
theorem Channel.finishStop_goesOn (pause : PauseState) (live : Bool) (p : MotorPort) {c : Channel}
    (h : ∀ g, c.current = some g → g.kind = .stop → c.stopLands live = false) : c.finishStop pause live p = (c, []) := by
  unfold Channel.finishStop
  split
  · rename_i g hg
    rw [if_neg]
    rintro ⟨h1, h2⟩
    rw [h g hg h1] at h2
    simp at h2
  · rfl

/-- R25 items 1 to 3 on a channel in none of the conditions that end or start a segment: only the inputs and the
counts of the checks change. -/
theorem Channel.expiryChecks_goesOn {pause : PauseState} {f : Feed} {p : MotorPort} {r : MotorReading} {c : Channel}
    (hk : c.kind ≠ .none) (hi : c.state ≠ .idle) (hc : absInt r.current ≤ 2 * (c.kind.ratedCurrent : Int))
    (hst : c.stallTimer + 1 < c.stallTime) (hd : ∀ g, c.current = some g → c.durationUsed g = false)
    (hs : ∀ g, c.current = some g → c.state = .settling →
      ((c.readInputs r).settleCounted g).inTol < g.settleCount ∧ c.settleTime + 1 < g.settleLimit)
    (hl : ∀ g, c.current = some g → g.kind = .stop → c.stopLands f.live = false) :
    ∃ o n b t i, c.expiryChecks pause f p r =
      Checked.quiet { c.readInputs r with overCount := o, stallTimer := n, starved := b, settleTime := t, inTol := i } := by
  have h1 : (c.readInputs r) = { c with enc := clamp (-2000000000) 2000000000 (c.enc + r.delta), mA := r.current } := by
    simp [Channel.readInputs, hk]
  rw [h1] at hs ⊢
  obtain ⟨o, h2⟩ := Channel.checkCurrent_calm p
    (c := { c with enc := clamp (-2000000000) 2000000000 (c.enc + r.delta), mA := r.current }) hc
  obtain ⟨t, i, h3⟩ := Channel.checkDone_goesOn pause f.live p
    (c := { c with enc := clamp (-2000000000) 2000000000 (c.enc + r.delta), mA := r.current, overCount := o }) hd hs
  obtain ⟨n, b, h4⟩ := Channel.checkStall_goesOn f.live f.lam c.applied p
    (c := { c with enc := clamp (-2000000000) 2000000000 (c.enc + r.delta), mA := r.current, overCount := o,
                   settleTime := t, inTol := i }) hst
  refine ⟨o, n, b, t, i, ?_⟩
  have h5 := Channel.takeHead_away pause f.live p
    (c := { c with enc := clamp (-2000000000) 2000000000 (c.enc + r.delta), mA := r.current, overCount := o,
                   settleTime := t, inTol := i, stallTimer := n, starved := b }) hi
  have h6 := Channel.finishStop_goesOn pause f.live p
    (c := { c with enc := clamp (-2000000000) 2000000000 (c.enc + r.delta), mA := r.current, overCount := o,
                   settleTime := t, inTol := i, stallTimer := n, starved := b }) hl
  simp only [Channel.expiryChecks, hk, if_false]
  simp only [Checked.andThen, Checked.quiet, h1, h2, h3, h4, h5, h6]
  simp [Checked.ofPair]

end Sys2Proof.Machine
end

