-- ==== Sys2Proof/Laws/ExpirySteps.lean ====
section
/-! SUPPORT. What one control expiry commands of a channel, which kinds of notice it gives, and what it breaks at the
barrier (R25, R26, R28 to R38, R52, R53, R57, R58). -/

namespace Sys2Proof.Machine

/-! ### What the stages command -/

/-- The control law ran on the profile y, from the record c (R36 to R38). -/
def Channel.ruled (c d : Channel) (y : Profile) : Prop :=
  let k := controlLaw c.gains y.q y.spd d.enc { integ := c.integ, uc := c.uc, sat := c.sat }
  d.q = y.q ∧ d.spd = y.spd ∧ d.phase = y.phase ∧ d.integ = k.integ ∧ d.uc = k.uc ∧ d.sat = k.sat ∧
    d.drive = .driven

/-- One step of the current segment g, from the record c (R28 to R35). -/
def Channel.ran (c d : Channel) (g : Segment) : Prop :=
  match g.kind with
  | .duty => d.q = d.enc * 1000000 ∧ d.spd = 0 ∧ d.phase = .done ∧ d.integ = 0 ∧ d.uc = g.duty ∧ d.sat = false ∧
      d.drive = .driven
  | .speed => Channel.ruled c d (Machine.speedStep c.q c.spd (g.cruise * 1000) g.accel g.decel)
  | .stop => Channel.ruled c d (stopStep { q := c.q, spd := c.spd, phase := c.phase } c.stopRate)
  | _ => Channel.ruled c d (Machine.moveStep c.q c.spd g.target (g.cruise * 1000) g.accel g.decel) ∧
      (d.state = .settling ↔ d.phase = .done)

/-- The channel follows its motor, action a in force (R26, R33). -/
def Channel.follows (d : Channel) (a : Rest) : Prop :=
  d.q = d.enc * 1000000 ∧ d.spd = 0 ∧ d.phase = .done ∧ d.integ = 0 ∧ d.uc = 0 ∧ d.sat = false ∧ d.applied = 0 ∧
    d.drive = (if a = .brake then .shorted else .off)

/-- A running channel takes one step of its current segment. -/
theorem Channel.ran_work (f : Feed) (c : Channel) (g : Segment) (hl : f.live = true) (hk : c.kind ≠ .none) (hs :
    c.state = .running) (hc : c.current = some g) : Channel.ran c (c.work f) g ∧ (c.work f).current = c.current ∧
    (g.kind = .duty ∨ g.kind = .speed → (c.work f).steps = c.steps + 1) := by
  have hcomp : c.computed f.live = true := by simp [Channel.computed, hl, hs]
  have hw : c.work f = { c.commanded.outputDriven f with prevEnc := (c.commanded.outputDriven f).enc } := by
    simp [Channel.work, hk, hcomp]
  have hr : c.restStep = c.withProfile (stopStep c.profile c.stopRate) := by
    simp [Channel.restStep, hc, hs]
  rw [hw]
  unfold Channel.commanded
  rw [hs, hc]
  cases hg : g.kind <;> simp only [Channel.ran, hg]
  · simp [Channel.dutyStep, Channel.outputDriven, microDeg, hc]
  · simp [Channel.ruled, Channel.speedStep, Channel.outputDriven, Channel.controlled, Channel.withProfile, hc]
  · simp only [Channel.moveStep, Channel.ruled]
    split <;> rename_i h <;> simp [Channel.outputDriven, Channel.controlled, Channel.withProfile, h, hc, hs]
  · simp only [Channel.moveStep, Channel.ruled]
    split <;> rename_i h <;> simp [Channel.outputDriven, Channel.controlled, Channel.withProfile, h, hc, hs]
  · rw [hr]; simp [Channel.ruled, Channel.outputDriven, Channel.controlled, Channel.withProfile, Channel.profile, hc]

/-- A channel that rests, waits or is held with no MOVE takes the stopping or holding step (R34). -/
theorem Channel.rest_work (f : Feed) (c : Channel) (hk : c.kind ≠ .none) (hcomp : c.computed f.live = true)
   (hs : c.state ≠ .running) (hs2 : c.state ≠ .settling) (hm : c.state = .held → ∀ g, c.current = some g →
       g.isMove = false) :
   Channel.ruled c (c.work f) (stopStep { q := c.q, spd := c.spd, phase := c.phase } c.stopRate) ∧
       (c.work f).state = c.state := by
  have hw : c.work f = { c.commanded.outputDriven f with prevEnc := (c.commanded.outputDriven f).enc } := by
    simp [Channel.work, hk, hcomp]
  have hr : c.restStep = c.withProfile (stopStep c.profile c.stopRate) := by
    unfold Channel.restStep; split
    · rename_i g hg
      by_cases h : c.state = .held
      · simp [hm h g hg]
      · simp [h]
    · rfl
  have hc : c.commanded = c.restStep.controlled := by
    unfold Channel.commanded; split
    · rename_i a _; exact absurd a hs
    · rename_i a; exact absurd a hs2
    · rfl
  rw [hw, hc, hr]; simp [Channel.ruled, Channel.outputDriven, Channel.controlled, Channel.withProfile,
      Channel.profile]

/-- A settling channel is commanded where it stands (R28). -/
theorem Channel.settle_work (f : Feed) (c : Channel) (hl : f.live = true) (hk : c.kind ≠ .none) (hs : c.state =
    .settling) :
   Channel.ruled c (c.work f) { q := c.q, spd := c.spd, phase := c.phase } ∧ (c.work f).state = .settling := by
  have hcomp : c.computed f.live = true := by simp [Channel.computed, hl, hs]
  have hc : c.commanded = c.controlled := by
    unfold Channel.commanded; rw [hs]
  simp [Channel.work, hk, hcomp, hc, Channel.ruled, Channel.outputDriven, Channel.controlled, hs]

/-- A held MOVE takes the stopping step cut at its target (R57). -/
theorem Channel.heldMove_work (f : Feed) (c : Channel) (g : Segment) (hk : c.kind ≠ .none) (hcomp : c.computed f.live
    = true)
   (hs : c.state = .held) (hc : c.current = some g) (hg : g.isMove = true) :
   Channel.ruled c (c.work f) (heldMoveStep { q := c.q, spd := c.spd, phase := c.phase } c.stopRate g.target) ∧
       (c.work f).state = .held := by
  have h1 : c.commanded = c.restStep.controlled := by
    unfold Channel.commanded; rw [hs]
  have hr : c.restStep = c.withProfile (heldMoveStep c.profile c.stopRate g.target) := by
    simp [Channel.restStep, hc, hs, hg]
  simp [Channel.work, hk, hcomp, h1, hr, Channel.ruled, Channel.outputDriven, Channel.controlled, hs,
      Channel.withProfile, Channel.profile]

/-- A channel that is not computed follows its motor (R26). -/
theorem Channel.follow_work (f : Feed) (c : Channel) (a : Rest) (hl : f.live = true) (hk : c.kind ≠ .none) (hcomp :
    c.computed f.live = false)
   (hs : c.state ≠ .fault) (ha : c.restInForce = a) (hh : a ≠ .hold) :
   Channel.follows (c.work f) a ∧ (c.work f).state = c.state := by
  simp [Channel.work, hk, Channel.followMotor, ha, hh, Channel.follows, Channel.unwound, hl, hs, restDrive, microDeg]
  cases a <;> simp_all

theorem Channel.ruled_same {c d e : Channel} {y : Profile} (h : d.sameMotion e) (hr : Channel.ruled c d y) :
    Channel.ruled c e y := by
  obtain ⟨q, n, k, x, l, rfl⟩ := h; exact hr

theorem Channel.ran_same {c d e : Channel} {y : Segment} (h : d.sameMotion e) (hr : Channel.ran c d y) : Channel.ran
    c e y := by
  obtain ⟨q, n, k, x, l, rfl⟩ := h; exact hr

theorem Channel.follows_same {d e : Channel} {y : Rest} (h : d.sameMotion e) (hr : Channel.follows d y) :
    Channel.follows e y := by
  obtain ⟨q, n, k, x, l, rfl⟩ := h; exact hr

/-- R25 items 1 to 3 on a channel that waits at the barrier or is held, its current not above the threshold. -/
theorem Channel.expiryChecks_still {pause : PauseState} {f : Feed} {p : MotorPort} {r : MotorReading} {c : Channel}
    (hk : c.kind ≠ .none) (hs : c.state = .syncWait ∨ c.state = .held)
    (hc : absInt r.current ≤ 2 * (c.kind.ratedCurrent : Int)) :
    c.expiryChecks pause f p r = Checked.quiet (c.calmed r) := by
  have h1 : (c.readInputs r) = { c with enc := clamp (-2000000000) 2000000000 (c.enc + r.delta), mA := r.current } :=
      by
    simp [Channel.readInputs, hk]
  have hns : c.state ≠ .idle ∧ c.state ≠ .fault ∧ c.state ≠ .running ∧ c.state ≠ .settling := by
    rcases hs with h | h <;> simp [h]
  have h2 : (c.readInputs r).checkCurrent p = Checked.quiet { c.readInputs r with overCount := 0 } := by
    have : ¬ 2 * (c.kind.ratedCurrent : Int) < absInt r.current := by omega
    simp [Channel.checkCurrent, Channel.currentChecked, h1, hk, hns, Channel.overCurrent, this]
  have h3 : Channel.checkDone pause f.live p { c.readInputs r with overCount := 0 } =
      Checked.quiet { c.readInputs r with overCount := 0 } := by
    simp only [Channel.checkDone, h1]
    split
    · rfl
    · simp [Channel.durationUsed, hns]
  have h4 : Channel.checkStall f.live f.lam c.applied p { c.readInputs r with overCount := 0 } =
      Checked.quiet (c.calmed r) := by
    simp [Channel.checkStall, h1, hns, Channel.calmed]
  have h5 : Channel.takeHead pause f.live p (c.calmed r) = Checked.quiet (c.calmed r) :=
    Channel.takeHead_away _ _ _ (by simp [Channel.calmed, h1, hns])
  have h6 : Channel.finishStop pause f.live p (c.calmed r) = (c.calmed r, []) :=
    Channel.finishStop_goesOn _ _ _ (fun g _ _ => by simp [Channel.stopLands, Channel.calmed, h1, hns])
  simp only [Channel.expiryChecks, hk, if_false]
  simp only [Checked.andThen, Checked.quiet, h2, h3, h4, h5, h6]
  simp [Checked.ofPair]

/-- R3, R51: the first step of a segment that this expiry has taken. -/
theorem Channel.taken_ran (f : Feed) (r : MotorReading) (c : Channel) (h : Segment) (rest : List Segment) (hk :
    c.kind ≠ .none)
    (hh : h.kind ≠ .stop) (hl : f.live = true) (d : Channel) (ht : ((c.calmed r).becomeCurrent f.live h rest).trimmed
        d) :
    Channel.ran c ((d.work f).finishRelease) (if h.kind = .moveBy then
        { h with target := moveByTarget c.lastTarget c.q h.distance } else h) := by
  obtain ⟨q, n, k, rfl, hs⟩ := ht
  have cf := Channel.calmed_frame r c
  have hpl : (c.calmed r).planned h =
      (if h.kind = .moveBy then { h with target := moveByTarget c.lastTarget c.q h.distance } else h) := by
    simp [Channel.planned, cf]
  have hcal : (c.calmed r) =
      { c with enc := clamp (-2000000000) 2000000000 (c.enc + r.delta), mA := r.current, overCount := 0, stallTimer := 0, starved := false } := by
    simp [Channel.calmed, Channel.readInputs, hk]
  rw [← hpl]
  refine Channel.ran_same (Channel.finishRelease_sameMotion _) ?_
  have A := Channel.ran_work f
      { ((c.calmed r).becomeCurrent f.live h rest) with queue := q, allowance := n, stepMark := k }
    ((c.calmed r).planned h) hl (by simp [Channel.becomeCurrent, hh, cf, hk]) (by simp [Channel.becomeCurrent, hh])
    (by simp [Channel.becomeCurrent, hh])
  have e : Channel.ran { ((c.calmed r).becomeCurrent f.live h rest) with queue := q, allowance := n, stepMark := k }
      = Channel.ran c := by
    funext d g
    simp only [Channel.becomeCurrent, hh, if_false]
    rw [hcal]; rfl
  rw [e] at A
  exact A.1

/-! ### The notices of an expiry -/

/-- Every notice is a SEGMENT_END. -/
def EndsOnly (ns : List Sent) : Prop := ∀ n ∈ ns, n.notice.channel = 0x61

theorem EndsOnly.app {a b : List Sent} (h : EndsOnly a) (g : EndsOnly b) : EndsOnly (a ++ b) := by
  intro n hn; rcases List.mem_append.mp hn with hn | hn
  · exact h n hn
  · exact g n hn

theorem EndsOnly.nil : EndsOnly [] := by intro n hn; cases hn

theorem EndsOnly.flat {α : Type} {xs : List α} {f : α → List Sent} (h : ∀ x, EndsOnly (f x)) : EndsOnly (xs.flatMap
    f) := by
  intro n hn; obtain ⟨x, _, hx⟩ := List.mem_flatMap.mp hn; exact h x n hx

theorem segmentEnd_endsOnly (p g o e t l) : EndsOnly (segmentEnd p g o e t l) := by
  unfold segmentEnd; split
  · intro n hn; simp at hn; subst hn; rfl
  · exact EndsOnly.nil

theorem Channel.endNotices_endsOnly (p c f r) : EndsOnly (Channel.endNotices p c f r) := by
  unfold Channel.endNotices
  refine EndsOnly.app ?_ (EndsOnly.flat fun g => segmentEnd_endsOnly _ _ _ _ _ _)
  split
  · exact EndsOnly.nil
  · exact segmentEnd_endsOnly _ _ _ _ _ _

theorem Channel.moveOn_endsOnly (pause live p n b c) : EndsOnly (Channel.moveOn pause live p n b c).2 := by
  induction n generalizing b c with
  | zero => exact EndsOnly.nil
  | succ n ih =>
    unfold Channel.moveOn
    split
    · exact EndsOnly.nil
    · split
      · split
        · split
          · rename_i h; simp only [Channel.startHead] at h; split at h <;> simp at h
            obtain ⟨_, h⟩ := h; subst h; exact EndsOnly.nil
          · rename_i h; simp only [Channel.startHead] at h; split at h <;> simp at h
            obtain ⟨_, h, _⟩ := h; subst h; exact EndsOnly.app (segmentEnd_endsOnly _ _ _ _ _ _) (ih _ _)
        · exact EndsOnly.nil
      · exact EndsOnly.nil

theorem Channel.complete_endsOnly (pause live p g o c) : EndsOnly (Channel.complete pause live p g o c).2 :=
  EndsOnly.app (segmentEnd_endsOnly _ _ _ _ _ _) (Channel.moveOn_endsOnly _ _ _ _ _ _)

theorem Channel.finishStop_endsOnly (pause live p c) : EndsOnly (Channel.finishStop pause live p c).2 := by
  unfold Channel.finishStop; split
  · split
    · exact Channel.complete_endsOnly _ _ _ _ _ _
    · exact EndsOnly.nil
  · exact EndsOnly.nil

theorem Checked.andThen_endsOnly {x : Checked} {f : Channel → Checked} (h : EndsOnly x.sent) (g : ∀ c,
    EndsOnly (f c).sent) : EndsOnly (x.andThen f).sent :=
  EndsOnly.app h (g _)

theorem Checked.ite_endsOnly {P : Prop} [Decidable P] {a b : Checked} (h : EndsOnly a.sent) (g : EndsOnly b.sent) :
    EndsOnly (Checked.sent (if P then a else b)) := by
  split
  · exact h
  · exact g

theorem Channel.expiryChecks_endsOnly (pause f p r c) : EndsOnly (Channel.expiryChecks pause f p r c).sent := by
  unfold Channel.expiryChecks
  split
  · exact EndsOnly.nil
  · refine Checked.andThen_endsOnly (Checked.andThen_endsOnly (Checked.andThen_endsOnly (Checked.andThen_endsOnly
      (Checked.andThen_endsOnly EndsOnly.nil ?_) ?_) ?_) ?_) ?_ <;> intro c
    · unfold Channel.checkCurrent; split
      · split
        · split
          · exact Channel.endNotices_endsOnly _ _ _ _
          · exact EndsOnly.nil
        · exact EndsOnly.nil
      · exact EndsOnly.nil
    · unfold Channel.checkDone; split
      · exact EndsOnly.nil
      · split
        · exact Channel.complete_endsOnly _ _ _ _ _ _
        · split
          · dsimp only; split
            · exact Channel.complete_endsOnly _ _ _ _ _ _
            · split
              · exact Channel.complete_endsOnly _ _ _ _ _ _
              · exact EndsOnly.nil
          · exact EndsOnly.nil
    · unfold Channel.checkStall; split
      · split
        · exact EndsOnly.nil
        · exact Checked.ite_endsOnly (Channel.endNotices_endsOnly _ _ _ _) EndsOnly.nil
      · exact EndsOnly.nil
    · unfold Channel.takeHead; split
      · exact Channel.moveOn_endsOnly _ _ _ _ _ _
      · exact EndsOnly.nil
    · exact Channel.finishStop_endsOnly _ _ _ _

theorem Motors.onPorts_endsOnly {f : MotorPort → Channel → Channel × List Sent} (h : ∀ p c, EndsOnly (f p c).2)
    (ps m) : EndsOnly (Motors.onPorts f ps m).2 := by
  induction ps generalizing m with
  | nil => exact EndsOnly.nil
  | cons p ps ih => exact EndsOnly.app (h _ _) (ih _)

theorem Channel.breakGroups_endsOnly (gs p c) : EndsOnly (Channel.breakGroups gs p c).2 := by
  unfold Channel.breakGroups; split
  · exact EndsOnly.nil
  · exact EndsOnly.flat fun _ => segmentEnd_endsOnly _ _ _ _ _ _

theorem Motors.breakAll_endsOnly (gs m) : EndsOnly (Motors.breakAll gs m).2 := by
  cases gs
  · exact EndsOnly.nil
  · exact Motors.onPorts_endsOnly (fun _ _ => Channel.breakGroups_endsOnly _ _ _) _ _

theorem Channel.released_endsOnly (pause live p c) : EndsOnly (Channel.released pause live p c).2 := by
  refine EndsOnly.app ?_ (Channel.finishStop_endsOnly _ _ _ _)
  unfold Channel.startReleased; split
  · exact EndsOnly.nil
  · split
    · rename_i h; simp only [Channel.startHead] at h; split at h <;> simp at h
      obtain ⟨_, h⟩ := h; subst h; exact EndsOnly.nil
    · rename_i h; simp only [Channel.startHead] at h; split at h <;> simp at h
      obtain ⟨_, h, _⟩ := h; subst h; exact EndsOnly.app (segmentEnd_endsOnly _ _ _ _ _ _) (Channel.moveOn_endsOnly _
          _ _ _ _ _)

theorem Motors.releaseAll_endsOnly (live gs m) : EndsOnly (Motors.releaseAll live gs m).2 := by
  induction gs generalizing m with
  | nil => exact EndsOnly.nil
  | cons g gs ih =>
    exact EndsOnly.app (Motors.onPorts_endsOnly (fun _ _ => Channel.released_endsOnly _ _ _ _) _ _) (ih _)

theorem Motors.examine_endsOnly (live n gs m) : EndsOnly (Motors.examine live n gs m).2 := by
  induction n generalizing gs m with
  | zero => exact EndsOnly.nil
  | succ n ih =>
    unfold Motors.examine; dsimp only; split
    · exact EndsOnly.app (Motors.breakAll_endsOnly _ _) (Motors.releaseAll_endsOnly _ _ _)
    · exact EndsOnly.app (Motors.breakAll_endsOnly _ _) (EndsOnly.app (Motors.releaseAll_endsOnly _ _ _) (ih _ _))

theorem Motors.checkPorts_endsOnly (f r ps m) : EndsOnly (Motors.checkPorts f r ps m).2.1 := by
  induction ps generalizing m with
  | nil => exact EndsOnly.nil
  | cons p ps ih => exact EndsOnly.app (Channel.expiryChecks_endsOnly _ _ _ _ _) (ih _)

theorem Motors.releaseAll_pause (live gs m) : (Motors.releaseAll live gs m).1.pause = m.pause := by
  induction gs generalizing m with
  | nil => rfl
  | cons g gs ih => exact (ih _).trans (Motors.onPorts_rest _ _ _).1

theorem Motors.examine_pause (live n gs m) : (Motors.examine live n gs m).1.pause = m.pause := by
  induction n generalizing gs m with
  | zero => rfl
  | succ n ih =>
    have h : ∀ a b, (Motors.releaseAll live a (Motors.breakAll b m).1).1.pause = m.pause :=
      fun a b => (Motors.releaseAll_pause _ _ _).trans (Motors.breakAll_rest _ _).1
    unfold Motors.examine; dsimp only; split
    · exact h _ _
    · exact (ih _ _).trans (h _ _)

/-! ### What no event of an expiry touches -/

/-- The same encoder count, current and motor kind. -/
def Channel.sameMotor (c d : Channel) : Prop := d.enc = c.enc ∧ d.mA = c.mA ∧ d.kind = c.kind

theorem Channel.sameMotor.same {c} : Channel.sameMotor c c := ⟨rfl, rfl, rfl⟩

theorem Channel.sameMotor.trans {a b c} (h : Channel.sameMotor a b) (g : Channel.sameMotor b c) : Channel.sameMotor a
    c := ⟨g.1.trans h.1, g.2.1.trans h.2.1, g.2.2.trans h.2.2⟩

theorem Channel.dropCurrent_sameMotor (c) : Channel.sameMotor c (Channel.dropCurrent c) := by
  unfold Channel.dropCurrent; split <;> simp [Channel.sameMotor]

theorem Channel.takeRest_sameMotor (l a r c) : Channel.sameMotor c (Channel.takeRest l a r c) := by
    cases a <;> exact ⟨rfl, rfl, rfl⟩

theorem Channel.goIdle_sameMotor (l b c) : Channel.sameMotor c (Channel.goIdle l b c) := by
  cases b
  · exact Channel.takeRest_sameMotor _ _ _ _
  · exact Channel.sameMotor.same

theorem Channel.becomeCurrent_sameMotor (l g r c) : Channel.sameMotor c (Channel.becomeCurrent l g r c) := by
  simp only [Channel.becomeCurrent]; split
  · exact Channel.takeRest_sameMotor _ _ _ _
  · exact Channel.sameMotor.same

theorem Channel.holdAt_sameMotor (l b c) : Channel.sameMotor c (Channel.holdAt l b c) := by
  cases b <;> simp only [Channel.holdAt] <;> (try split) <;> simp [Channel.beginStop, Channel.unwound,
      Channel.sameMotor]

theorem Channel.startHead_sameMotor (l p g r c) : Channel.sameMotor c (Channel.startHead l p g r c).1 := by
  simp only [Channel.startHead]; split
  · exact (Channel.becomeCurrent_sameMotor _ _ _ _).trans (Channel.dropCurrent_sameMotor _)
  · exact Channel.becomeCurrent_sameMotor _ _ _ _

theorem Channel.moveOn_sameMotor (pause l p n b c) : Channel.sameMotor c (Channel.moveOn pause l p n b c).1 := by
  induction n generalizing b c with
  | zero => exact Channel.goIdle_sameMotor _ _ _
  | succ n ih =>
    unfold Channel.moveOn
    split
    · exact Channel.goIdle_sameMotor _ _ _
    · split
      · split
        · split
          · rename_i h; have := Channel.startHead_sameMotor l p ‹_› ‹_› c; rw [h] at this; exact this
          · rename_i h; have := (congrArg (fun r => Channel.sameMotor c r.1) h).mp (Channel.startHead_sameMotor l p _
              _ c); exact this.trans (ih _ _)
        · exact ⟨rfl, rfl, rfl⟩
      · exact Channel.holdAt_sameMotor _ _ _

theorem Channel.complete_sameMotor (pause l p g o c) : Channel.sameMotor c (Channel.complete pause l p g o c).1 :=
  (Channel.dropCurrent_sameMotor c).trans (Channel.moveOn_sameMotor _ _ _ _ _ _)

theorem Channel.finishStop_sameMotor (pause l p c) : Channel.sameMotor c (Channel.finishStop pause l p c).1 := by
  unfold Channel.finishStop; split
  · split
    · exact Channel.sameMotor.trans (b := c.withProfile (stopStep c.profile c.stopRate)) ⟨rfl, rfl,
        rfl⟩ (Channel.complete_sameMotor _ _ _ _ _ _)
    · exact Channel.sameMotor.same
  · exact Channel.sameMotor.same

theorem Checked.ite_sameMotor {P : Prop} [Decidable P] {c} {a b : Checked} (h : Channel.sameMotor c a.ch) (g :
    Channel.sameMotor c b.ch) : Channel.sameMotor c (Checked.ch (if P then a else b)) := by
  split
  · exact h
  · exact g

theorem Channel.emptied_sameMotor (c) : Channel.sameMotor c (Channel.emptied c) := by
    unfold Channel.emptied Channel.dropCurrent; split <;> simp [Channel.sameMotor]

theorem Channel.stopWith_sameMotor (l a c) : Channel.sameMotor c (Channel.stopWith l a c) := by
  unfold Channel.stopWith
  exact ((Channel.emptied_sameMotor c).trans (Channel.takeRest_sameMotor _ _ _ _)).trans ⟨rfl, rfl, rfl⟩

theorem Channel.expiryChecks_sameMotor (pause f p r c) : Channel.sameMotor (Channel.readInputs r c)
    (Channel.expiryChecks pause f p r c).ch := by
  unfold Channel.expiryChecks
  split
  · rename_i h; unfold Channel.readInputs; rw [if_pos h]; exact Channel.sameMotor.same
  · have h1 : ∀ c, Channel.sameMotor c (Channel.checkCurrent p c).ch := by
      intro c
      unfold Channel.checkCurrent; split
      · split
        · split
          · exact (Channel.emptied_sameMotor c).trans ⟨rfl, rfl, rfl⟩
          · exact Channel.sameMotor.same
        · exact Channel.sameMotor.same
      · exact Channel.sameMotor.same
    have h2 : ∀ c, Channel.sameMotor c (Channel.checkDone pause f.live p c).ch := by
      intro c
      unfold Channel.checkDone; split
      · exact Channel.sameMotor.same
      · rename_i g _
        split
        · exact Channel.complete_sameMotor pause f.live p _ .done c
        · split
          · refine Checked.ite_sameMotor ?_ (Checked.ite_sameMotor ?_ ⟨rfl, rfl, rfl⟩)
            · exact Channel.sameMotor.trans (b := c.settleCounted g) ⟨rfl, rfl, rfl⟩ (Channel.complete_sameMotor
                pause f.live p g (c.settleCounted g).settledOutcome _)
            · exact Channel.sameMotor.trans (b := c.settleCounted g) ⟨rfl, rfl, rfl⟩ (Channel.complete_sameMotor
                pause f.live p g .unsettled _)
          · exact Channel.sameMotor.same
    have h3 : ∀ c u, Channel.sameMotor c (Channel.checkStall f.live f.lam u p c).ch := by
      intro c u
      unfold Channel.checkStall; split
      · split
        · exact ⟨rfl, rfl, rfl⟩
        · refine Checked.ite_sameMotor ?_ ?_
          · refine Channel.sameMotor.trans (b := ite _ _ _) ?_ (Channel.stopWith_sameMotor _ _ _)
            split <;> exact ⟨rfl, rfl, rfl⟩
          · show Channel.sameMotor c (ite _ _ _)
            split <;> exact ⟨rfl, rfl, rfl⟩
      · exact ⟨rfl, rfl, rfl⟩
    have h4 : ∀ c, Channel.sameMotor c (Channel.takeHead pause f.live p c).ch := by
      intro c; unfold Channel.takeHead; split
      · exact Channel.moveOn_sameMotor _ _ _ _ _ _
      · exact Channel.sameMotor.same
    exact ((((h1 _).trans (h2 _)).trans (h3 _ _)).trans (h4 _)).trans (Channel.finishStop_sameMotor _ _ _ _)

theorem Motors.onPorts_sameMotor {f : MotorPort → Channel → Channel × List Sent} (h : ∀ p c, Channel.sameMotor c (f p
    c).1) (ps m) (q) :
    Channel.sameMotor (Six.get (Motors.ch m) q) (Six.get (Motors.onPorts f ps m).1.ch q) := by
  induction ps generalizing m with
  | nil => exact Channel.sameMotor.same
  | cons p ps ih =>
    refine Channel.sameMotor.trans (b := (m.setCh p (f p (m.ch.get p)).1).ch.get q) ?_ (ih _)
    by_cases e : q = p
    · subst e; simpa [Motors.setCh] using h q (m.ch.get q)
    · simp [Motors.setCh, e, Channel.sameMotor]

theorem Channel.breakGroups_sameMotor (gs p c) : Channel.sameMotor c (Channel.breakGroups gs p c).1 := by
  unfold Channel.breakGroups; split
  · exact Channel.sameMotor.same
  · dsimp only; split <;> exact ⟨rfl, rfl, rfl⟩

theorem Motors.breakAll_sameMotor (gs m q) : Channel.sameMotor (Six.get (Motors.ch m) q) (Six.get (Motors.breakAll gs
    m).1.ch q) := by
  rw [Motors.breakAll_get]; exact Channel.breakGroups_sameMotor _ _ _

theorem Channel.released_sameMotor (pause live p c) : Channel.sameMotor c (Channel.released pause live p c).1 := by
  refine Channel.sameMotor.trans (b := (c.startReleased pause live p).1) ?_ (Channel.finishStop_sameMotor _ _ _ _)
  unfold Channel.startReleased; split
  · exact Channel.sameMotor.same
  · split
    · rename_i h; have := Channel.startHead_sameMotor live p ‹_› ‹_› c; rw [h] at this; exact this
    · rename_i h; have := (congrArg (fun r => Channel.sameMotor c r.1) h).mp (Channel.startHead_sameMotor live p _ _
        c); exact this.trans (Channel.moveOn_sameMotor _ _ _ _ _ _)

theorem Motors.releaseAll_sameMotor (live gs m q) : Channel.sameMotor (Six.get (Motors.ch m) q) (Six.get
    (Motors.releaseAll live gs m).1.ch q) := by
  induction gs generalizing m with
  | nil => exact Channel.sameMotor.same
  | cons g gs ih =>
    exact (Motors.onPorts_sameMotor (fun _ _ => Channel.released_sameMotor _ _ _ _) g.members
        { m with groups := m.groups.filter (fun h => h != g) } q).trans (ih _)

theorem Motors.examine_sameMotor (live n gs m q) : Channel.sameMotor (Six.get (Motors.ch m) q) (Six.get
    (Motors.examine live n gs m).1.ch q) := by
  induction n generalizing gs m with
  | zero => exact Channel.sameMotor.same
  | succ n ih =>
    have h : Channel.sameMotor (Six.get (Motors.ch m) q) (Six.get (Motors.releaseAll live (gs.filter m.releases)
        (Motors.breakAll (gs.filter m.mismatched) m).1).1.ch q) :=
      (Motors.breakAll_sameMotor _ _ _).trans (Motors.releaseAll_sameMotor _ _ _ _)
    unfold Motors.examine; dsimp only; split
    · exact h
    · exact h.trans (ih _ _)

/-! ### The break of a mismatched group -/

/-- A waiting head whose group breaks ends, and its channel rests in IDLE (R53). -/
theorem Channel.breakGroups_head {gs : List Group} {p : MotorPort} {c : Channel} {y : Segment} {ys : List Segment}
    (hq : c.queue = y :: ys)
    (hw : c.waits = true) (hy : y.group ∈ gs) (hys : ∀ h ∈ ys, h.group ∉ gs) :
    c.breakGroups gs p = ({ c with
      queue := ys, allowance := min c.allowance ys.length,
      stepMark := if c.stepMark = .pending then .none else c.stepMark, state := .idle, rest := .hold, resume := none,
          heldAction := none },
      segmentEnd p y .syncBroken c.enc none ys.length) := by
  have ht : takeBroken gs (y :: ys) = (ys, [y]) := by
    have : takeBroken (gs.filter (fun g => g != y.group)) ys = (ys, []) :=
      takeBroken_none (fun x hx hm => hys x hx (List.mem_filter.mp hm).1)
    simp [takeBroken, hy, this]
  simp [Channel.breakGroups, hq, ht, hw, hy]

/-- An examination that finds every group mismatched breaks them all. -/
theorem Motors.examine_breaks (live : Bool) (n : Nat) {gs : List Group} {m : Motors} (hm : gs.filter m.mismatched =
    gs)
    (hr : gs.filter m.releases = []) (hn : (Motors.breakAll gs m).1.newGroups = []) :
    Motors.examine live (n + 1) gs m = Motors.breakAll gs m := by
  simp only [Motors.examine, hm, hr, Motors.releaseAll, hn, List.append_nil]

/-- R52: of two members one waits with a head of one group, the other comes to wait, or waits,
    with a head of another group
of the same members: both break. -/
theorem Motors.expiry_mismatched (f : Feed) (x : Six MotorReading) (w : Motors) (p q : MotorPort) (y z ys zs) (hpq :
    p ≠ q)
    (ho : ∀ o, o ≠ p → o ≠ q → (w.ch.get o).kind = .none ∧ (w.ch.get o).state = .off)
    (cp : (w.ch.get p).kind ≠ .none ∧ absInt (x.get p).current ≤ 2 * ((w.ch.get p).kind.ratedCurrent : Int))
    (cq : (w.ch.get q).kind ≠ .none ∧ absInt (x.get q).current ≤ 2 * ((w.ch.get q).kind.ratedCurrent : Int))
    (hy : (w.ch.get p).queue = y :: ys) (hz : (w.ch.get q).queue = z :: zs)
    (hm : y.members = [p, q] ∨ y.members = [q, p]) (hmm : z.members = y.members) (htag : y.syncTag ≠ z.syncTag)
    (hz0 : z.syncTag ≠ 0) (hrest : ∀ h ∈ ys ++ zs, h.group ≠ y.group ∧ h.group ≠ z.group)
    (hg : ∀ g ∈ w.groups, g = y.group ∨ g = z.group) (hyg : y.group ∈ w.groups)
    (hpw : (w.ch.get p).waits = true)
    (hqw : ((w.ch.get q).state = .idle ∧ w.pause = .running) ∨ (w.ch.get q).state = .syncWait ∨
         ((w.ch.get q).waits = true ∧ z.group ∈ w.groups)) :
    let X := Motors.checkPorts f x MotorPort.all w
    let b := Motors.breakAll (X.1.noteGroups.groupsOn X.2.2) X.1.noteGroups
    let e := Motors.examine f.live 9 b.1.groups b.1
    let P := (w.ch.get p).calmed (x.get p)
    let Q := if (w.ch.get q).state = .idle then ((w.ch.get q).calmed (x.get q)).enterWait else (w.ch.get q).calmed
        (x.get q)
    e.1.groups = [] ∧ 
      (∃ n k, e.1.ch.get p =
          { P with queue := ys, allowance := n, stepMark := k, state := .idle, rest := .hold, resume := none, heldAction := none }) ∧
      (∃ n k, e.1.ch.get q =
          { Q with queue := zs, allowance := n, stepMark := k, state := .idle, rest := .hold, resume := none, heldAction := none }) ∧
      X.2.1 = [] ∧ b.2 = [] ∧ e.2 = MotorPort.all.flatMap (fun o =>
           if o = p then segmentEnd p y .syncBroken P.enc none ys.length
           else if o = q then segmentEnd q z .syncBroken Q.enc none zs.length
           else []) := by
  intro X b e P Q
  have cfp := Channel.calmed_frame (x.get p) (w.ch.get p)
  have cfq := Channel.calmed_frame (x.get q) (w.ch.get q)
  have hps : (w.ch.get p).state = .syncWait ∨ (w.ch.get p).state = .held := by
    simp only [Channel.waits, Bool.or_eq_true, Bool.and_eq_true, beq_iff_eq] at hpw
    rcases hpw with h | h
    · exact .inl h
    · exact .inr h.1
  have hep : (w.ch.get p).expiryChecks w.pause f p (x.get p) = Checked.quiet P := Channel.expiryChecks_still cp.1 hps
      cp.2
  have heq : (w.ch.get q).expiryChecks w.pause f q (x.get q) = Checked.quiet Q := by
    by_cases hi : (w.ch.get q).state = .idle
    · have hpa : w.pause = .running := by
        rcases hqw with h | h | h
        · exact h.2
        · rw [h] at hi; simp at hi
        · simp [Channel.waits, hi] at h
      rw [hpa]; simp only [Q, hi, if_true]
      exact Channel.expiryChecks_waits cq.1 hi cq.2 hz hz0
    · have : (w.ch.get q).state = .syncWait ∨ (w.ch.get q).state = .held := by
        rcases hqw with h | h | h
        · exact absurd h.1 hi
        · exact .inl h
        · simp only [Channel.waits, Bool.or_eq_true, Bool.and_eq_true, beq_iff_eq] at h
          rcases h.1 with h | h
          · exact .inl h
          · exact .inr h.1
      simp only [Q, hi, if_false]
      exact Channel.expiryChecks_still cq.1 this cq.2
  have heo : ∀ o, o ≠ p → o ≠ q → (w.ch.get o).expiryChecks w.pause f o (x.get o) = Checked.quiet (w.ch.get o) :=
    fun o h1 h2 => Channel.expiryChecks_none (ho o h1 h2).1
  have hX : ∀ o, X.1.ch.get o = ((w.ch.get o).expiryChecks w.pause f o (x.get o)).ch := by
    intro o; rw [show X.1.ch.get o = _ from Motors.checkPorts_get (f := f) (r := x) (m := w) MotorPort.all_nodup o];
        simp [MotorPort.mem_all]
  have hXp : X.1.ch.get p = P := by rw [hX, hep]; rfl
  have hXq : X.1.ch.get q = Q := by rw [hX, heq]; rfl
  have hXo : ∀ o, o ≠ p → o ≠ q → X.1.ch.get o = w.ch.get o := by intro o h1 h2; rw [hX, heo o h1 h2]; rfl
  have hquiet : ∀ o, ∃ c, (w.ch.get o).expiryChecks w.pause f o (x.get o) = Checked.quiet c := by
    intro o
    by_cases h1 : o = p
    · subst h1; exact ⟨_, hep⟩
    · by_cases h2 : o = q
      · subst h2; exact ⟨_, heq⟩
      · exact ⟨_, heo o h1 h2⟩
  have hfl : X.2.2 = [] := Motors.checkPorts_calm MotorPort.all_nodup (by
    intro o _; obtain ⟨c, h⟩ := hquiet o; rw [h]; rfl)
  have hsent : X.2.1 = [] := by
    have : ∀ (ps : List MotorPort) (m : Motors), ps.Nodup → (∀ o ∈ ps, ∃ c, (m.ch.get o).expiryChecks m.pause f o
        (x.get o) = Checked.quiet c) →
       (Motors.checkPorts f x ps m).2.1 = [] := by
      intro ps
      induction ps with
      | nil => intros; rfl
      | cons o ps ih =>
        intro m hn h
        simp only [List.nodup_cons] at hn
        obtain ⟨c, hc⟩ := h o (by simp)
        simp only [Motors.checkPorts, hc, Checked.quiet, List.nil_append]
        refine ih _ hn.2 (fun o' h' => ?_)
        have hne : o' ≠ o := fun e => hn.1 (e ▸ h')
        simpa [Motors.setCh, hne] using h o' (by simp [h'])
    exact this _ _ MotorPort.all_nodup (fun o _ => hquiet o)
  have hPq : P.queue = y :: ys := by rw [cfp.1]; exact hy
  have hPw : P.waits = true := by
    simpa [Channel.waits, P, Channel.calmed, Channel.readInputs, cp.1] using hpw
  have hQq : Q.queue = z :: zs := by
    simp only [Q]; split
    · simp [Channel.enterWait, Channel.beginStop, cfq, hz]
    · rw [cfq.1]; exact hz
  have hQw : Q.waits = true := by
    simp only [Q]; split
    · simp [Channel.enterWait, Channel.waits]
    · rename_i hi
      rcases hqw with h | h | h
      · exact absurd h.1 hi
      · simp [Channel.waits, cfq, h]
      · simpa [Channel.waits, Channel.calmed, Channel.readInputs, cq.1] using h.1
  have hyz : y.group ≠ z.group := by intro h; apply htag; simpa [Segment.group] using congrArg Group.tag h
  have hgm : ∀ g, g = y.group ∨ g = z.group → g.members = [p, q] ∨ g.members = [q, p] := by
    rintro g (rfl | rfl)
    · exact hm
    · simpa [Segment.group, hmm] using hm
  have hgrp : X.1.groups = w.groups := (Motors.checkPorts_rest _ _ _ _).2
  have hwg : ∀ o g, (X.1.ch.get o).waitGroup = some g → g = y.group ∨ g = z.group := by
    intro o g h
    by_cases h1 : o = p
    · subst h1; rw [hXp] at h; simp [Channel.waitGroup, hPq] at h; exact .inl h.2.symm
    · by_cases h2 : o = q
      · subst h2; rw [hXq] at h; simp [Channel.waitGroup, hQq] at h; exact .inr h.2.symm
      · rw [hXo o h1 h2] at h; simp [Channel.waitGroup, (ho o h1 h2).2] at h
  have hnew : ∀ g ∈ X.1.newGroups, g = y.group ∨ g = z.group := by
    have : ∀ (ps : List MotorPort) (acc : List Group), (∀ g ∈ acc, g = y.group ∨ g = z.group) → ∀ g ∈ (ps.foldl
    (fun acc p =>
      match (X.1.ch.get p).waitGroup with
      | none => acc
      | some g => if X.1.groups.contains g || acc.contains g then acc else acc ++ [g]) acc), g = y.group ∨
          g = z.group := by
      intro ps
      induction ps with
      | nil => intro acc h; exact h
      | cons o ps ih =>
        intro acc h
        refine ih _ ?_
        intro g
        dsimp only
        split
        · exact h g
        · rename_i g' hg'
          split
          · exact h g
          · intro hmem; rcases List.mem_append.mp hmem with h1 | h1
            · exact h g h1
            · simp at h1; subst h1; exact hwg o _ hg'
    exact this _ [] (by simp)
  have hzin : z.group ∈ X.1.noteGroups.groups := by
    by_cases hs : Q.state = .syncWait
    · have hw : (X.1.ch.get q).waitGroup = some z.group := by rw [hXq]; simp [Channel.waitGroup, hs, hQq]
      have key : ∀ (ps : List MotorPort) (acc : List Group), q ∈ ps ∨ (z.group ∈ X.1.groups ∨ z.group ∈ acc) →
          z.group ∈ X.1.groups ∨ z.group ∈ ps.foldl
        (fun acc p =>
          match (X.1.ch.get p).waitGroup with
          | none => acc
          | some g => if X.1.groups.contains g || acc.contains g then acc else acc ++ [g]) acc := by
        intro ps
        induction ps with
        | nil => intro acc h; rcases h with h | h
                 · simp at h
                 · exact h
        | cons o ps ih =>
          intro acc h
          apply ih
          by_cases hq' : o = q
          · subst hq'
            right
            dsimp only
            rw [hw]; dsimp only
            split
            · rename_i hc; simpa using hc
            · right; simp
          · rcases h with h | h | h
            · left; rcases List.mem_cons.mp h with h | h
              · exact absurd h.symm hq'
              · exact h
            · exact .inr (.inl h)
            · right; right
              dsimp only
              split
              · exact h
              · split
                · exact h
                · exact List.mem_append.mpr (.inl h)
      have := key MotorPort.all [] (.inl (MotorPort.mem_all q))
      exact List.mem_append.mpr this
    · have : z.group ∈ w.groups := by
        rcases hqw with h | h | h
        · exact absurd (by simp [Q, h.1, Channel.enterWait]) hs
        · exact absurd (by simp [Q, h, cfq]) hs
        · exact h.2
      exact List.mem_append.mpr (.inl (hgrp ▸ this))
  let m := X.1.noteGroups
  have hall : ∀ g ∈ m.groups, g = y.group ∨ g = z.group := by
    intro g h; rcases List.mem_append.mp h with h | h
    · exact hg g (hgrp ▸ h)
    · exact hnew g h
  have hyin : y.group ∈ m.groups := List.mem_append.mpr (.inl (hgrp ▸ hyg))
  have hb : b = (m, []) := by
    show Motors.breakAll (X.1.noteGroups.groupsOn X.2.2) X.1.noteGroups = _
    rw [hfl, Motors.groupsOn_nil]; rfl
  have hmch : m.ch = X.1.ch := rfl
  have hmis : m.groups.filter m.mismatched = m.groups := by
    rw [List.filter_eq_self]
    intro g h
    simp only [Motors.mismatched, List.any_eq_true, hmch]
    have hmem := hgm g (hall g h)
    rcases hall g h with h | h
    · refine ⟨q, by rcases hmem with h | h <;> simp [h], ?_⟩
      rw [hXq, hQw, hQq]; subst h
      have : z.syncTag ≠ y.syncTag := fun e => htag e.symm
      simp [Segment.inGroup, Segment.group, this]
    · refine ⟨p, by rcases hmem with h | h <;> simp [h], ?_⟩
      rw [hXp, hPw, hPq]; subst h
      simp [Segment.inGroup, Segment.group, htag]
  have hrel : m.groups.filter m.releases = [] := by
    rw [List.filter_eq_nil_iff]
    intro g h
    have hmem := hgm g (hall g h)
    simp only [Motors.releases, List.all_eq_true, hmch, Channel.readyFor, beq_iff_eq]
    intro hr
    have h1 := hr p (by rcases hmem with h | h <;> simp [h])
    have h2 := hr q (by rcases hmem with h | h <;> simp [h])
    rw [hXp] at h1; rw [hXq] at h2
    simp [Channel.waitGroup, hPq] at h1
    simp [Channel.waitGroup, hQq] at h2
    exact hyz (h1.2.trans h2.2.symm)
  have hmemG : ∀ o, o = p ∨ o = q → groupsOf o m.groups = m.groups := by
    intro o h
    unfold groupsOf
    rw [List.filter_eq_self]
    intro g hgi
    rcases hgm g (hall g hgi) with e | e <;> rcases h with h | h <;> simp [e, h]
  have hmemO : ∀ o, o ≠ p → o ≠ q → groupsOf o m.groups = [] := by
    intro o h1 h2
    unfold groupsOf
    rw [List.filter_eq_nil_iff]
    intro g hgi
    rcases hgm g (hall g hgi) with e | e <;> simp [e, h1, h2]
  have hbp := Channel.breakGroups_head (p := p) hPq hPw hyin (fun h hh hmem => by
    rcases hall _ hmem with e | e
    · exact (hrest h (by simp [hh])).1 e
    · exact (hrest h (by simp [hh])).2 e)
  have hbq := Channel.breakGroups_head (p := q) hQq hQw hzin (fun h hh hmem => by
    rcases hall _ hmem with e | e
    · exact (hrest h (by simp [hh])).1 e
    · exact (hrest h (by simp [hh])).2 e)
  let B := Motors.breakAll m.groups m
  have hBp : B.1.ch.get p = _ := (Motors.breakAll_get m.groups m p)
  have hBq : B.1.ch.get q = _ := (Motors.breakAll_get m.groups m q)
  rw [hmemG p (.inl rfl), show m.ch.get p = P from hXp, hbp] at hBp
  rw [hmemG q (.inr rfl), show m.ch.get q = Q from hXq, hbq] at hBq
  have hBo : ∀ o, o ≠ p → o ≠ q → B.1.ch.get o = w.ch.get o := by
    intro o h1 h2
    refine (Motors.breakAll_get m.groups m o).trans ?_
    rw [hmemO o h1 h2, Channel.breakGroups_nil]; exact hXo o h1 h2
  have hnn : B.1.newGroups = [] := by
    apply Motors.newGroups_nil
    intro o g h
    exfalso
    by_cases h1 : o = p
    · subst h1; rw [hBp] at h; simp [Channel.waitGroup] at h
    · by_cases h2 : o = q
      · subst h2; rw [hBq] at h; simp [Channel.waitGroup] at h
      · rw [hBo o h1 h2] at h; simp [Channel.waitGroup, (ho o h1 h2).2] at h
  have he : e = (B.1, B.2) := by
    show Motors.examine f.live 9 b.1.groups b.1 = _
    rw [hb]
    exact Motors.examine_breaks f.live 8 hmis hrel hnn
  rw [he, hb]
  dsimp only
  refine ⟨?_, ⟨_, _, hBp⟩, ⟨_, _, hBq⟩, hsent, rfl, ?_⟩
  · show B.1.groups = []
    rw [show B.1.groups = _ from (Motors.breakAll_rest m.groups m).2]
    rw [List.filter_eq_nil_iff]; intro g h; simp [h]
  · show B.2 = _
    rw [show B.2 = _ from Motors.breakAll_sent m.groups m]
    apply List.flatMap_congr
    intro o _
    by_cases h1 : o = p
    · subst h1; rw [if_pos rfl, hmemG o (.inl rfl), show m.ch.get o = P from hXp, hbp]
    · by_cases h2 : o = q
      · subst h2; rw [if_neg h1, if_pos rfl, hmemG o (.inr rfl), show m.ch.get o = Q from hXq, hbq]
      · rw [if_neg h1, if_neg h2, hmemO o h1 h2, Channel.breakGroups_nil]

/-! ### The whole expiry -/

/-- What an expiry leaves of any channel's motor (R25, R26, R39 to R41). -/
theorem Motors.expiry_motor (f : Feed) (x : Six MotorReading) (w : Motors) (p : MotorPort) :
    let c := w.ch.get p
    let d := (Motors.expiry f x w).1.ch.get p
    d.kind = c.kind ∧
      (c.kind ≠ .none →
        d.enc = clamp (-2000000000) 2000000000 (c.enc + (x.get p).delta) ∧ d.mA = (x.get p).current ∧
        d.prevEnc = d.enc ∧
        (d.drive = .driven → d.applied = budgeted (compensate d.uc f.vb) f.lam) ∧
        (d.drive ≠ .driven → d.applied = 0) ∧
        (f.live = false → d.drive = .off ∧ d.q = d.enc * 1000000 ∧ d.spd = 0 ∧ d.integ = 0 ∧ d.uc = 0 ∧
          d.sat = false)) := by
  intro c d
  let X := Motors.checkPorts f x MotorPort.all w
  let b := Motors.breakAll (X.1.noteGroups.groupsOn X.2.2) X.1.noteGroups
  let e := Motors.examine f.live 9 b.1.groups b.1
  have hX : X.1.ch.get p = (c.expiryChecks w.pause f p (x.get p)).ch := by
    rw [show X.1.ch.get p = _ from Motors.checkPorts_get (f := f) (r := x) (m := w) MotorPort.all_nodup p]; simp
        [MotorPort.mem_all, c]
  have h1 : Channel.sameMotor (X.1.ch.get p) (b.1.ch.get p) := Motors.breakAll_sameMotor (X.1.noteGroups.groupsOn
      X.2.2) X.1.noteGroups p
  have h2 : Channel.sameMotor (b.1.ch.get p) (e.1.ch.get p) := Motors.examine_sameMotor f.live 9 b.1.groups b.1 p
  have h3 := Channel.expiryChecks_sameMotor w.pause f p (x.get p) c
  rw [← hX] at h3
  have h4 := (h3.trans h1).trans h2
  have hd : d = ((e.1.ch.get p).work f).finishRelease := by
    exact (Motors.expiry_get f x w p).1
  have hk : (c.readInputs (x.get p)).kind = c.kind := by unfold Channel.readInputs; split <;> rfl
  generalize e.1.ch.get p = u at *
  obtain ⟨qq, n, k, hh, l, hw⟩ := Channel.finishRelease_sameMotion (u.work f)
  rw [← hd] at hw
  have wf := Channel.work_frame f u
  refine ⟨?_, fun hne => ?_⟩
  · rw [hw]; exact wf.2.2.2.1.trans (h4.2.2.trans hk)
  · have hne' : u.kind ≠ .none := by rw [h4.2.2, hk]; exact hne
    have hen : u.enc = clamp (-2000000000) 2000000000 (c.enc + (x.get p).delta) ∧ u.mA = (x.get p).current := by
      rw [h4.1, h4.2.1]; simp [Channel.readInputs, hne]
    have he2 : (u.work f).enc = u.enc ∧ (u.work f).mA = u.mA ∧ (u.work f).prevEnc = (u.work f).enc := by
      have hm : ∀ g, (Channel.moveStep g u).enc = u.enc ∧ (Channel.moveStep g u).mA = u.mA := by
        intro g; simp only [Channel.moveStep]; split <;> simp [Channel.withProfile]
      have hr : u.restStep.enc = u.enc ∧ u.restStep.mA = u.mA := by
        simp only [Channel.restStep]; split <;> (try split) <;> simp [Channel.withProfile]
      unfold Channel.work
      rw [if_neg hne']
      dsimp only
      split
      · simp only [Channel.outputDriven, Channel.commanded]
        split
        · split <;> simp [Channel.controlled, Channel.dutyStep, Channel.speedStep, Channel.withProfile, hm, hr]
        · simp [Channel.controlled]
        · simp [Channel.controlled, hr]
      · simp [Channel.followMotor, Channel.unwound]
    rw [hw]
    refine ⟨he2.1.trans hen.1, he2.2.1.trans hen.2, he2.2.2, ?_, ?_, ?_⟩
    · show (u.work f).drive = _ → (u.work f).applied = budgeted (compensate (u.work f).uc _) _
      unfold Channel.work; rw [if_neg hne']; dsimp only
      split
      · intro _; rfl
      · intro h; exfalso
        simp only [Channel.followMotor, Channel.unwound, restDrive] at h
        split at h
        · split at h <;> simp at h
        · simp at h
    · show (u.work f).drive ≠ _ → (u.work f).applied = 0
      unfold Channel.work; rw [if_neg hne']; dsimp only
      split
      · intro h; exact absurd rfl h
      · intro _; rfl
    · intro hl
      have hc : u.computed f.live = false := by simp [Channel.computed, hl]
      show (u.work f).drive = _ ∧ (u.work f).q = (u.work f).enc * _ ∧ (u.work f).spd = 0 ∧ (u.work f).integ = 0 ∧
          (u.work f).uc = 0 ∧ (u.work f).sat = false
      unfold Channel.work; rw [if_neg hne']; dsimp only
      rw [hc]
      simp [Channel.followMotor, Channel.unwound, restDrive, hl, microDeg]

/-- R58: the test of the pause at the end of an expiry, and its notice. -/
theorem Motors.expiry_pause (f : Feed) (x : Six MotorReading) (w : Motors) :
    let t := Motors.expiry f x w
    let settled : Bool := decide (w.pause = .pausing) && MotorPort.all.all (fun p => (t.1.ch.get p).atRest)
    let held : List MotorPort := MotorPort.all.filter (fun p => (t.1.ch.get p).state == .held)
    t.1.pause = (if settled = true then .paused else w.pause) ∧
      ∃ ns : List Sent, EndsOnly ns ∧
        t.2 = ns ++ (if settled = true then [{ link := .primary, notice := .pauseState .paused held }] else []) := by
  intro t settled held
  let X := Motors.checkPorts f x MotorPort.all w
  let b := Motors.breakAll (X.1.noteGroups.groupsOn X.2.2) X.1.noteGroups
  let e := Motors.examine f.live 9 b.1.groups b.1
  let m1 : Motors := ({ e.1 with ch := e.1.ch.map (Channel.work f) } : Motors).finishReleases
  have hE : t = (m1.pauseTest.1, X.2.1 ++ (b.2 ++ (e.2 ++ m1.pauseTest.2))) := rfl
  have hm : t.1 = m1.pauseTest.1 := by rw [hE]
  have hr : t.2 = X.2.1 ++ (b.2 ++ (e.2 ++ m1.pauseTest.2)) := by rw [hE]
  have h1 : e.1.pause = b.1.pause := Motors.examine_pause f.live 9 b.1.groups b.1
  have h2 : b.1.pause = X.1.pause := (Motors.breakAll_rest (X.1.noteGroups.groupsOn X.2.2) X.1.noteGroups).1
  have h3 : X.1.pause = w.pause := (Motors.checkPorts_rest f x MotorPort.all w).1
  have h0 : m1.pause = e.1.pause := by simp only [m1, Motors.finishReleases]
  have hp : m1.pause = w.pause := by rw [h0, h1, h2, h3]
  have hch : t.1.ch = m1.ch := by rw [hm]; exact (Motors.pauseTest_ch _).1
  have hset : settled = decide (m1.pause = .pausing ∧ m1.allAtRest = true) := by
    simp only [settled, hch, Motors.allAtRest, hp, Bool.decide_and, Bool.decide_eq_true]
  have hheld : held = m1.heldPorts := by simp [held, hch, Motors.heldPorts]
  have hends : EndsOnly (X.2.1 ++ (b.2 ++ e.2)) :=
    EndsOnly.app (Motors.checkPorts_endsOnly _ _ _ _)
      (EndsOnly.app (Motors.breakAll_endsOnly _ _) (Motors.examine_endsOnly _ _ _ _))
  by_cases hc : m1.pause = .pausing ∧ m1.allAtRest = true
  · have hs : settled = true := by rw [hset]; simpa using hc
    have ht : m1.pauseTest = ({ m1 with pause := .paused }, ({ m1 with pause := .paused } : Motors).pauseNotice) := by
      unfold Motors.pauseTest; rw [if_pos hc]
    rw [if_pos hs, if_pos hs]
    refine ⟨by rw [hm, ht], _, hends, ?_⟩
    rw [hr, ht, hheld]; simp only [List.append_assoc]; rfl
  · have hs : ¬ settled = true := by rw [hset]; simpa using hc
    have ht : m1.pauseTest = (m1, []) := by unfold Motors.pauseTest; rw [if_neg hc]
    rw [if_neg hs, if_neg hs]
    refine ⟨by rw [hm, ht]; exact hp, _, hends, ?_⟩
    rw [hr, ht]; simp only [List.append_assoc]

end Sys2Proof.Machine
end

