-- ==== Sys2Proof/Laws/Fields.lean ====
section
/-! SUPPORT. When a check stands among the failures of a request's fields: a rule's own check, FIELD for a value that does
not decode, MISSING_FIELD for one that is absent. -/

namespace Sys2Proof.Machine

/-- A rule's check on a field fails exactly on the values its test refuses. -/
theorem Val.mem_violates {α : Type} (v : Val α) (c : Check) (bad : α → Bool) (d : Check) :
    d ∈ v.violates c bad ↔ d = c ∧ ∃ a, v = .val a ∧ bad a = true := by
  cases v <;> simp [Val.violates]
  exact And.comm

/-- A number that does not decode is FIELD. -/
theorem natField_bad {k : Nat} {fs : Fields} {c : Check} (h : natField k fs = .bad c) : c = .field := by
  unfold natField at h
  split at h
  · simp at h
  · split at h <;> simp at h
    exact h.symm

/-- The only failure of an optional number is FIELD. -/
theorem natField_fails {k : Nat} {fs : Fields} {d : Check} (h : d ∈ (natField k fs).fails) : d = .field := by
  cases hk : natField k fs with
  | bad c => rw [hk, natField_bad hk] at h; simpa [Val.fails] using h
  | _ => rw [hk] at h; simp [Val.fails] at h

/-- The only failure of an optional flag is FIELD. -/
theorem flagField_fails {k : Nat} {fs : Fields} {d : Check} (h : d ∈ (flagField k fs).fails) : d = .field := by
  unfold flagField enumField at h
  cases hk : natField k fs with
  | bad c => rw [hk, natField_bad hk] at h; simpa [Val.fails, Val.check] using h
  | absent => rw [hk] at h; simp [Val.fails, Val.check] at h
  | val n => rw [hk] at h; rcases n with _ | _ | n <;> simp [Val.fails, Val.check, flagOfCode] at h; exact h

/-- The failures of a required number: FIELD, or MISSING_FIELD when it is absent. -/
theorem natField_need {k : Nat} {fs : Fields} {d : Check} (h : d ∈ (natField k fs).need) :
    d = .field ∨ (d = .missingField ∧ fieldValue k fs = none) := by
  unfold natField at h
  split at h
  · rename_i hv; simp [Val.need] at h; exact Or.inr ⟨h, hv⟩
  · split at h <;> simp [Val.need] at h
    exact Or.inl h

end Sys2Proof.Machine
end

