-- ==== Sys2Proof/Laws/State.lean ====
section
/-! SUPPORT. What each update of the state does to each of its fields, so that no proof unfolds a record update. -/

namespace Sys2Proof.Machine

@[simp] theorem State.setRx_pending (s : State) (l : Link) (x : Receiver) :
    (s.setRx l x).pending = s.pending := rfl

@[simp] theorem State.setRx_motors (s : State) (l : Link) (x : Receiver) :
    (s.setRx l x).motors = s.motors := rfl

@[simp] theorem State.setRx_sensors (s : State) (l : Link) (x : Receiver) :
    (s.setRx l x).sensors = s.sensors := rfl

@[simp] theorem State.setRx_watch (s : State) (l : Link) (x : Receiver) :
    (s.setRx l x).watch = s.watch := rfl

@[simp] theorem State.setRx_store (s : State) (l : Link) (x : Receiver) :
    (s.setRx l x).store = s.store := rfl

@[simp] theorem State.setRx_mixer (s : State) (l : Link) (x : Receiver) :
    (s.setRx l x).mixer = s.mixer := rfl

@[simp] theorem State.setRx_router (s : State) (l : Link) (x : Receiver) :
    (s.setRx l x).router = s.router.setLink l { s.router.link l with rx := x } := rfl

@[simp] theorem State.setRx_supply (s : State) (l : Link) (x : Receiver) :
    (s.setRx l x).supply = s.supply := rfl

@[simp] theorem State.notify_pending (s : State) (l : Link) (n : Notice) :
    (s.notify l n).pending = s.pending := rfl

@[simp] theorem State.notify_motors (s : State) (l : Link) (n : Notice) :
    (s.notify l n).motors = s.motors := rfl

@[simp] theorem State.notify_sensors (s : State) (l : Link) (n : Notice) :
    (s.notify l n).sensors = s.sensors := rfl

@[simp] theorem State.notify_watch (s : State) (l : Link) (n : Notice) :
    (s.notify l n).watch = s.watch := rfl

@[simp] theorem State.notify_store (s : State) (l : Link) (n : Notice) :
    (s.notify l n).store = s.store := rfl

@[simp] theorem State.notify_mixer (s : State) (l : Link) (n : Notice) :
    (s.notify l n).mixer = s.mixer := rfl

@[simp] theorem State.notify_router (s : State) (l : Link) (n : Notice) :
    (s.notify l n).router = s.router.place l n := rfl

@[simp] theorem State.notify_supply (s : State) (l : Link) (n : Notice) :
    (s.notify l n).supply = s.supply := rfl

@[simp] theorem State.notifyAll_pending (s : State) (ns : List Sent) :
    (s.notifyAll ns).pending = s.pending := rfl

@[simp] theorem State.notifyAll_motors (s : State) (ns : List Sent) :
    (s.notifyAll ns).motors = s.motors := rfl

@[simp] theorem State.notifyAll_sensors (s : State) (ns : List Sent) :
    (s.notifyAll ns).sensors = s.sensors := rfl

@[simp] theorem State.notifyAll_watch (s : State) (ns : List Sent) :
    (s.notifyAll ns).watch = s.watch := rfl

@[simp] theorem State.notifyAll_store (s : State) (ns : List Sent) :
    (s.notifyAll ns).store = s.store := rfl

@[simp] theorem State.notifyAll_mixer (s : State) (ns : List Sent) :
    (s.notifyAll ns).mixer = s.mixer := rfl

@[simp] theorem State.notifyAll_router (s : State) (ns : List Sent) :
    (s.notifyAll ns).router = s.router.placeAll ns := rfl

@[simp] theorem State.notifyAll_supply (s : State) (ns : List Sent) :
    (s.notifyAll ns).supply = s.supply := rfl

@[simp] theorem State.answer_pending (s : State) (l : Link) (c t : Byte) (y : Reply) :
    (s.answer l c t y).pending = s.pending := rfl

@[simp] theorem State.answer_motors (s : State) (l : Link) (c t : Byte) (y : Reply) :
    (s.answer l c t y).motors = s.motors := rfl

@[simp] theorem State.answer_sensors (s : State) (l : Link) (c t : Byte) (y : Reply) :
    (s.answer l c t y).sensors = s.sensors := rfl

@[simp] theorem State.answer_watch (s : State) (l : Link) (c t : Byte) (y : Reply) :
    (s.answer l c t y).watch = s.watch := rfl

@[simp] theorem State.answer_store (s : State) (l : Link) (c t : Byte) (y : Reply) :
    (s.answer l c t y).store = s.store := rfl

@[simp] theorem State.answer_mixer (s : State) (l : Link) (c t : Byte) (y : Reply) :
    (s.answer l c t y).mixer = s.mixer := rfl

@[simp] theorem State.answer_router (s : State) (l : Link) (c t : Byte) (y : Reply) :
    (s.answer l c t y).router = s.router.placeReply l (replyFrame c t y.payload) := rfl

@[simp] theorem State.answer_supply (s : State) (l : Link) (c t : Byte) (y : Reply) :
    (s.answer l c t y).supply = s.supply := rfl

@[simp] theorem State.carry_pending (s : State) (l : Link) (f : Frame) :
    (s.carry l f).pending = s.pending := rfl

@[simp] theorem State.carry_motors (s : State) (l : Link) (f : Frame) :
    (s.carry l f).motors = s.motors := rfl

@[simp] theorem State.carry_sensors (s : State) (l : Link) (f : Frame) :
    (s.carry l f).sensors = s.sensors := rfl

@[simp] theorem State.carry_watch (s : State) (l : Link) (f : Frame) :
    (s.carry l f).watch = s.watch := rfl

@[simp] theorem State.carry_store (s : State) (l : Link) (f : Frame) :
    (s.carry l f).store = s.store := rfl

@[simp] theorem State.carry_mixer (s : State) (l : Link) (f : Frame) :
    (s.carry l f).mixer = s.mixer := rfl

@[simp] theorem State.carry_router (s : State) (l : Link) (f : Frame) :
    (s.carry l f).router = s.router.forwardFrame l f s.now := rfl

@[simp] theorem State.carry_supply (s : State) (l : Link) (f : Frame) :
    (s.carry l f).supply = s.supply := rfl

@[simp] theorem State.setPort_pending (s : State) (p : SensorPort) (q : Port) :
    (s.setPort p q).pending = s.pending := rfl

@[simp] theorem State.setPort_motors (s : State) (p : SensorPort) (q : Port) :
    (s.setPort p q).motors = s.motors := rfl

@[simp] theorem State.setPort_sensors (s : State) (p : SensorPort) (q : Port) :
    (s.setPort p q).sensors = { s.sensors with ports := s.sensors.ports.set p q } := rfl

@[simp] theorem State.setPort_watch (s : State) (p : SensorPort) (q : Port) :
    (s.setPort p q).watch = s.watch := rfl

@[simp] theorem State.setPort_store (s : State) (p : SensorPort) (q : Port) :
    (s.setPort p q).store = s.store := rfl

@[simp] theorem State.setPort_mixer (s : State) (p : SensorPort) (q : Port) :
    (s.setPort p q).mixer = s.mixer := rfl

@[simp] theorem State.setPort_router (s : State) (p : SensorPort) (q : Port) :
    (s.setPort p q).router = s.router := rfl

@[simp] theorem State.setPort_supply (s : State) (p : SensorPort) (q : Port) :
    (s.setPort p q).supply = s.supply := rfl

@[simp] theorem State.setBank_pending (s : State) (b : BankId) (k : Bank) :
    (s.setBank b k).pending = s.pending := rfl

@[simp] theorem State.setBank_motors (s : State) (b : BankId) (k : Bank) :
    (s.setBank b k).motors = s.motors := rfl

@[simp] theorem State.setBank_sensors (s : State) (b : BankId) (k : Bank) :
    (s.setBank b k).sensors = s.sensors.setBank b k := rfl

@[simp] theorem State.setBank_watch (s : State) (b : BankId) (k : Bank) :
    (s.setBank b k).watch = s.watch := rfl

@[simp] theorem State.setBank_store (s : State) (b : BankId) (k : Bank) :
    (s.setBank b k).store = s.store := rfl

@[simp] theorem State.setBank_mixer (s : State) (b : BankId) (k : Bank) :
    (s.setBank b k).mixer = s.mixer := rfl

@[simp] theorem State.setBank_router (s : State) (b : BankId) (k : Bank) :
    (s.setBank b k).router = s.router := rfl

@[simp] theorem State.setBank_supply (s : State) (b : BankId) (k : Bank) :
    (s.setBank b k).supply = s.supply := rfl

@[simp] theorem State.withMotors_pending (s : State) (r : Motors × List Sent) :
    (s.withMotors r).pending = s.pending := rfl

@[simp] theorem State.withMotors_motors (s : State) (r : Motors × List Sent) :
    (s.withMotors r).motors = r.1 := rfl

@[simp] theorem State.withMotors_sensors (s : State) (r : Motors × List Sent) :
    (s.withMotors r).sensors = s.sensors := rfl

@[simp] theorem State.withMotors_watch (s : State) (r : Motors × List Sent) :
    (s.withMotors r).watch = s.watch := rfl

@[simp] theorem State.withMotors_store (s : State) (r : Motors × List Sent) :
    (s.withMotors r).store = s.store := rfl

@[simp] theorem State.withMotors_mixer (s : State) (r : Motors × List Sent) :
    (s.withMotors r).mixer = s.mixer := rfl

@[simp] theorem State.withMotors_router (s : State) (r : Motors × List Sent) :
    (s.withMotors r).router = s.router.placeAll r.2 := rfl

@[simp] theorem State.withMotors_supply (s : State) (r : Motors × List Sent) :
    (s.withMotors r).supply = s.supply := rfl

@[simp] theorem State.withMixer_pending (s : State) (r : Mixer × List Sent) :
    (s.withMixer r).pending = s.pending := rfl

@[simp] theorem State.withMixer_motors (s : State) (r : Mixer × List Sent) :
    (s.withMixer r).motors = s.motors := rfl

@[simp] theorem State.withMixer_sensors (s : State) (r : Mixer × List Sent) :
    (s.withMixer r).sensors = s.sensors := rfl

@[simp] theorem State.withMixer_watch (s : State) (r : Mixer × List Sent) :
    (s.withMixer r).watch = s.watch := rfl

@[simp] theorem State.withMixer_store (s : State) (r : Mixer × List Sent) :
    (s.withMixer r).store = s.store := rfl

@[simp] theorem State.withMixer_mixer (s : State) (r : Mixer × List Sent) :
    (s.withMixer r).mixer = r.1 := rfl

@[simp] theorem State.withMixer_router (s : State) (r : Mixer × List Sent) :
    (s.withMixer r).router = s.router.placeAll r.2 := rfl

@[simp] theorem State.withMixer_supply (s : State) (r : Mixer × List Sent) :
    (s.withMixer r).supply = s.supply := rfl

@[simp] theorem State.withReach_pending (s : State) (w : Reach) :
    (s.withReach w).pending = s.pending := rfl

@[simp] theorem State.withReach_motors (s : State) (w : Reach) :
    (s.withReach w).motors = w.motors := rfl

@[simp] theorem State.withReach_sensors (s : State) (w : Reach) :
    (s.withReach w).sensors = s.sensors := rfl

@[simp] theorem State.withReach_watch (s : State) (w : Reach) :
    (s.withReach w).watch = w.watch := rfl

@[simp] theorem State.withReach_store (s : State) (w : Reach) :
    (s.withReach w).store = s.store := rfl

@[simp] theorem State.withReach_mixer (s : State) (w : Reach) :
    (s.withReach w).mixer = w.mixer := rfl

@[simp] theorem State.withReach_router (s : State) (w : Reach) :
    (s.withReach w).router = w.router := rfl

@[simp] theorem State.withReach_supply (s : State) (w : Reach) :
    (s.withReach w).supply = s.supply := rfl

@[simp] theorem State.shutDown_pending (s : State) (k : ShutdownKind) :
    (s.shutDown k).pending = s.pending := rfl

@[simp] theorem State.shutDown_motors (s : State) (k : ShutdownKind) :
    (s.shutDown k).motors = s.motors := rfl

@[simp] theorem State.shutDown_sensors (s : State) (k : ShutdownKind) :
    (s.shutDown k).sensors = s.sensors := rfl

@[simp] theorem State.shutDown_watch (s : State) (k : ShutdownKind) :
    (s.shutDown k).watch = s.watch := rfl

@[simp] theorem State.shutDown_store (s : State) (k : ShutdownKind) :
    (s.shutDown k).store = s.store := rfl

@[simp] theorem State.shutDown_mixer (s : State) (k : ShutdownKind) :
    (s.shutDown k).mixer = s.mixer := rfl

@[simp] theorem State.shutDown_router (s : State) (k : ShutdownKind) :
    (s.shutDown k).router = s.router := rfl

@[simp] theorem State.shutDown_supply (s : State) (k : ShutdownKind) :
    (s.shutDown k).supply = { s.supply with shutdown := some { kind := k, elapsed := 0, begun := false } } := rfl

@[simp] theorem State.sendIdent_pending (s : State) (k : ResetKind) :
    (s.sendIdent k).pending = s.pending := rfl

@[simp] theorem State.sendIdent_motors (s : State) (k : ResetKind) :
    (s.sendIdent k).motors = s.motors := rfl

@[simp] theorem State.sendIdent_sensors (s : State) (k : ResetKind) :
    (s.sendIdent k).sensors = s.sensors := rfl

@[simp] theorem State.sendIdent_watch (s : State) (k : ResetKind) :
    (s.sendIdent k).watch = s.watch := rfl

@[simp] theorem State.sendIdent_store (s : State) (k : ResetKind) :
    (s.sendIdent k).store = s.store := rfl

@[simp] theorem State.sendIdent_mixer (s : State) (k : ResetKind) :
    (s.sendIdent k).mixer = s.mixer := rfl

@[simp] theorem State.sendIdent_router (s : State) (k : ResetKind) :
    (s.sendIdent k).router = s.router.place .primary (.ident (s.identLayout k)) := rfl

@[simp] theorem State.sendIdent_supply (s : State) (k : ResetKind) :
    (s.sendIdent k).supply = s.supply := rfl

@[simp] theorem State.port_setPort_same (s : State) (p : SensorPort) (q : Port) : (s.setPort p q).port p = q := by
  cases p <;> rfl

@[simp] theorem Motors.setCh_pause (m : Motors) (p : MotorPort) (c : Channel) : (m.setCh p c).pause = m.pause := rfl

@[simp] theorem Motors.setCh_groups (m : Motors) (p : MotorPort) (c : Channel) : (m.setCh p c).groups = m.groups := rfl

@[simp] theorem Motors.setCh_ch (m : Motors) (p : MotorPort) (c : Channel) : (m.setCh p c).ch = m.ch.set p c := rfl

@[simp] theorem Sensors.setBank_ports (x : Sensors) (b : BankId) (k : Bank) : (x.setBank b k).ports = x.ports := by
  cases b <;> rfl

@[simp] theorem Sensors.bank_setBank_same (x : Sensors) (b : BankId) (k : Bank) : (x.setBank b k).bank b = k := by
  cases b <;> rfl

end Sys2Proof.Machine
end

