-- ==== Sys2Proof/Laws/Router.lean ====
section
/-! SUPPORT. What placing a notice or a reply leaves as it was, and the bound of the notice queue. -/

namespace Sys2Proof.Machine

@[simp] theorem Router.link_setLink_same (r : Router) (l : Link) (q : LinkQueues) : (r.setLink l q).link l = q := by
  cases l <;> rfl

@[simp] theorem Router.link_setLink_other (r : Router) (l : Link) (q : LinkQueues) :
    (r.setLink l q).link l.other = r.link l.other := by
  cases l <;> rfl

theorem Router.link_setLink (r : Router) (l k : Link) (q : LinkQueues) :
    (r.setLink l q).link k = if k = l then q else r.link k := by
  cases l <;> cases k <;> rfl

@[simp] theorem Router.record_setLink (r : Router) (l k : Link) (q : LinkQueues) :
    (r.setLink l q).record k = r.record k := by
  cases l <;> cases k <;> rfl

@[simp] theorem Router.link_setRecord (r : Router) (o l : Link) (v : Option InFlight) :
    (r.setRecord o v).link l = r.link l := by
  cases o <;> cases l <;> rfl

theorem Router.record_setRecord (r : Router) (o k : Link) (v : Option InFlight) :
    (r.setRecord o v).record k = if k = o then v else r.record k := by
  cases o <;> cases k <;> rfl

@[simp] theorem Router.setLink_window0 (r : Router) (l : Link) (q : LinkQueues) : (r.setLink l q).window0 = r.window0 := by
  cases l <;> rfl

@[simp] theorem Router.setRecord_window0 (r : Router) (l : Link) (v : Option InFlight) :
    (r.setRecord l v).window0 = r.window0 := by
  cases l <;> rfl

@[simp] theorem Router.setLink_window1 (r : Router) (l : Link) (q : LinkQueues) : (r.setLink l q).window1 = r.window1 := by
  cases l <;> rfl

@[simp] theorem Router.setRecord_window1 (r : Router) (l : Link) (v : Option InFlight) :
    (r.setRecord l v).window1 = r.window1 := by
  cases l <;> rfl

@[simp] theorem Router.setLink_window2 (r : Router) (l : Link) (q : LinkQueues) : (r.setLink l q).window2 = r.window2 := by
  cases l <;> rfl

@[simp] theorem Router.setRecord_window2 (r : Router) (l : Link) (v : Option InFlight) :
    (r.setRecord l v).window2 = r.window2 := by
  cases l <;> rfl

@[simp] theorem Router.setLink_window3 (r : Router) (l : Link) (q : LinkQueues) : (r.setLink l q).window3 = r.window3 := by
  cases l <;> rfl

@[simp] theorem Router.setRecord_window3 (r : Router) (l : Link) (v : Option InFlight) :
    (r.setRecord l v).window3 = r.window3 := by
  cases l <;> rfl

@[simp] theorem Router.setLink_wait (r : Router) (l : Link) (q : LinkQueues) : (r.setLink l q).wait = r.wait := by
  cases l <;> rfl

@[simp] theorem Router.setRecord_wait (r : Router) (l : Link) (v : Option InFlight) :
    (r.setRecord l v).wait = r.wait := by
  cases l <;> rfl

@[simp] theorem Router.setLink_abortMode (r : Router) (l : Link) (q : LinkQueues) : (r.setLink l q).abortMode = r.abortMode := by
  cases l <;> rfl

@[simp] theorem Router.setRecord_abortMode (r : Router) (l : Link) (v : Option InFlight) :
    (r.setRecord l v).abortMode = r.abortMode := by
  cases l <;> rfl

@[simp] theorem Router.setLink_linked (r : Router) (l : Link) (q : LinkQueues) : (r.setLink l q).linked = r.linked := by
  cases l <;> rfl

@[simp] theorem Router.setRecord_linked (r : Router) (l : Link) (v : Option InFlight) :
    (r.setRecord l v).linked = r.linked := by
  cases l <;> rfl

@[simp] theorem Router.setLink_up (r : Router) (l : Link) (q : LinkQueues) : (r.setLink l q).up = r.up := by
  cases l <;> rfl

@[simp] theorem Router.setRecord_up (r : Router) (l : Link) (v : Option InFlight) :
    (r.setRecord l v).up = r.up := by
  cases l <;> rfl

@[simp] theorem Router.setLink_lossPolicy (r : Router) (l : Link) (q : LinkQueues) : (r.setLink l q).lossPolicy = r.lossPolicy := by
  cases l <;> rfl

@[simp] theorem Router.setRecord_lossPolicy (r : Router) (l : Link) (v : Option InFlight) :
    (r.setRecord l v).lossPolicy = r.lossPolicy := by
  cases l <;> rfl

@[simp] theorem LinkQueues.place_replies (q : LinkQueues) (n : Notice) : (q.place n).replies = q.replies := by
  unfold LinkQueues.place LinkQueues.joinNotice
  repeat' split
  all_goals rfl

@[simp] theorem LinkQueues.place_replyCount (q : LinkQueues) (n : Notice) : (q.place n).replyCount = q.replyCount := by
  unfold LinkQueues.place LinkQueues.joinNotice
  repeat' split
  all_goals rfl

@[simp] theorem LinkQueues.place_forward (q : LinkQueues) (n : Notice) : (q.place n).forward = q.forward := by
  unfold LinkQueues.place LinkQueues.joinNotice
  repeat' split
  all_goals rfl

@[simp] theorem LinkQueues.place_last (q : LinkQueues) (n : Notice) : (q.place n).last = q.last := by
  unfold LinkQueues.place LinkQueues.joinNotice
  repeat' split
  all_goals rfl

@[simp] theorem LinkQueues.place_sending (q : LinkQueues) (n : Notice) : (q.place n).sending = q.sending := by
  unfold LinkQueues.place LinkQueues.joinNotice
  repeat' split
  all_goals rfl

@[simp] theorem LinkQueues.place_farReady (q : LinkQueues) (n : Notice) : (q.place n).farReady = q.farReady := by
  unfold LinkQueues.place LinkQueues.joinNotice
  repeat' split
  all_goals rfl

@[simp] theorem LinkQueues.place_rx (q : LinkQueues) (n : Notice) : (q.place n).rx = q.rx := by
  unfold LinkQueues.place LinkQueues.joinNotice
  repeat' split
  all_goals rfl

@[simp] theorem Router.place_replies (r : Router) (l k : Link) (n : Notice) : ((r.place l n).link k).replies = (r.link k).replies := by
  unfold Router.place
  split
  · rw [Router.link_setLink]; split
    · subst_vars; simp
    · rfl
  · rfl

@[simp] theorem Router.place_replyCount (r : Router) (l k : Link) (n : Notice) : ((r.place l n).link k).replyCount = (r.link k).replyCount := by
  unfold Router.place
  split
  · rw [Router.link_setLink]; split
    · subst_vars; simp
    · rfl
  · rfl

@[simp] theorem Router.place_forward (r : Router) (l k : Link) (n : Notice) : ((r.place l n).link k).forward = (r.link k).forward := by
  unfold Router.place
  split
  · rw [Router.link_setLink]; split
    · subst_vars; simp
    · rfl
  · rfl

@[simp] theorem Router.place_last (r : Router) (l k : Link) (n : Notice) : ((r.place l n).link k).last = (r.link k).last := by
  unfold Router.place
  split
  · rw [Router.link_setLink]; split
    · subst_vars; simp
    · rfl
  · rfl

@[simp] theorem Router.place_sending (r : Router) (l k : Link) (n : Notice) : ((r.place l n).link k).sending = (r.link k).sending := by
  unfold Router.place
  split
  · rw [Router.link_setLink]; split
    · subst_vars; simp
    · rfl
  · rfl

@[simp] theorem Router.place_farReady (r : Router) (l k : Link) (n : Notice) : ((r.place l n).link k).farReady = (r.link k).farReady := by
  unfold Router.place
  split
  · rw [Router.link_setLink]; split
    · subst_vars; simp
    · rfl
  · rfl

@[simp] theorem Router.place_rx (r : Router) (l k : Link) (n : Notice) : ((r.place l n).link k).rx = (r.link k).rx := by
  unfold Router.place
  split
  · rw [Router.link_setLink]; split
    · subst_vars; simp
    · rfl
  · rfl

@[simp] theorem Router.place_window0 (r : Router) (l : Link) (n : Notice) : (r.place l n).window0 = r.window0 := by
  unfold Router.place; split <;> simp

@[simp] theorem Router.place_window1 (r : Router) (l : Link) (n : Notice) : (r.place l n).window1 = r.window1 := by
  unfold Router.place; split <;> simp

@[simp] theorem Router.place_window2 (r : Router) (l : Link) (n : Notice) : (r.place l n).window2 = r.window2 := by
  unfold Router.place; split <;> simp

@[simp] theorem Router.place_window3 (r : Router) (l : Link) (n : Notice) : (r.place l n).window3 = r.window3 := by
  unfold Router.place; split <;> simp

@[simp] theorem Router.place_wait (r : Router) (l : Link) (n : Notice) : (r.place l n).wait = r.wait := by
  unfold Router.place; split <;> simp

@[simp] theorem Router.place_abortMode (r : Router) (l : Link) (n : Notice) : (r.place l n).abortMode = r.abortMode := by
  unfold Router.place; split <;> simp

@[simp] theorem Router.place_linked (r : Router) (l : Link) (n : Notice) : (r.place l n).linked = r.linked := by
  unfold Router.place; split <;> simp

@[simp] theorem Router.place_up (r : Router) (l : Link) (n : Notice) : (r.place l n).up = r.up := by
  unfold Router.place; split <;> simp

@[simp] theorem Router.place_lossPolicy (r : Router) (l : Link) (n : Notice) : (r.place l n).lossPolicy = r.lossPolicy := by
  unfold Router.place; split <;> simp

@[simp] theorem Router.place_record (r : Router) (l k : Link) (n : Notice) : (r.place l n).record k = r.record k := by
  unfold Router.place; split <;> simp

theorem Router.placeAll_cons (r : Router) (n : Sent) (ns : List Sent) :
    r.placeAll (n :: ns) = (r.place n.link n.notice).placeAll ns := rfl

@[simp] theorem Router.placeAll_nil (r : Router) : r.placeAll [] = r := rfl

theorem Router.placeAll_append (r : Router) (ns ms : List Sent) :
    r.placeAll (ns ++ ms) = (r.placeAll ns).placeAll ms := by
  simp [Router.placeAll, List.foldl_append]

/-- A property that placing one notice keeps is kept by placing several. -/
theorem Router.placeAll_keeps {P : Router → Prop} (h : ∀ r l n, P r → P (r.place l n)) (ns : List Sent) {r : Router}
    (w : P r) : P (r.placeAll ns) := by
  induction ns generalizing r with
  | nil => exact w
  | cons n ns ih => exact ih (h r n.link n.notice w)

@[simp] theorem Router.placeAll_replies (r : Router) (k : Link) (ns : List Sent) :
    ((r.placeAll ns).link k).replies = (r.link k).replies :=
  Router.placeAll_keeps (P := fun x => (x.link k).replies = (r.link k).replies) (fun x l n w => by simpa using w) ns rfl

@[simp] theorem Router.placeAll_replyCount (r : Router) (k : Link) (ns : List Sent) :
    ((r.placeAll ns).link k).replyCount = (r.link k).replyCount :=
  Router.placeAll_keeps (P := fun x => (x.link k).replyCount = (r.link k).replyCount) (fun x l n w => by simpa using w) ns rfl

@[simp] theorem Router.placeAll_forward (r : Router) (k : Link) (ns : List Sent) :
    ((r.placeAll ns).link k).forward = (r.link k).forward :=
  Router.placeAll_keeps (P := fun x => (x.link k).forward = (r.link k).forward) (fun x l n w => by simpa using w) ns rfl

@[simp] theorem Router.placeAll_last (r : Router) (k : Link) (ns : List Sent) :
    ((r.placeAll ns).link k).last = (r.link k).last :=
  Router.placeAll_keeps (P := fun x => (x.link k).last = (r.link k).last) (fun x l n w => by simpa using w) ns rfl

@[simp] theorem Router.placeAll_sending (r : Router) (k : Link) (ns : List Sent) :
    ((r.placeAll ns).link k).sending = (r.link k).sending :=
  Router.placeAll_keeps (P := fun x => (x.link k).sending = (r.link k).sending) (fun x l n w => by simpa using w) ns rfl

@[simp] theorem Router.placeAll_farReady (r : Router) (k : Link) (ns : List Sent) :
    ((r.placeAll ns).link k).farReady = (r.link k).farReady :=
  Router.placeAll_keeps (P := fun x => (x.link k).farReady = (r.link k).farReady) (fun x l n w => by simpa using w) ns rfl

@[simp] theorem Router.placeAll_rx (r : Router) (k : Link) (ns : List Sent) :
    ((r.placeAll ns).link k).rx = (r.link k).rx :=
  Router.placeAll_keeps (P := fun x => (x.link k).rx = (r.link k).rx) (fun x l n w => by simpa using w) ns rfl

@[simp] theorem Router.placeAll_window0 (r : Router) (ns : List Sent) : (r.placeAll ns).window0 = r.window0 :=
  Router.placeAll_keeps (P := fun x => x.window0 = r.window0) (fun x l n w => by simpa using w) ns rfl

@[simp] theorem Router.placeAll_window1 (r : Router) (ns : List Sent) : (r.placeAll ns).window1 = r.window1 :=
  Router.placeAll_keeps (P := fun x => x.window1 = r.window1) (fun x l n w => by simpa using w) ns rfl

@[simp] theorem Router.placeAll_window2 (r : Router) (ns : List Sent) : (r.placeAll ns).window2 = r.window2 :=
  Router.placeAll_keeps (P := fun x => x.window2 = r.window2) (fun x l n w => by simpa using w) ns rfl

@[simp] theorem Router.placeAll_window3 (r : Router) (ns : List Sent) : (r.placeAll ns).window3 = r.window3 :=
  Router.placeAll_keeps (P := fun x => x.window3 = r.window3) (fun x l n w => by simpa using w) ns rfl

@[simp] theorem Router.placeAll_wait (r : Router) (ns : List Sent) : (r.placeAll ns).wait = r.wait :=
  Router.placeAll_keeps (P := fun x => x.wait = r.wait) (fun x l n w => by simpa using w) ns rfl

@[simp] theorem Router.placeAll_abortMode (r : Router) (ns : List Sent) : (r.placeAll ns).abortMode = r.abortMode :=
  Router.placeAll_keeps (P := fun x => x.abortMode = r.abortMode) (fun x l n w => by simpa using w) ns rfl

@[simp] theorem Router.placeAll_linked (r : Router) (ns : List Sent) : (r.placeAll ns).linked = r.linked :=
  Router.placeAll_keeps (P := fun x => x.linked = r.linked) (fun x l n w => by simpa using w) ns rfl

@[simp] theorem Router.placeAll_up (r : Router) (ns : List Sent) : (r.placeAll ns).up = r.up :=
  Router.placeAll_keeps (P := fun x => x.up = r.up) (fun x l n w => by simpa using w) ns rfl

@[simp] theorem Router.placeAll_lossPolicy (r : Router) (ns : List Sent) : (r.placeAll ns).lossPolicy = r.lossPolicy :=
  Router.placeAll_keeps (P := fun x => x.lossPolicy = r.lossPolicy) (fun x l n w => by simpa using w) ns rfl

@[simp] theorem Router.placeAll_record (r : Router) (k : Link) (ns : List Sent) :
    (r.placeAll ns).record k = r.record k :=
  Router.placeAll_keeps (P := fun x => x.record k = r.record k) (fun x l n w => by simpa using w) ns rfl

theorem length_removeFirst_le {α : Type} (t : α → Bool) (xs : List α) : (removeFirst t xs).length ≤ xs.length := by
  induction xs with
  | nil => rfl
  | cons x xs ih => unfold removeFirst; split <;> simp; omega

theorem length_removeFirst_of_any {α : Type} {t : α → Bool} {xs : List α} (h : xs.any t = true) :
    (removeFirst t xs).length + 1 = xs.length := by
  induction xs with
  | nil => simp at h
  | cons x xs ih =>
    unfold removeFirst
    by_cases hx : t x = true
    · simp [hx]
    · have hr : xs.any t = true := by simpa [hx] using h
      simp [hx, ih hr]

/-- Placing a notice keeps the bound of 16 on the queue. -/
theorem LinkQueues.place_bound {q : LinkQueues} (n : Notice) (h : q.notices.length ≤ 16) :
    (q.place n).notices.length ≤ 16 := by
  unfold LinkQueues.place LinkQueues.joinNotice
  split
  · simp; omega
  · split
    · exact h
    · split
      · rename_i hr
        have := length_removeFirst_of_any hr
        simp; omega
      · exact h

/-- Placing a notice keeps the bound of 16 on both notice queues. -/
theorem Router.place_bound {r : Router} (l : Link) (n : Notice) (h : ∀ k, (r.link k).notices.length ≤ 16) (k : Link) :
    ((r.place l n).link k).notices.length ≤ 16 := by
  unfold Router.place
  split
  · rw [Router.link_setLink]; split
    · exact LinkQueues.place_bound n (h l)
    · exact h k
  · exact h k

/-- Placing notices keeps the bound of 16 on both notice queues. -/
theorem Router.placeAll_bound {r : Router} (ns : List Sent) (h : ∀ k, (r.link k).notices.length ≤ 16) (k : Link) :
    ((r.placeAll ns).link k).notices.length ≤ 16 :=
  Router.placeAll_keeps (P := fun x => ∀ k, (x.link k).notices.length ≤ 16) (fun _ l n w => Router.place_bound l n w)
    ns h k

@[simp] theorem Link.other_other (l : Link) : Link.other (Link.other l) = l := by cases l <;> rfl

theorem removeFirst_none {α : Type} {t : α → Bool} {xs : List α} (h : xs.any t = false) : removeFirst t xs = xs := by
  induction xs with
  | nil => rfl
  | cons x xs ih =>
    simp only [List.any_cons, Bool.or_eq_false_iff] at h
    simp [removeFirst, h.1, ih h.2]

theorem removeLast_none {α : Type} {t : α → Bool} {xs : List α} (h : xs.any t = false) : removeLast t xs = xs := by
  unfold removeLast
  rw [removeFirst_none (by simpa using h), List.reverse_reverse]

theorem length_removeLast_le {α : Type} (t : α → Bool) (xs : List α) : (removeLast t xs).length ≤ xs.length := by
  simpa [removeLast] using length_removeFirst_le t xs.reverse

/-! ### An abort (R154) -/

theorem Router.abort_record (r : Router) (o k : Link) (b : Bool) :
    (r.abort o b).record k = if k = o then none else r.record k := by
  unfold Router.abort
  cases h : r.record o with
  | none =>
    by_cases hk : k = o
    · subst hk; simp [h]
    · simp [hk]
  | some rec => cases b <;> simp [Router.placeReply, Router.record_setRecord]

theorem Router.abort_replies (r : Router) (o k : Link) (b : Bool) :
    ((r.abort o b).link k).replies = (r.link k).replies ++
      (match r.record o with
        | none => []
        | some rec =>
          if k = o ∧ b = true then
            [replyFrame rec.channel rec.tag (Reply.refuse (abortStatus r.abortMode)).payload]
          else []) := by
  unfold Router.abort
  cases h : r.record o with
  | none => simp
  | some rec =>
    cases b <;> cases o <;> cases k <;>
      simp [Router.placeReply, Router.link_setLink, Link.other]

theorem Router.abort_forward (r : Router) (o k : Link) (b : Bool) :
    ((r.abort o b).link k).forward =
      (match r.record o with
        | none => (r.link k).forward
        | some rec => if k = o.other then removeLast (isAskOf rec) (r.link k).forward else (r.link k).forward) := by
  unfold Router.abort
  cases h : r.record o with
  | none => simp
  | some rec =>
    cases b <;> cases o <;> cases k <;>
      simp [Router.placeReply, Router.link_setLink, Link.other]

@[simp] theorem Router.abort_notices (r : Router) (o k : Link) (b : Bool) :
    ((r.abort o b).link k).notices = (r.link k).notices := by
  unfold Router.abort
  cases h : r.record o with
  | none => simp
  | some rec =>
    cases b <;> cases o <;> cases k <;> simp [Router.placeReply, Router.link_setLink, Link.other]

@[simp] theorem Router.abort_replyCount (r : Router) (o k : Link) (b : Bool) :
    ((r.abort o b).link k).replyCount = (r.link k).replyCount := by
  unfold Router.abort
  cases h : r.record o with
  | none => simp
  | some rec =>
    cases b <;> cases o <;> cases k <;> simp [Router.placeReply, Router.link_setLink, Link.other]

@[simp] theorem Router.abort_overflow (r : Router) (o k : Link) (b : Bool) :
    ((r.abort o b).link k).overflow = (r.link k).overflow := by
  unfold Router.abort
  cases h : r.record o with
  | none => simp
  | some rec =>
    cases b <;> cases o <;> cases k <;> simp [Router.placeReply, Router.link_setLink, Link.other]

@[simp] theorem Router.abort_counter (r : Router) (o k : Link) (b : Bool) :
    ((r.abort o b).link k).counter = (r.link k).counter := by
  unfold Router.abort
  cases h : r.record o with
  | none => simp
  | some rec =>
    cases b <;> cases o <;> cases k <;> simp [Router.placeReply, Router.link_setLink, Link.other]

@[simp] theorem Router.abort_last (r : Router) (o k : Link) (b : Bool) :
    ((r.abort o b).link k).last = (r.link k).last := by
  unfold Router.abort
  cases h : r.record o with
  | none => simp
  | some rec =>
    cases b <;> cases o <;> cases k <;> simp [Router.placeReply, Router.link_setLink, Link.other]

@[simp] theorem Router.abort_sending (r : Router) (o k : Link) (b : Bool) :
    ((r.abort o b).link k).sending = (r.link k).sending := by
  unfold Router.abort
  cases h : r.record o with
  | none => simp
  | some rec =>
    cases b <;> cases o <;> cases k <;> simp [Router.placeReply, Router.link_setLink, Link.other]

@[simp] theorem Router.abort_farReady (r : Router) (o k : Link) (b : Bool) :
    ((r.abort o b).link k).farReady = (r.link k).farReady := by
  unfold Router.abort
  cases h : r.record o with
  | none => simp
  | some rec =>
    cases b <;> cases o <;> cases k <;> simp [Router.placeReply, Router.link_setLink, Link.other]

@[simp] theorem Router.abort_rx (r : Router) (o k : Link) (b : Bool) :
    ((r.abort o b).link k).rx = (r.link k).rx := by
  unfold Router.abort
  cases h : r.record o with
  | none => simp
  | some rec =>
    cases b <;> cases o <;> cases k <;> simp [Router.placeReply, Router.link_setLink, Link.other]

@[simp] theorem Router.abort_window0 (r : Router) (o : Link) (b : Bool) : (r.abort o b).window0 = r.window0 := by
  unfold Router.abort
  cases h : r.record o with
  | none => simp
  | some rec => cases b <;> simp [Router.placeReply]

@[simp] theorem Router.abort_window1 (r : Router) (o : Link) (b : Bool) : (r.abort o b).window1 = r.window1 := by
  unfold Router.abort
  cases h : r.record o with
  | none => simp
  | some rec => cases b <;> simp [Router.placeReply]

@[simp] theorem Router.abort_window2 (r : Router) (o : Link) (b : Bool) : (r.abort o b).window2 = r.window2 := by
  unfold Router.abort
  cases h : r.record o with
  | none => simp
  | some rec => cases b <;> simp [Router.placeReply]

@[simp] theorem Router.abort_window3 (r : Router) (o : Link) (b : Bool) : (r.abort o b).window3 = r.window3 := by
  unfold Router.abort
  cases h : r.record o with
  | none => simp
  | some rec => cases b <;> simp [Router.placeReply]

@[simp] theorem Router.abort_wait (r : Router) (o : Link) (b : Bool) : (r.abort o b).wait = r.wait := by
  unfold Router.abort
  cases h : r.record o with
  | none => simp
  | some rec => cases b <;> simp [Router.placeReply]

@[simp] theorem Router.abort_abortMode (r : Router) (o : Link) (b : Bool) : (r.abort o b).abortMode = r.abortMode := by
  unfold Router.abort
  cases h : r.record o with
  | none => simp
  | some rec => cases b <;> simp [Router.placeReply]

@[simp] theorem Router.abort_linked (r : Router) (o : Link) (b : Bool) : (r.abort o b).linked = r.linked := by
  unfold Router.abort
  cases h : r.record o with
  | none => simp
  | some rec => cases b <;> simp [Router.placeReply]

@[simp] theorem Router.abort_up (r : Router) (o : Link) (b : Bool) : (r.abort o b).up = r.up := by
  unfold Router.abort
  cases h : r.record o with
  | none => simp
  | some rec => cases b <;> simp [Router.placeReply]

@[simp] theorem Router.abort_lossPolicy (r : Router) (o : Link) (b : Bool) : (r.abort o b).lossPolicy = r.lossPolicy := by
  unfold Router.abort
  cases h : r.record o with
  | none => simp
  | some rec => cases b <;> simp [Router.placeReply]

/-- A notice for one link leaves the other link's queues as they are. -/
theorem Router.place_link_ne (r : Router) {l k : Link} (h : k ≠ l) (n : Notice) : (r.place l n).link k = r.link k := by
  unfold Router.place
  split
  · rw [Router.link_setLink, if_neg h]
  · rfl

/-- A notice for a link whose queue has room joins its tail with the counter as its tag. -/
theorem Router.place_notices_room (r : Router) {l : Link} (hr : r.reachable l = true)
    (hl : (r.link l).notices.length < 16) (n : Notice) :
    ((r.place l n).link l).notices = (r.link l).notices ++ [n.frame (r.link l).counter] := by
  simp [Router.place, hr, LinkQueues.place, hl, LinkQueues.joinNotice]

end Sys2Proof.Machine
end

