-- ==== Sys2Proof/Laws/Frames.lean ====
section
/-! SUPPORT. What taking a request comes to: a request the router admits is handled in the state `entered` and
answered once. -/

namespace Sys2Proof.Machine

@[simp] theorem requestFrame_channel (c : Byte) (r : Req) : (requestFrame c r).channel = c := rfl
@[simp] theorem requestFrame_tag (c : Byte) (r : Req) : (requestFrame c r).tag = r.tag := rfl
@[simp] theorem requestFrame_payload (c : Byte) (r : Req) : (requestFrame c r).payload = r.payload := rfl

/-- What a block's answer makes of the part. -/
def State.finish (channel : Byte) (r : Req) (x : State × Option Reply) : State :=
  match x with
  | (t, some y) => t.replied channel r y
  | (t, none) => t

theorem handToBlock_request (h : Handler) (channel : Byte) (r : Req) (s : State) :
    s.handToBlock (some h) r.link (requestFrame channel r) = State.finish channel r (h r s) := by
  obtain ⟨l, c, tag, p⟩ := r
  cases c
  · show (match h _ s with | (s1, some r) => _ | (s1, none) => s1) = _
    simp only [State.finish, State.replied, requestFrame]
    split <;> simp
  · show (h _ s).1 = _
    simp only [State.finish, State.replied, requestFrame]
    split <;> simp_all

/-- A request that the router admits: its block handles it in the state `entered`, and an ASK is answered. -/
theorem takeRequest_of_admits {s : State} {channel : Byte} {r : Req} (h : Handler)
    (ha : s.admits r.link channel = true) :
    s.takeRequest channel h r = State.finish channel r (h r (s.entered channel r)) := by
  obtain ⟨l, c, tag, p⟩ := r
  simp only [State.admits, Bool.and_eq_true] at ha
  obtain ⟨hr, hc⟩ := ha
  rw [← handToBlock_request]
  cases l
  · have hlt : channel.toNat < 128 := by simpa using hc
    cases c <;>
      simp [State.takeRequest, State.takeFrame, hr, requestFrame, State.route, State.routePrimary, hlt, State.entered,
        State.mirrors, ReqClass.frame]
  · simp only [Bool.and_eq_true, Bool.not_eq_true', bne_iff_ne, ne_eq] at hc
    obtain ⟨h1, h2⟩ := hc
    cases hd : s.router.disposition channel
    · cases c <;>
        simp [State.takeRequest, State.takeFrame, hr, requestFrame, State.route, State.routeRemote, State.entered,
          State.mirrors, ReqClass.frame, State.handFromRemote, h1, Router.disposition, Router.windows,
          Router.reserve] <;>
        simp_all [Router.disposition, Router.windows]
    · cases c <;>
        simp [State.takeRequest, State.takeFrame, hr, requestFrame, State.route, State.routeRemote, State.entered,
          State.mirrors, ReqClass.frame, State.handFromRemote, h1, Router.disposition, Router.windows,
          Router.reserve] <;>
        simp_all [Router.disposition, Router.windows]
    · exact absurd hd h2

@[simp] theorem State.entered_pending (s : State) (c : Byte) (r : Req) : (s.entered c r).pending = s.pending := by
  unfold State.entered; repeat' split
  all_goals rfl

@[simp] theorem State.replied_pending (s : State) (c : Byte) (r : Req) (y : Reply) : (s.replied c r y).pending = s.pending := by
  unfold State.replied; split <;> rfl

@[simp] theorem State.entered_motors (s : State) (c : Byte) (r : Req) : (s.entered c r).motors = s.motors := by
  unfold State.entered; repeat' split
  all_goals rfl

@[simp] theorem State.replied_motors (s : State) (c : Byte) (r : Req) (y : Reply) : (s.replied c r y).motors = s.motors := by
  unfold State.replied; split <;> rfl

@[simp] theorem State.entered_sensors (s : State) (c : Byte) (r : Req) : (s.entered c r).sensors = s.sensors := by
  unfold State.entered; repeat' split
  all_goals rfl

@[simp] theorem State.replied_sensors (s : State) (c : Byte) (r : Req) (y : Reply) : (s.replied c r y).sensors = s.sensors := by
  unfold State.replied; split <;> rfl

@[simp] theorem State.entered_watch (s : State) (c : Byte) (r : Req) : (s.entered c r).watch = s.watch := by
  unfold State.entered; repeat' split
  all_goals rfl

@[simp] theorem State.replied_watch (s : State) (c : Byte) (r : Req) (y : Reply) : (s.replied c r y).watch = s.watch := by
  unfold State.replied; split <;> rfl

@[simp] theorem State.entered_store (s : State) (c : Byte) (r : Req) : (s.entered c r).store = s.store := by
  unfold State.entered; repeat' split
  all_goals rfl

@[simp] theorem State.replied_store (s : State) (c : Byte) (r : Req) (y : Reply) : (s.replied c r y).store = s.store := by
  unfold State.replied; split <;> rfl

@[simp] theorem State.entered_mixer (s : State) (c : Byte) (r : Req) : (s.entered c r).mixer = s.mixer := by
  unfold State.entered; repeat' split
  all_goals rfl

@[simp] theorem State.replied_mixer (s : State) (c : Byte) (r : Req) (y : Reply) : (s.replied c r y).mixer = s.mixer := by
  unfold State.replied; split <;> rfl

@[simp] theorem State.entered_supply (s : State) (c : Byte) (r : Req) : (s.entered c r).supply = s.supply := by
  unfold State.entered; repeat' split
  all_goals rfl

@[simp] theorem State.replied_supply (s : State) (c : Byte) (r : Req) (y : Reply) : (s.replied c r y).supply = s.supply := by
  unfold State.replied; split <;> rfl

@[simp] theorem State.entered_live (s : State) (c : Byte) (r : Req) : (s.entered c r).live = s.live := by
  simp [State.live]

@[simp] theorem State.entered_awake (s : State) (c : Byte) (r : Req) : (s.entered c r).awake = s.awake := by
  simp [State.awake]

@[simp] theorem State.entered_feed (s : State) (c : Byte) (r : Req) : (s.entered c r).feed = s.feed := by
  simp [State.feed, State.live]

@[simp] theorem State.entered_uses (s : State) (c : Byte) (r : Req) : (s.entered c r).uses = s.uses := by
  simp [State.uses]

@[simp] theorem State.entered_compacting (s : State) (c : Byte) (r : Req) : (s.entered c r).compacting = s.compacting := by
  simp [State.compacting]

@[simp] theorem State.entered_now (s : State) (c : Byte) (r : Req) : (s.entered c r).now = s.now := by
  simp [State.now]

theorem State.entered_port (s : State) (c : Byte) (r : Req) (p : SensorPort) :
    (s.entered c r).port p = s.port p := by
  simp [State.port]

@[simp] theorem State.entered_soundFeed (s : State) (c : Byte) (r : Req) : (s.entered c r).soundFeed = s.soundFeed := by
  simp [State.soundFeed]

@[simp] theorem State.entered_watchFeed (s : State) (c : Byte) (r : Req) : (s.entered c r).watchFeed = s.watchFeed := by
  simp [State.watchFeed]

/-- Taking a request in changes no reply queue. -/
@[simp] theorem State.entered_replies (s : State) (c : Byte) (r : Req) (k : Link) :
    ((s.entered c r).router.link k).replies = (s.router.link k).replies := by
  unfold State.entered State.setRx Router.reserve
  repeat' split
  all_goals (simp [Router.link_setLink]; try split) <;> simp_all

@[simp] theorem State.entered_forward (s : State) (c : Byte) (r : Req) (k : Link) :
    ((s.entered c r).router.link k).forward = (s.router.link k).forward := by
  unfold State.entered State.setRx Router.reserve
  repeat' split
  all_goals (simp [Router.link_setLink]; try split) <;> simp_all

@[simp] theorem State.entered_record (s : State) (c : Byte) (r : Req) (k : Link) :
    (s.entered c r).router.record k = s.router.record k := by
  unfold State.entered State.setRx Router.reserve
  repeat' split
  all_goals simp

/-- An answered ASK has its reply at the tail of its link's reply queue. -/
theorem State.replied_replies (s : State) (c : Byte) (r : Req) (y : Reply) (h : r.cls = .ask) :
    ((s.replied c r y).router.link r.link).replies =
      (s.router.link r.link).replies ++ [replyFrame c r.tag y.payload] := by
  simp [State.replied, h, Router.placeReply]

@[simp] theorem finish_answered (c : Byte) (r : Req) (t : State) (y : Reply) :
    State.finish c r (answered (t, y)) = t.replied c r y := rfl

@[simp] theorem finish_refused (c : Byte) (r : Req) (t : State) (y : Reply) :
    State.finish c r (refused t y) = t.replied c r y := rfl

/-- A request whose payload divides into fields. -/
theorem onFields_some (act : Link → Fields → State → Outcome) {r : Req} {fs : Fields} (s : State)
    (h : decodeFields r.payload = some fs) : onFields act r s = answered (act r.link fs s) := by
  simp [onFields, h]

/-- A request while no compaction runs. -/
theorem unlessCompacting_idle (h : Handler) (r : Req) {s : State} (hc : s.compacting = false) :
    unlessCompacting h r s = h r s := by
  simp [unlessCompacting, hc]

@[simp] theorem State.entered_window0 (s : State) (c : Byte) (r : Req) :
    (s.entered c r).router.window0 = s.router.window0 := by
  unfold State.entered State.setRx Router.reserve
  repeat' split
  all_goals simp

@[simp] theorem State.entered_window1 (s : State) (c : Byte) (r : Req) :
    (s.entered c r).router.window1 = s.router.window1 := by
  unfold State.entered State.setRx Router.reserve
  repeat' split
  all_goals simp

@[simp] theorem State.entered_window2 (s : State) (c : Byte) (r : Req) :
    (s.entered c r).router.window2 = s.router.window2 := by
  unfold State.entered State.setRx Router.reserve
  repeat' split
  all_goals simp

@[simp] theorem State.entered_window3 (s : State) (c : Byte) (r : Req) :
    (s.entered c r).router.window3 = s.router.window3 := by
  unfold State.entered State.setRx Router.reserve
  repeat' split
  all_goals simp

@[simp] theorem State.entered_wait (s : State) (c : Byte) (r : Req) :
    (s.entered c r).router.wait = s.router.wait := by
  unfold State.entered State.setRx Router.reserve
  repeat' split
  all_goals simp

@[simp] theorem State.entered_abortMode (s : State) (c : Byte) (r : Req) :
    (s.entered c r).router.abortMode = s.router.abortMode := by
  unfold State.entered State.setRx Router.reserve
  repeat' split
  all_goals simp

@[simp] theorem State.entered_linked (s : State) (c : Byte) (r : Req) :
    (s.entered c r).router.linked = s.router.linked := by
  unfold State.entered State.setRx Router.reserve
  repeat' split
  all_goals simp

@[simp] theorem State.entered_up (s : State) (c : Byte) (r : Req) :
    (s.entered c r).router.up = s.router.up := by
  unfold State.entered State.setRx Router.reserve
  repeat' split
  all_goals simp

@[simp] theorem State.entered_lossPolicy (s : State) (c : Byte) (r : Req) :
    (s.entered c r).router.lossPolicy = s.router.lossPolicy := by
  unfold State.entered State.setRx Router.reserve
  repeat' split
  all_goals simp

end Sys2Proof.Machine
end

