-- ==== Sys2Proof/Laws/Memory.lean ====
section
/-! SUPPORT. The bytes of the sound store: every operation keeps the canonical form, and what a read finds after it. -/

namespace Sys2Proof.Machine

theorem Memory.wfFrom_cons (lo k : Nat) (b : Byte) (r : Memory) :
    Memory.wfFrom lo ((k, b) :: r) = true ↔ lo ≤ k ∧ k < storeSize ∧ b ≠ 0 ∧ Memory.wfFrom (k + 1) r = true := by
  simp [Memory.wfFrom, and_assoc]

theorem Memory.wfFrom_mono {lo hi : Nat} (h : lo ≤ hi) {m : Memory} (w : Memory.wfFrom hi m = true) :
    Memory.wfFrom lo m = true := by
  cases m with
  | nil => rfl
  | cons c r =>
    obtain ⟨k, b⟩ := c
    rw [Memory.wfFrom_cons] at w ⊢
    exact ⟨h.trans w.1, w.2⟩

/-- An address below the first listed one reads 0. -/
theorem Memory.read_below {lo a : Nat} (h : a < lo) {m : Memory} (w : Memory.wfFrom lo m = true) :
    Memory.read a m = 0 := by
  induction m generalizing lo with
  | nil => rfl
  | cons c r ih =>
    obtain ⟨k, b⟩ := c
    rw [Memory.wfFrom_cons] at w
    have hk : ¬ k = a := by omega
    simp only [Memory.read, hk, if_false]
    exact ih (by omega) w.2.2.2

theorem Memory.put_wf {a : Nat} (ha : a < storeSize) (v : Byte) {lo : Nat} (hlo : lo ≤ a) {m : Memory}
    (w : Memory.wfFrom lo m = true) : Memory.wfFrom lo (Memory.put a v m) = true := by
  induction m generalizing lo with
  | nil =>
    unfold Memory.put
    by_cases hv : v = 0
    · rw [if_pos hv]; rfl
    · rw [if_neg hv, Memory.wfFrom_cons]; exact ⟨hlo, ha, hv, rfl⟩
  | cons c r ih =>
    obtain ⟨k, b⟩ := c
    rw [Memory.wfFrom_cons] at w
    unfold Memory.put
    by_cases h1 : a < k
    · by_cases hv : v = 0
      · rw [if_pos h1, if_pos hv, Memory.wfFrom_cons]; exact w
      · rw [if_pos h1, if_neg hv, Memory.wfFrom_cons, Memory.wfFrom_cons]
        exact ⟨hlo, ha, hv, by omega, w.2⟩
    · by_cases h2 : a = k
      · subst h2
        by_cases hv : v = 0
        · rw [if_neg h1, if_pos rfl, if_pos hv]; exact Memory.wfFrom_mono (by omega) w.2.2.2
        · rw [if_neg h1, if_pos rfl, if_neg hv, Memory.wfFrom_cons]; exact ⟨hlo, ha, hv, w.2.2.2⟩
      · rw [if_neg h1, if_neg h2, Memory.wfFrom_cons]
        exact ⟨w.1, w.2.1, w.2.2.1, ih (by omega) w.2.2.2⟩

/-- A write keeps the canonical form. -/
theorem Memory.write_wf (a : Nat) (v : Byte) {m : Memory} (w : Memory.wf m = true) :
    Memory.wf (Memory.write a v m) = true := by
  unfold Memory.write
  split
  · exact Memory.put_wf (by assumption) v (Nat.zero_le _) w
  · exact w

theorem Memory.filter_wf (t : Host.Cell → Bool) {lo : Nat} {m : Memory} (w : Memory.wfFrom lo m = true) :
    Memory.wfFrom lo (m.filter t) = true := by
  induction m generalizing lo with
  | nil => rfl
  | cons c r ih =>
    obtain ⟨k, b⟩ := c
    rw [Memory.wfFrom_cons] at w
    have hr := ih w.2.2.2
    by_cases h : t (k, b) = true
    · rw [List.filter_cons_of_pos h, Memory.wfFrom_cons]; exact ⟨w.1, w.2.1, w.2.2.1, hr⟩
    · rw [List.filter_cons_of_neg h]; exact Memory.wfFrom_mono (by omega) hr

/-- Clearing a range keeps the canonical form. -/
theorem Memory.clear_wf (lo n : Nat) {m : Memory} (w : Memory.wf m = true) : Memory.wf (Memory.clear lo n m) = true :=
  Memory.filter_wf _ w

theorem Memory.foldl_write_wf (g : Host.Cell → Nat × Byte) (cs : List Host.Cell) {m : Memory}
    (w : Memory.wf m = true) :
    Memory.wf (cs.foldl (fun acc c => Memory.write (g c).1 (g c).2 acc) m) = true := by
  induction cs generalizing m with
  | nil => exact w
  | cons c r ih => exact ih (Memory.write_wf _ _ w)

/-- Copying a range keeps the canonical form. -/
theorem Memory.copy_wf (src dst n : Nat) {m : Memory} (w : Memory.wf m = true) :
    Memory.wf (Memory.copy src dst n m) = true :=
  Memory.foldl_write_wf (fun c => (c.1 - src + dst, c.2)) _ (Memory.clear_wf dst n w)

theorem Memory.read_put (a v) (m : Memory) {lo : Nat} (w : Memory.wfFrom lo m = true) (x : Nat) :
    Memory.read x (Memory.put a v m) = if x = a then v else Memory.read x m := by
  induction m generalizing lo with
  | nil =>
    unfold Memory.put
    by_cases hv : v = 0
    · rw [if_pos hv]; by_cases hx : x = a <;> simp [Memory.read, hx, hv]
    · rw [if_neg hv]
      by_cases hx : x = a
      · simp [Memory.read, hx]
      · have hax : ¬ a = x := fun h => hx h.symm
        simp [Memory.read, hax, hx]
  | cons c r ih =>
    obtain ⟨k, b⟩ := c
    rw [Memory.wfFrom_cons] at w
    have hb : ∀ y, y ≤ k → Memory.read y r = 0 := fun y hy => Memory.read_below (lo := k + 1) (by omega) w.2.2.2
    unfold Memory.put
    by_cases h1 : a < k
    · by_cases hv : v = 0
      · rw [if_pos h1, if_pos hv]
        by_cases hx : x = a
        · subst hx
          have hk : ¬ k = x := by omega
          simp [Memory.read, hk, hv, hb x (by omega)]
        · rw [if_neg hx]
      · rw [if_pos h1, if_neg hv]
        by_cases hx : x = a
        · simp [Memory.read, hx]
        · have hax : ¬ a = x := fun h => hx h.symm
          simp [Memory.read, hax, hx]
    · by_cases h2 : a = k
      · subst h2
        rw [if_neg h1, if_pos rfl]
        by_cases hv : v = 0
        · rw [if_pos hv]
          by_cases hx : x = a
          · subst hx; simp [hv, hb x (le_refl x)]
          · have hax : ¬ a = x := fun h => hx h.symm
            simp [Memory.read, hax, hx]
        · rw [if_neg hv]
          by_cases hx : x = a
          · simp [Memory.read, hx]
          · have hax : ¬ a = x := fun h => hx h.symm
            simp [Memory.read, hax, hx]
      · rw [if_neg h1, if_neg h2]
        by_cases hk : k = x
        · have hxa : ¬ x = a := by omega
          simp [Memory.read, hk, hxa]
        · simp only [Memory.read, hk, if_false]
          exact ih w.2.2.2

/-- A read after a write: the byte written at its address, inside the store, and the byte before everywhere else. -/
theorem Memory.read_write (a : Nat) (v : Byte) (x : Nat) {m : Memory} (w : Memory.wf m = true) :
    Memory.read x (Memory.write a v m) = if x = a ∧ a < storeSize then v else Memory.read x m := by
  unfold Memory.write
  by_cases h : a < storeSize
  · rw [if_pos h, Memory.read_put a v m w x]
    by_cases hx : x = a <;> simp [hx, h]
  · rw [if_neg h, if_neg (fun q => h q.2)]

theorem Memory.read_filter (t : Nat → Bool) (x : Nat) (m : Memory) :
    Memory.read x (m.filter (fun c => t c.1)) = if t x then Memory.read x m else 0 := by
  induction m with
  | nil => simp [Memory.read]
  | cons c r ih =>
    obtain ⟨k, b⟩ := c
    by_cases hk : k = x
    · subst hk
      cases h : t k
      · rw [List.filter_cons_of_neg (by simp [h]), ih]; simp [h]
      · rw [List.filter_cons_of_pos (by simp [h])]; simp [Memory.read]
    · cases h : t k
      · rw [List.filter_cons_of_neg (by simp [h]), ih]; simp [Memory.read, hk]
      · rw [List.filter_cons_of_pos (by simp [h])]; simp [Memory.read, hk, ih]

/-- A read after a range is cleared. -/
theorem Memory.read_clear (lo n x : Nat) (m : Memory) :
    Memory.read x (Memory.clear lo n m) = if lo ≤ x ∧ x < lo + n then 0 else Memory.read x m := by
  unfold Memory.clear
  rw [Memory.read_filter (fun a => !inRange lo n a) x m]
  by_cases h1 : lo ≤ x <;> by_cases h2 : x < lo + n <;> simp [inRange, h1, h2]

@[simp] theorem Memory.length_slice (a n : Nat) (m : Memory) : (Memory.slice a n m).length = n := by
  simp [Memory.slice]

end Sys2Proof.Machine
end

