-- ==== Sys2Proof/Laws/Mixer.lean ====
section
/-! SUPPORT. What a start of a voice comes to in each decision of the arbiter (R130), and what the end of a loop does to a
clip voice (R133). -/

namespace Sys2Proof.Machine

theorem Mixer.fillVoice_setVoice (x : Mixer) (i : VoiceId) (a v : Voice) :
    (x.setVoice i a).fillVoice i v = x.fillVoice i v := by
  have h : ∀ (t : Four Voice) (b : Voice), (t.set i a).set i b = t.set i b := by intro t b; cases i <;> rfl
  simp [Mixer.fillVoice, Mixer.setVoice, h]

theorem Mixer.pick_mem (x : Mixer) {vs : List VoiceId} {k : VoiceId} (h : x.pick vs = some k) : k ∈ vs := by
  induction vs generalizing k with
  | nil => simp [Mixer.pick] at h
  | cons a vs ih =>
    unfold Mixer.pick at h
    split at h
    · simp at h; simp [h]
    · rename_i j hj
      split at h <;> simp at h <;> subst h <;> simp [ih hj]

/-- A voice the arbiter steals is playing. -/
theorem Mixer.arbiter_steal_playing {x : Mixer} {power : PowerState} {priority : Nat} {i : VoiceId}
    (h : x.arbiter power priority = .steal i) : (x.voices.get i).playing = true := by
  unfold Mixer.arbiter at h
  simp only at h
  split at h
  · simp at h
  · rename_i hf
    split at h
    · simp at h
    · rename_i k hk
      split at h <;> simp at h
      subst h
      simpa using List.find?_eq_none.mp hf k (x.pick_mem hk)

theorem Mixer.start_free {x : Mixer} {power : PowerState} {time : Word32} {v : Voice} {i : VoiceId}
    (h : x.arbiter power v.priority = .free i) :
    x.start power time v = (x.fillVoice i v, [], some { voice := i, stolen := none }) := by
  simp only [Mixer.start, h]

theorem Mixer.start_steal {x : Mixer} {power : PowerState} {time : Word32} {v : Voice} {i : VoiceId}
    (h : x.arbiter power v.priority = .steal i) :
    x.start power time v =
      (x.fillVoice i v, voiceEndNotice time i (x.voices.get i) .stolen,
        some { voice := i, stolen := some (x.voices.get i).origin }) := by
  simp only [Mixer.start, h, Mixer.endVoice, Mixer.arbiter_steal_playing h, if_true, Mixer.fillVoice_setVoice]

theorem Mixer.start_refused {x : Mixer} {power : PowerState} {time : Word32} {v : Voice}
    (h : x.arbiter power v.priority = .refused) : x.start power time v = (x, [], none) := by
  simp only [Mixer.start, h]

theorem Mixer.endVoice_playing (time : Word32) (o : VoiceOutcome) {i : VoiceId} {x : Mixer}
    (h : (x.voices.get i).playing = true) :
    x.endVoice time o i = (x.setVoice i (x.voices.get i).freed, voiceEndNotice time i (x.voices.get i) o) := by
  simp only [Mixer.endVoice, h, if_true]

theorem Mixer.endVoice_free (time : Word32) (o : VoiceOutcome) {i : VoiceId} {x : Mixer}
    (h : (x.voices.get i).playing = false) : x.endVoice time o i = (x, []) := by
  simp [Mixer.endVoice, h]

/-- Voices named once each that end one after another each end by themselves. -/
theorem Mixer.endVoices_spec (time : Word32) (o : VoiceOutcome) (is : List VoiceId) (x : Mixer) (hn : is.Nodup) :
    (x.endVoices time o is).1 = { x with voices := (x.endVoices time o is).1.voices } ∧
      (∀ j, (x.endVoices time o is).1.voices.get j =
        if j ∈ is ∧ (x.voices.get j).playing = true then (x.voices.get j).freed else x.voices.get j) ∧
      (x.endVoices time o is).2 = is.flatMap (fun j =>
        if (x.voices.get j).playing then voiceEndNotice time j (x.voices.get j) o else []) := by
  induction is generalizing x with
  | nil => simp [Mixer.endVoices]
  | cons i is ih =>
    simp only [List.nodup_cons] at hn
    obtain ⟨hv, he, hs⟩ : (∀ j, (x.endVoice time o i).1.voices.get j =
          if j = i ∧ (x.voices.get i).playing = true then (x.voices.get i).freed else x.voices.get j) ∧
        (x.endVoice time o i).1 = { x with voices := (x.endVoice time o i).1.voices } ∧
        (x.endVoice time o i).2 =
          if (x.voices.get i).playing then voiceEndNotice time i (x.voices.get i) o else [] := by
      cases hp : (x.voices.get i).playing
      · simp [Mixer.endVoice_free time o hp]
      · simp [Mixer.endVoice_playing time o hp, Mixer.setVoice, Four.get_set]
    obtain ⟨a, b, c⟩ := ih (x.endVoice time o i).1 hn.2
    refine ⟨?_, fun j => ?_, ?_⟩
    · simp only [Mixer.endVoices]; rw [a, he]
    · simp only [Mixer.endVoices, b j, hv j, List.mem_cons]
      by_cases hj : j = i
      · subst hj; simp [hn.1]
      · simp [hj]
    · simp only [Mixer.endVoices, c, List.flatMap_cons]
      rw [hs]
      congr 1
      apply List.flatMap_congr
      intro j hj
      have : j ≠ i := fun h => hn.1 (h ▸ hj)
      rw [hv j]; simp [this]

/-- What PLAY comes to once its fields pass and its region plays (R131). -/
theorem Mixer.play_started {f : SoundFeed} {st : Store} {l : Link} {fs : Fields} {x : Mixer} {y : Layout}
    (hp : f.power ≠ .critical) (hb : (PlayFields.read fs).bad = [])
    (hy : st.playable ((PlayFields.read fs).region.get?.getD 0) = .ok y) (o : StartOptions)
    (ho : o = { volume := (PlayFields.read fs).volume.get?.getD 255,
                priority := (PlayFields.read fs).priority.get?.getD 0,
                free := (PlayFields.read fs).free.get?.getD false,
                notify := (PlayFields.read fs).notify.get?.getD true, origin := linkOrigin l }) (pitch : Nat)
    (hq : (PlayFields.read fs).pitch.get?.getD 1000 = pitch) :
    x.play f st l fs =
      (match x.start f.power f.time
          (clipVoice f.paused ((PlayFields.read fs).region.get?.getD 0) y (keptPitch pitch)
            ((PlayFields.read fs).loopCount.get?.getD 1) o) with
        | (x1, ns, some s) =>
          { mixer := x1, sent := ns,
            reply := if keptPitch pitch = pitch then .plain .ok (fieldNat 2 1 s.voice.num ++ stolenField 3 s)
              else .clamped [4] (fieldNat 1 2 (keptPitch pitch) ++ (fieldNat 2 1 s.voice.num ++ stolenField 3 s)) }
        | (_, _, none) => MixerAnswer.none x (Reply.refuse .noVoice)) := by
  subst ho hq
  simp only [Mixer.play, hp, hb, if_false, ne_eq, not_true_eq_false, Mixer.startClip, hy]
  generalize x.start _ _ _ = z
  obtain ⟨x1, ns, z⟩ := z
  cases z <;> rfl

/-- What PLAY_TONE comes to once its fields pass (R132). -/
theorem Mixer.playTone_started {f : SoundFeed} {l : Link} {fs : Fields} {x : Mixer}
    (hp : f.power ≠ .critical) (hb : (ToneFields.read fs).bad = []) (o : StartOptions)
    (ho : o = { volume := (ToneFields.read fs).volume.get?.getD 255,
                priority := (ToneFields.read fs).priority.get?.getD 0,
                free := (ToneFields.read fs).free.get?.getD false,
                notify := (ToneFields.read fs).notify.get?.getD true, origin := linkOrigin l }) :
    x.playTone f l fs =
      (match x.start f.power f.time
          (toneVoice f.paused ((ToneFields.read fs).freq.get?.getD 50) ((ToneFields.read fs).duration.get?.getD 1) o) with
        | (x1, ns, some s) =>
          { mixer := x1, sent := ns, reply := .plain .ok (fieldNat 1 1 s.voice.num ++ stolenField 2 s) }
        | (_, _, none) => MixerAnswer.none x (Reply.refuse .noVoice)) := by
  subst ho
  simp only [Mixer.playTone, hp, hb, if_false, ne_eq, not_true_eq_false]
  all_goals rfl

/-! ### A clip voice at the end of its loop (R133) -/

/-- Before the end of the loop nothing happens. -/
theorem Voice.wrapLoop_inside {y : Layout} {v : Voice} (n : Nat) (h : v.index < y.head + y.loop) :
    Voice.wrapLoop y n v = v := by
  cases n with
  | zero => rfl
  | succ n => simp [Voice.wrapLoop, Nat.not_le.mpr h]

/-- The last pass runs on into the tail. -/
theorem Voice.wrapLoop_last {y : Layout} {v : Voice} (n : Nat) (h : y.head + y.loop ≤ v.index)
    (hl : v.release = true ∨ (v.loopCount ≠ 0 ∧ min 255 (v.passes + 1) = v.loopCount)) :
    Voice.wrapLoop y (n + 1) v = { v with passes := min 255 (v.passes + 1), state := .tail } := by
  have : (v.release || (v.loopCount != 0 && min 255 (v.passes + 1) == v.loopCount)) = true := by simpa using hl
  simp only [Voice.wrapLoop, h, if_true, this]

/-- Any other pass wraps to the loop start. -/
theorem Voice.wrapLoop_once {y : Layout} {v : Voice} (n : Nat) (h : y.head + y.loop ≤ v.index)
    (hl : ¬ (v.release = true ∨ (v.loopCount ≠ 0 ∧ min 255 (v.passes + 1) = v.loopCount))) :
    Voice.wrapLoop y (n + 1) v = Voice.wrapLoop y n
      { v with passes := min 255 (v.passes + 1), loopCopy := y.loopStart, pos := v.pos - (y.loop - y.loopStart) * 65536,
               covered := v.covered ++ [(v.pathMark, y.head + y.loop - 1)], pathMark := y.head + y.loopStart } := by
  have : (v.release || (v.loopCount != 0 && min 255 (v.passes + 1) == v.loopCount)) = false := by
    cases hr : v.release <;> simp_all
  simp only [Voice.wrapLoop, h, if_true, this, Bool.false_eq_true, if_false]

/-- What the loop, the head and the whole check of an advance leave of a voice. -/
theorem Voice.wrapLoop_frame (y : Layout) (n : Nat) (v : Voice) :
    let w := Voice.wrapLoop y n v
    w.step = v.step ∧ w.volume = v.volume ∧ w.release = v.release ∧ w.loopCount = v.loopCount ∧ w.source = v.source ∧
      w.origin = v.origin ∧ w.notify = v.notify := by
  induction n generalizing v with
  | zero => simp [Voice.wrapLoop]
  | succ n ih =>
    simp only [Voice.wrapLoop]
    split
    · split
      · simp
      · simpa using ih _
    · simp

theorem Voice.leaveHead_frame (y : Layout) (v : Voice) :
    let w := v.leaveHead y
    w.step = v.step ∧ w.volume = v.volume ∧ w.release = v.release ∧ w.loopCount = v.loopCount ∧ w.source = v.source ∧
      w.origin = v.origin ∧ w.notify = v.notify := by
  unfold Voice.leaveHead
  split <;> (try split) <;> (try split) <;> simp

theorem Voice.afterAdvance_frame (y : Layout) (v : Voice) :
    let w := v.afterAdvance y
    w.step = v.step ∧ w.volume = v.volume ∧ w.release = v.release ∧ w.loopCount = v.loopCount ∧ w.source = v.source ∧
      w.origin = v.origin ∧ w.notify = v.notify := by
  have h := Voice.leaveHead_frame y v
  have h2 := Voice.wrapLoop_frame y ((v.leaveHead y).index + 1) (v.leaveHead y)
  unfold Voice.afterAdvance
  simp only at h h2 ⊢
  split <;> split <;> simp [Voice.freed, h, h2]

end Sys2Proof.Machine
end

