-- ==== Sys2Proof/Laws/Motors.lean ====
section
/-! SUPPORT. The motor requests: what `Motors.changing` comes to in each of its cases (R9), and in the whole
part; what taking the ports of CLAIM and RELEASE one by one comes to. -/

namespace Sys2Proof.Machine

/-- R9: no motor. -/
theorem Motors.changing_noMotor {m : Motors} {l : Link} {p : MotorPort} {act : Channel → Change}
    (h : (m.ch.get p).kind = .none) : m.changing true l p act = MotorAnswer.none m (Reply.refuse .noMotor) := by
  simp [Motors.changing, h]

/-- R9: the port is held by the other link. -/
theorem Motors.changing_held {b : Bool} {m : Motors} {l : Link} {p : MotorPort} {act : Channel → Change}
    (hk : b = false ∨ (m.ch.get p).kind ≠ .none) (h : (m.ch.get p).holder = some l.other) :
    m.changing b l p act = MotorAnswer.none m (Reply.refuse .held) := by
  have : (b && (m.ch.get p).kind == .none) = false := by
    rcases hk with h | h <;> simp [h]
  simp [Motors.changing, this, h]

/-- R9: a request that its own checks refuse leaves the motors as they are. -/
theorem Motors.changing_refused {b : Bool} {m : Motors} {l : Link} {p : MotorPort} {act : Channel → Change}
    (hk : b = false ∨ (m.ch.get p).kind ≠ .none) (h : (m.ch.get p).holder ≠ some l.other) {y : Reply}
    (hy : act (m.ch.get p) = Change.none (m.ch.get p) y) (ha : y.accepted = false) :
    m.changing b l p act = MotorAnswer.none m y := by
  have : (b && (m.ch.get p).kind == .none) = false := by
    rcases hk with h | h <;> simp [h]
  simp [Motors.changing, this, h, hy, Change.none, ha]

/-- R9: an accepted request writes its channel, the requester holding it. -/
theorem Motors.changing_accepted {b : Bool} {m : Motors} {l : Link} {p : MotorPort} {act : Channel → Change}
    (hk : b = false ∨ (m.ch.get p).kind ≠ .none) (h : (m.ch.get p).holder ≠ some l.other) {x : Change}
    (hx : act (m.ch.get p) = x) (ha : x.reply.accepted = true) :
    m.changing b l p act =
      { motors := ((m.setCh p (x.ch.claimedBy l)).conclude (if x.flushed then [p] else [])).1,
        sent := x.sent ++ ((m.setCh p (x.ch.claimedBy l)).conclude (if x.flushed then [p] else [])).2,
        reply := x.reply } := by
  have : (b && (m.ch.get p).kind == .none) = false := by
    rcases hk with h | h <;> simp [h]
  simp [Motors.changing, this, h, hx, ha]

/-- A motor request without an effect. -/
theorem State.motorOutcome_none {s : State} {m : Motors} (h : s.motors = m) (y : Reply) :
    s.motorOutcome (MotorAnswer.none m y) = (s, y) := by
  subst h; rfl

theorem Motors.onPort_val {v : Val MotorPort} {p : MotorPort} (h : v = .val p) (o : List Check)
    (act : MotorPort → MotorAnswer) (m : Motors) : m.onPort v o act = act p := by
  subst h; rfl

/-- A motor request in the part, refused. -/
theorem finish_motor_refused {s : State} {c : Byte} {r : Req} {a : MotorAnswer} {y : Reply}
    (h : a = MotorAnswer.none s.motors y) :
    State.finish c r (answered ((s.entered c r).motorOutcome a)) = (s.entered c r).replied c r y := by
  subst h
  rw [State.motorOutcome_none (State.entered_motors s c r)]; rfl

/-- A motor request in the part, accepted. -/
theorem finish_motor_changed {s : State} {c : Byte} {r : Req} {p : MotorPort} {d : Channel} {sent : List Sent}
    {ps : List MotorPort} {y : Reply} {a : MotorAnswer}
    (h : a = { motors := ((s.motors.setCh p d).conclude ps).1, sent := sent ++ ((s.motors.setCh p d).conclude ps).2,
               reply := y }) :
    State.finish c r (answered ((s.entered c r).motorOutcome a)) = s.changed c r p d sent ps y := by
  subst h; rfl

/-- R10, R12: ports taken one by one, none listed twice: every port is the one its own step gives, in its own state
before the request, and nothing else changes. -/
theorem Motors.takePorts_of_nodup (f : MotorPort → Channel → Channel × List Sent × PortOutcome) {ps : List MotorPort}
    (m : Motors) (hn : ps.Nodup) :
    (Motors.takePorts f ps m).2.1 = ps.flatMap (fun q => (f q (m.ch.get q)).2.1) ∧
      (Motors.takePorts f ps m).2.2 = ps.map (fun q => (q, (f q (m.ch.get q)).2.2)) ∧
      (Motors.takePorts f ps m).1.pause = m.pause ∧ (Motors.takePorts f ps m).1.groups = m.groups ∧
      ∀ q, (Motors.takePorts f ps m).1.ch.get q = if q ∈ ps then (f q (m.ch.get q)).1 else m.ch.get q := by
  induction ps generalizing m with
  | nil => simp [Motors.takePorts]
  | cons p ps ih =>
    obtain ⟨h1, h2⟩ := List.nodup_cons.mp hn
    obtain ⟨e1, e2, e3, e4, e5⟩ := ih (m.setCh p (f p (m.ch.get p)).1) h2
    have hne : ∀ q ∈ ps, q ≠ p := fun q hq e => h1 (e ▸ hq)
    refine ⟨?_, ?_, e3, e4, ?_⟩
    · show _ ++ _ = _
      rw [e1, List.flatMap_cons]
      congr 1
      rw [List.flatMap_def, List.flatMap_def]
      congr 1
      exact List.map_congr_left (fun q hq => by simp [hne q hq])
    · show _ :: _ = _
      rw [e2, List.map_cons]
      congr 1
      exact List.map_congr_left (fun q hq => by simp [hne q hq])
    · intro q
      show (Motors.takePorts f ps _).1.ch.get q = _
      rw [e5]
      by_cases hq : q = p
      · subst hq; simp [h1]
      · simp [hq]

/-- The ports in a set of a reply. -/
theorem mem_portsWith {os : List PortOutcome} {xs : List (MotorPort × PortOutcome)} {p : MotorPort} :
    p ∈ portsWith os xs ↔ ∃ o ∈ os, (p, o) ∈ xs := by
  simp only [portsWith, portSet, List.mem_filter, List.contains_iff_mem, List.mem_map, Prod.exists, exists_and_right,
    exists_eq_right]
  constructor
  · rintro ⟨_, o, h, h'⟩; exact ⟨o, h', h⟩
  · rintro ⟨o, h, h'⟩; exact ⟨by cases p <;> decide, o, h', h⟩

end Sys2Proof.Machine
end

