-- ==== Sys2Proof/Laws/PerInstr.lean ====
section
/-! SUPPORT. Per-instruction laws: no word spells a command, since the opcode table gives no row any bits. -/

namespace Sys2Proof.Laws.NoWordSpells

/-- No word of any length spells the command. -/
def Statement (i : Instr) : Prop := ∀ nbits w : Nat, decodeTableWord nbits w ≠ some i

/-- No word spells any command. -/
theorem nothing (i : Instr) : Statement i := fun _ _ h => nomatch h

theorem ident (r : Req) : Statement (.ident r) := nothing _
theorem setTag (r : Req) : Statement (.setTag r) := nothing _
theorem reset (r : Req) : Statement (.reset r) := nothing _
theorem sleep (r : Req) : Statement (.sleep r) := nothing _
theorem pause (r : Req) : Statement (.pause r) := nothing _
theorem resume (r : Req) : Statement (.resume r) := nothing _
theorem stepSegment (r : Req) : Statement (.stepSegment r) := nothing _
theorem powerStatus (r : Req) : Statement (.powerStatus r) := nothing _
theorem setBudget (r : Req) : Statement (.setBudget r) := nothing _
theorem claim (r : Req) : Statement (.claim r) := nothing _
theorem release (r : Req) : Statement (.release r) := nothing _
theorem queueSegment (r : Req) : Statement (.queueSegment r) := nothing _
theorem flush (r : Req) : Statement (.flush r) := nothing _
theorem setGains (r : Req) : Statement (.setGains r) := nothing _
theorem setPolicy (r : Req) : Statement (.setPolicy r) := nothing _
theorem zeroCount (r : Req) : Statement (.zeroCount r) := nothing _
theorem motorStatus (r : Req) : Statement (.motorStatus r) := nothing _
theorem clearFault (r : Req) : Statement (.clearFault r) := nothing _
theorem stopNow (r : Req) : Statement (.stopNow r) := nothing _
theorem sensorStatus (r : Req) : Statement (.sensorStatus r) := nothing _
theorem selectMode (r : Req) : Statement (.selectMode r) := nothing _
theorem readSamples (r : Req) : Statement (.readSamples r) := nothing _
theorem streamOpen (r : Req) : Statement (.streamOpen r) := nothing _
theorem streamClose (r : Req) : Statement (.streamClose r) := nothing _
theorem captureStart (r : Req) : Statement (.captureStart r) := nothing _
theorem captureStop (r : Req) : Statement (.captureStop r) := nothing _
theorem bankRestore (r : Req) : Statement (.bankRestore r) := nothing _
theorem watchSet (r : Req) : Statement (.watchSet r) := nothing _
theorem watchClear (r : Req) : Statement (.watchClear r) := nothing _
theorem watchRearm (r : Req) : Statement (.watchRearm r) := nothing _
theorem watchStatus (r : Req) : Statement (.watchStatus r) := nothing _
theorem setVirtual (r : Req) : Statement (.setVirtual r) := nothing _
theorem watchEnable (r : Req) : Statement (.watchEnable r) := nothing _
theorem defineRegion (r : Req) : Statement (.defineRegion r) := nothing _
theorem deleteRegion (r : Req) : Statement (.deleteRegion r) := nothing _
theorem setClip (r : Req) : Statement (.setClip r) := nothing _
theorem writeStart (r : Req) : Statement (.writeStart r) := nothing _
theorem writeData (r : Req) : Statement (.writeData r) := nothing _
theorem writeEnd (r : Req) : Statement (.writeEnd r) := nothing _
theorem readRegion (r : Req) : Statement (.readRegion r) := nothing _
theorem compact (r : Req) : Statement (.compact r) := nothing _
theorem play (r : Req) : Statement (.play r) := nothing _
theorem playTone (r : Req) : Statement (.playTone r) := nothing _
theorem releaseVoice (r : Req) : Statement (.releaseVoice r) := nothing _
theorem stopVoice (r : Req) : Statement (.stopVoice r) := nothing _
theorem setVolume (r : Req) : Statement (.setVolume r) := nothing _
theorem setLoopStart (r : Req) : Statement (.setLoopStart r) := nothing _
theorem soundStatus (r : Req) : Statement (.soundStatus r) := nothing _
theorem setWindow (r : Req) : Statement (.setWindow r) := nothing _
theorem setForward (r : Req) : Statement (.setForward r) := nothing _
theorem routeStatus (r : Req) : Statement (.routeStatus r) := nothing _
theorem remotePolicy (r : Req) : Statement (.remotePolicy r) := nothing _
theorem forwardFrame (l : Link) (f : Frame) : Statement (.forwardFrame l f) := nothing _
theorem forwardedReply (l : Link) (channel tag : Byte) (payload : List Byte) : Statement (.forwardedReply l channel tag payload) := nothing _
theorem inboundNotice (l : Link) (channel tag : Byte) (payload : List Byte) : Statement (.inboundNotice l channel tag payload) := nothing _
theorem systemFrameDenied (c : ReqClass) (channel tag : Byte) (payload : List Byte) : Statement (.systemFrameDenied c channel tag payload) := nothing _
theorem unknownChannel (l : Link) (c : ReqClass) (channel tag : Byte) (payload : List Byte) : Statement (.unknownChannel l c channel tag payload) := nothing _
theorem readyLowDrop (l : Link) (f : Frame) : Statement (.readyLowDrop l f) := nothing _
theorem checkMismatch (l : Link) (bytes : List Byte) : Statement (.checkMismatch l bytes) := nothing _
theorem receiverTimeout (l : Link) : Statement (.receiverTimeout l) := nothing _
theorem transmitFrame (l : Link) (farReady : Bool) : Statement (.transmitFrame l farReady) := nothing _
theorem forwardAgeLimit (l : Link) : Statement (.forwardAgeLimit l) := nothing _
theorem forwardWaitExpiry (origin : Link) : Statement (.forwardWaitExpiry origin) := nothing _
theorem linkedRise : Statement (.linkedRise) := nothing _
theorem linkedFall : Statement (.linkedFall) := nothing _
theorem remoteBreak : Statement (.remoteBreak) := nothing _
theorem linkReset : Statement (.linkReset) := nothing _
theorem wake (mv : Nat) : Statement (.wake mv) := nothing _
theorem powerOn (mv : Nat) (linked : Bool) : Statement (.powerOn mv linked) := nothing _
theorem softReset (mv : Nat) : Statement (.softReset mv) := nothing _
theorem resetTimeout (mv : Nat) : Statement (.resetTimeout mv) := nothing _
theorem sleepEntry : Statement (.sleepEntry) := nothing _
theorem sleepTimeout : Statement (.sleepTimeout) := nothing _
theorem identNoticeDue : Statement (.identNoticeDue) := nothing _
theorem bankRPowerUp : Statement (.bankRPowerUp) := nothing _
theorem controlExpiry (r : Six MotorReading) : Statement (.controlExpiry r) := nothing _
theorem durationEnd (p : MotorPort) : Statement (.durationEnd p) := nothing _
theorem segmentSettled (p : MotorPort) : Statement (.segmentSettled p) := nothing _
theorem settleLimitReached (p : MotorPort) : Statement (.settleLimitReached p) := nothing _
theorem stall (p : MotorPort) : Statement (.stall p) := nothing _
theorem overcurrentFault (p : MotorPort) : Statement (.overcurrentFault p) := nothing _
theorem motorIdSample (c : Six MotorIdClass) : Statement (.motorIdSample c) := nothing _
theorem bankCurrentMeasure (b : BankId) (mA : Nat) : Statement (.bankCurrentMeasure b mA) := nothing _
theorem bankTrip (b : BankId) : Statement (.bankTrip b) := nothing _
theorem retryEnd (b : BankId) : Statement (.retryEnd b) := nothing _
theorem cleanTimeReached (b : BankId) : Statement (.cleanTimeReached b) := nothing _
theorem portIdMeasure (p : SensorPort) (c : IdClass) : Statement (.portIdMeasure p c) := nothing _
theorem passiveSample (p : SensorPort) (v : Int) : Statement (.passiveSample p v) := nothing _
theorem describeRecord (p : SensorPort) (kind modeCount speed : Nat) : Statement (.describeRecord p kind modeCount speed) := nothing _
theorem modeRecord (p : SensorPort) (m : ModeDesc) : Statement (.modeRecord p m) := nothing _
theorem endRecord (p : SensorPort) : Statement (.endRecord p) := nothing _
theorem acceptSent (p : SensorPort) : Statement (.acceptSent p) := nothing _
theorem handshakeTimeout (p : SensorPort) : Statement (.handshakeTimeout p) := nothing _
theorem dataRecord (p : SensorPort) (mode : Nat) (values : List Int) : Statement (.dataRecord p mode values) := nothing _
theorem silenceTimeout (p : SensorPort) : Statement (.silenceTimeout p) := nothing _
theorem errorTimeEnd (p : SensorPort) : Statement (.errorTimeEnd p) := nothing _
theorem streamExpiry (i : StreamId) : Statement (.streamExpiry i) := nothing _
theorem watchScan : Statement (.watchScan) := nothing _
theorem watchFire (i : WatchId) (v : Int) : Statement (.watchFire i v) := nothing _
theorem compactRegionCopied : Statement (.compactRegionCopied) := nothing _
theorem compactComplete : Statement (.compactComplete) := nothing _
theorem outputEvent : Statement (.outputEvent) := nothing _
theorem toneEnd (v : VoiceId) : Statement (.toneEnd v) := nothing _
theorem volumeRampStep : Statement (.volumeRampStep) := nothing _
theorem supplyUpdate (mv : Nat) : Statement (.supplyUpdate mv) := nothing _
theorem powerStateChange : Statement (.powerStateChange) := nothing _
theorem badStopBit (l : Link) (bytes : List Byte) : Statement (.badStopBit l bytes) := nothing _
theorem headerFieldOutOfRange (l : Link) (bytes : List Byte) : Statement (.headerFieldOutOfRange l bytes) := nothing _
theorem malformedRecord (p : SensorPort) : Statement (.malformedRecord p) := nothing _

end Sys2Proof.Laws.NoWordSpells
end

