-- ==== Sys2Proof/Laws/Receiver.lean ====
section
/-! SUPPORT. The receiver over several bytes (R170): the header, the payload and the check of a frame. -/

namespace Sys2Proof.Machine

@[simp] theorem State.setRx_setRx (s : State) (l : Link) (x y : Receiver) : (s.setRx l x).setRx l y = s.setRx l y := by
  cases l <;> rfl

@[simp] theorem State.rx_setRx (s : State) (l : Link) (x : Receiver) : (s.setRx l x).rx l = x := by
  cases l <;> rfl

theorem State.setRx_self (s : State) (l : Link) : s.setRx l (s.rx l) = s := by
  cases l <;> rfl

/-- A byte that completes no frame moves the receiver only. -/
theorem receiveByte_quiet {x y : Receiver} {b : Byte} (h : x.byte b = (y, none)) (s : State) (l : Link) :
    State.receiveByte l (s.setRx l x) b = s.setRx l y := by
  simp [State.receiveByte, h]

/-- The last byte of a frame hands it to the router. -/
theorem receiveByte_done {x y : Receiver} {b : Byte} {f : Frame} (h : x.byte b = (y, some f)) (s : State) (l : Link) :
    State.receiveByte l (s.setRx l x) b = (s.setRx l y).takeAny l f := by
  simp [State.receiveByte, h]

/-- The receiver in CHECK with the header and payload of a frame kept. -/
def Receiver.checking (kept : List Byte) : Receiver := { phase := .check, kept := kept, idle := 0 }

/-- The payload bytes carry a receiver in PAYLOAD to CHECK. -/
theorem receive_payload (s : State) (l : Link) (n : Byte) (h3 rest : List Byte) (hh : h3.length = 3) :
    ∀ p : List Byte, rest ≠ [] → p.length + rest.length = n.toNat →
      rest.foldl (State.receiveByte l) (s.setRx l { phase := .payload, kept := n :: (h3 ++ p), idle := 0 }) =
        s.setRx l (Receiver.checking (n :: (h3 ++ (p ++ rest)))) := by
  induction rest with
  | nil => intro p h; exact absurd rfl h
  | cons b bs ih =>
    intro p _ hl
    simp only [List.length_cons] at hl
    rw [List.foldl_cons]
    cases bs with
    | nil =>
      rw [receiveByte_quiet (y := Receiver.checking (n :: (h3 ++ (p ++ [b]))))]
      · rfl
      · simp only [List.length_nil] at hl
        have h : ¬ (n :: (h3 ++ p)).length + 1 < 4 +
            Receiver.length { phase := .payload, kept := n :: (h3 ++ p), idle := 0 } := by
          simp [Receiver.length, hh]; omega
        show (Receiver.keep _ b (if _ then _ else _), none) = _
        rw [if_neg h]
        simp [Receiver.keep, Receiver.checking]
    | cons c cs =>
      rw [receiveByte_quiet (y := { phase := .payload, kept := n :: (h3 ++ (p ++ [b])), idle := 0 })]
      · rw [ih (p ++ [b]) (by simp) (by simp at hl ⊢; omega)]
        simp
      · simp only [List.length_cons] at hl
        have h : (n :: (h3 ++ p)).length + 1 < 4 +
            Receiver.length { phase := .payload, kept := n :: (h3 ++ p), idle := 0 } := by
          simp [Receiver.length, hh]; omega
        show (Receiver.keep _ b (if _ then _ else _), none) = _
        rw [if_pos h]
        simp [Receiver.keep]

/-- The start marker, header and payload of a frame carry a receiver from HUNT to CHECK. -/
theorem receive_toCheck (s : State) (l : Link) (f : Frame) (hr : s.rx l = Receiver.hunting)
    (hl : f.payload.length ≤ 240) :
    ((0x5C : Byte) :: checkedBytes f).foldl (State.receiveByte l) s =
      s.setRx l (Receiver.checking (checkedBytes f)) := by
  have hn : (byte f.payload.length).toNat = f.payload.length := by
    simp [byte]; omega
  have hc : (byte (classCode f.cls)).toNat ≤ 3 := by cases f.cls <;> decide
  obtain ⟨cls, ch, tag, p⟩ := f
  simp only at hl hn hc
  rw [show s = s.setRx l Receiver.hunting from by rw [← hr, State.setRx_self]]
  simp only [checkedBytes, List.foldl_cons]
  rw [receiveByte_quiet (y := { phase := .header, kept := [], idle := 0 }) (by rfl)]
  rw [receiveByte_quiet (y := { phase := .header, kept := [byte p.length], idle := 0 })
    (by
      have : ¬ 240 < (byte p.length).toNat := by omega
      simp [Receiver.byte, Receiver.headerByte, this, Receiver.keep])]
  rw [receiveByte_quiet (y := { phase := .header, kept := [byte p.length, byte (classCode cls)], idle := 0 })
    (by
      have : ¬ 3 < (byte (classCode cls)).toNat := by omega
      simp [Receiver.byte, Receiver.headerByte, this, Receiver.keep])]
  rw [receiveByte_quiet (y := { phase := .header, kept := [byte p.length, byte (classCode cls), ch], idle := 0 })
    (by simp [Receiver.byte, Receiver.headerByte, Receiver.keep])]
  cases p with
  | nil =>
    rw [receiveByte_quiet (y := Receiver.checking [byte 0, byte (classCode cls), ch, tag])
      (by rfl)]
    simp
  | cons b bs =>
    have h0 : (byte (b :: bs).length).toNat ≠ 0 := by rw [hn]; simp
    rw [receiveByte_quiet
      (y := { phase := .payload, kept := byte (b :: bs).length :: ([byte (classCode cls), ch, tag] ++ []), idle := 0 })
      (by
        have h1 : Receiver.length { phase := .header, kept := [byte (b :: bs).length, byte (classCode cls), ch], idle := 0 } ≠ 0 :=
          h0
        show (Receiver.keep _ tag (if _ = 0 then _ else _), none) = _
        rw [if_neg h1]
        rfl)]
    rw [receive_payload _ _ _ _ (b :: bs) (by rfl) [] (by simp) (by simp only [List.length_nil]; rw [hn]; simp)]
    simp

/-- The two check bytes hand the frame over, or drop it when they do not match. -/
theorem receive_check (s : State) (l : Link) (f : Frame) (hl : f.payload.length ≤ 240) (a b : Byte) :
    [a, b].foldl (State.receiveByte l) (s.setRx l (Receiver.checking (checkedBytes f))) =
      (match frameOf (checkedBytes f ++ [a, b]) with
        | none => s.setRx l Receiver.hunting
        | some g => (s.setRx l Receiver.hunting).takeAny l g) := by
  have hn : (byte f.payload.length).toNat = f.payload.length := by
    simp [byte]; omega
  simp only [List.foldl_cons, List.foldl_nil]
  have hk : (checkedBytes f).length = 4 + f.payload.length := by simp [checkedBytes]; omega
  rw [receiveByte_quiet (y := Receiver.checking (checkedBytes f ++ [a]))]
  · have h2 : (Receiver.checking (checkedBytes f ++ [a])).byte b =
        (Receiver.hunting, frameOf (checkedBytes f ++ [a, b])) := by
      have : ¬ (checkedBytes f ++ [a]).length + 1 < 6 + (Receiver.checking (checkedBytes f ++ [a])).length := by
        rw [show (Receiver.checking (checkedBytes f ++ [a])).length = (byte f.payload.length).toNat from rfl,
          List.length_append, hk, hn]
        simp; omega
      show (if (checkedBytes f ++ [a]).length + 1 < 6 + (Receiver.checking (checkedBytes f ++ [a])).length then _ else _) = _
      rw [if_neg this]
      simp [Receiver.checking]
    cases hf : frameOf (checkedBytes f ++ [a, b]) with
    | none => exact receiveByte_quiet (by rw [h2, hf]) s l
    | some g => exact receiveByte_done (by rw [h2, hf]) s l
  · have : (checkedBytes f).length + 1 < 6 + (Receiver.checking (checkedBytes f)).length := by
      rw [show (Receiver.checking (checkedBytes f)).length = (byte f.payload.length).toNat from rfl, hk, hn]; omega
    show (if (checkedBytes f).length + 1 < 6 + (Receiver.checking (checkedBytes f)).length then _ else _) = _
    rw [if_pos this]
    rfl

/-- A frame's bytes with a check give the frame back exactly when the check is its own. -/
theorem frameOf_checkedBytes (f : Frame) (hl : f.payload.length ≤ 240) (a b : Byte) :
    frameOf (checkedBytes f ++ [a, b]) =
      if leNat [a, b] = (crc16 (checkedBytes f)).toNat then some f else none := by
  have hn : (byte f.payload.length).toNat = f.payload.length := by
    simp [byte]; omega
  obtain ⟨cls, ch, tag, p⟩ := f
  simp only at hl hn
  simp only [checkedBytes, frameOf, List.cons_append, hn, List.take_left, List.drop_left]
  by_cases h : leNat [a, b] = (crc16 (byte p.length :: byte (classCode cls) :: ch :: tag :: p)).toNat
  · rw [if_pos h]
    refine Eq.trans ?_ (if_pos h).symm
    cases cls <;> rfl
  · rw [if_neg h]
    exact (if_neg h).symm

theorem leNat_leBytes_two (w : BitVec 16) : leNat (leBytes 2 w.toNat) = w.toNat := by
  have := w.isLt
  simp [leBytes, leNat]
  omega

theorem leBytes_two_of_leNat {a b : Byte} {w : BitVec 16} (h : leNat [a, b] = w.toNat) : leBytes 2 w.toNat = [a, b] := by
  have ha := a.isLt
  have hb := b.isLt
  simp only [leNat] at h
  simp only [leBytes, List.cons.injEq, and_true]
  constructor
  · apply BitVec.eq_of_toNat_eq; simp; omega
  · apply BitVec.eq_of_toNat_eq; simp; omega

end Sys2Proof.Machine
end

