-- ==== Sys2Proof/Laws/Reports.lean ====
section
/-! SUPPORT. The sections of a report: one for each port, each with the room that those before it leave (R88). -/

namespace Sys2Proof.Machine

theorem sections_length (ports : Eight Port) (burst : Nat) (ms : List (SensorPort × Word32)) (room : Nat) :
    (sections ports burst ms room).length = ms.length := by
  induction ms generalizing room with
  | nil => rfl
  | cons a ms ih => simp [sections, ih]

/-- The section of a port is that of the room left by the samples of the sections before it. -/
theorem sections_get {ports : Eight Port} {burst : Nat} {ms : List (SensorPort × Word32)} {room n : Nat}
    {p : SensorPort} {mark : Word32} {z : Section} (hm : ms[n]? = some (p, mark))
    (hz : (sections ports burst ms room)[n]? = some z) :
    z = portSection p (ports.get p) mark burst
      (room - (((sections ports burst ms room).take n).map (fun y => y.bytes.length - 6)).sum) := by
  induction ms generalizing room n with
  | nil => simp at hm
  | cons a ms ih =>
    cases n with
    | zero => simp at hm; subst hm; simp [sections] at hz; simp [hz.symm]
    | succ n =>
      simp at hm
      simp only [sections, List.getElem?_cons_succ] at hz
      rw [ih hm hz]
      simp [sections, Nat.sub_sub]

end Sys2Proof.Machine
end

