-- ==== Sys2Proof/Laws/Sensors.lean ====
section
/-! SUPPORT. What a change of a sensor port's state can do: its PORT_EVENT, the watch entries on it, the capture on it
(R78, R94, R99). -/

namespace Sys2Proof.Machine

/-- The end of the capture on a port hands over its CAPTURE_END and nothing else. -/
theorem State.endCapture_router (s : State) (p : SensorPort) (o : CaptureOutcome) :
    (s.endCapture p o).router = s.router.placeAll (s.captureEnds p o) := by
  unfold State.endCapture State.captureEnds
  cases s.sensors.captureOn p <;> rfl

/-- The notices of a port's change: its PORT_EVENT, if its new state has one, then the CAPTURE_END. -/
def State.portSent (s : State) (p : SensorPort) (q : Port) (o : Option CaptureOutcome) : List Sent :=
  (if reportedState q.state then [{ link := .primary, notice := (s.setPort p q).portNotice p }] else []) ++
    (match o with
      | none => []
      | some x => s.captureEnds p x)

theorem State.changePort_router (s : State) (p : SensorPort) (q : Port) (o : Option CaptureOutcome) :
    (s.changePort p q o).router = s.router.placeAll (s.portSent p q o) := by
  unfold State.changePort State.portSent
  cases o with
  | none => simp only; split <;> rfl
  | some x =>
    simp only [State.endCapture_router, Router.placeAll_append]
    split <;> rfl

/-- PORT_EVENT of a port just written (R78). -/
theorem State.portNotice_setPort (s : State) (p : SensorPort) (q : Port) :
    (s.setPort p q).portNotice p =
      .portEvent p q.state (if q.state = .error then q.reason else none)
        (if q.state = .ready then q.desc.map (fun d => (d.kind, d.modes.length, q.mode)) else none)
        (if q.state = .unpowered then some ((s.sensors.bank (bankOf p)).state, (s.sensors.bank (bankOf p)).trips)
          else none) s.now := by
  have : (s.setPort p q).port p = q := by simp [State.setPort, State.port]
  simp only [State.portNotice, this]
  cases bankOf p <;> rfl

/-- What a change of a port leaves of the rest. -/
theorem State.changePort_frame (s : State) (p : SensorPort) (q : Port) (o : Option CaptureOutcome) :
    (s.changePort p q o).sensors.bankL = s.sensors.bankL ∧ (s.changePort p q o).sensors.bankR = s.sensors.bankR ∧
      (s.changePort p q o).sensors.time = s.sensors.time ∧
      (s.changePort p q o).sensors.ports = s.sensors.ports.set p q := by
  unfold State.changePort
  cases o with
  | none => simp only; split <;> exact ⟨rfl, rfl, rfl, rfl⟩
  | some x =>
    simp only [State.endCapture]
    split <;> split <;> exact ⟨rfl, rfl, rfl, rfl⟩

/-- A region's fill length survives a change of its READY flag. -/
theorem Store.fill_ready (st : Store) (i j : Nat) :
    ((st.update i (fun r => { r with ready := true })).find j).map (fun g => g.fill) =
      (st.find j).map (fun g => g.fill) := by
  simp only [Store.update, Store.find]
  induction st.regions with
  | nil => rfl
  | cons r rs ih =>
    simp only [replaceFirst]
    split
    · simp only [List.find?_cons]; split <;> rfl
    · simp only [List.find?_cons]; split
      · rfl
      · exact ih

/-- The capture of another port ends as it would have before the change. -/
theorem State.captureEnds_changePort (s : State) {p p' : SensorPort} (hp : p' ≠ p) (q : Port) (x y : CaptureOutcome) :
    (s.changePort p q (some x)).captureEnds p' y = s.captureEnds p' y := by
  have key : ∀ t : State, t.sensors.captures = s.sensors.captures → t.store = s.store → t.now = s.now →
      (t.endCapture p x).captureEnds p' y = s.captureEnds p' y := by
    intro t h1 h2 h3
    unfold State.endCapture
    cases hc : t.sensors.captureOn p with
    | none => simp [State.captureEnds, Sensors.captureOn, h1, h2, h3]
    | some c =>
      have hcp : c.port = p := by
        have := List.find?_some (by simpa [Sensors.captureOn] using hc : t.sensors.captures.find? (fun c => c.port == p) = some c)
        simpa using this
      have hf : (t.finishCapture c x).sensors.captureOn p' = s.sensors.captureOn p' := by
        simp only [State.finishCapture, State.notify, Sensors.captureOn, h1, List.find?_filter]
        congr 1
        funext d
        by_cases h : d.port = p' <;> simp [h, hcp, hp]
      have hst : ∀ j, ((t.finishCapture c x).store.find j).map (fun g => g.fill) = (s.store.find j).map (fun g => g.fill) := by
        intro j; rw [← h2]; exact Store.fill_ready t.store c.region j
      have hn : (t.finishCapture c x).now = s.now := h3
      simp only [State.captureEnds, hf, hst, hn]
  have := key { (if reportedState q.state then (s.setPort p q).notify .primary ((s.setPort p q).portNotice p)
      else s.setPort p q) with watch := (if reportedState q.state then (s.setPort p q).notify .primary ((s.setPort p q).portNotice p)
      else s.setPort p q).watch.reexamine (if reportedState q.state then (s.setPort p q).notify .primary ((s.setPort p q).portNotice p)
      else s.setPort p q).sensors.ports p } (by split <;> rfl) (by split <;> rfl) (by split <;> rfl)
  exact this

/-- The notices of a change of several ports, each named once, port by port. -/
theorem State.changePorts_router (f : Port → Port) (x : CaptureOutcome) {ps : List SensorPort} (hn : ps.Nodup) (s : State) :
    (s.changePorts f (some x) ps).router =
      s.router.placeAll (ps.flatMap (fun p => s.portSent p (f (s.port p)) (some x))) := by
  induction ps generalizing s with
  | nil => rfl
  | cons p ps ih =>
    simp only [List.nodup_cons] at hn
    rw [State.changePorts, ih hn.2, State.changePort_router, List.flatMap_cons, Router.placeAll_append]
    congr 1
    apply List.flatMap_congr
    intro p' hp'
    have hne : p' ≠ p := fun e => hn.1 (e ▸ hp')
    obtain ⟨h1, h2, h3, h4⟩ := State.changePort_frame s p (f (s.port p)) (some x)
    have hport : (s.changePort p (f (s.port p)) (some x)).port p' = s.port p' := by
      show (s.changePort p (f (s.port p)) (some x)).sensors.ports.get p' = _
      rw [h4]; simp [hne, State.port]
    have hbank : ∀ b, (s.changePort p (f (s.port p)) (some x)).sensors.bank b = s.sensors.bank b := by
      intro b; cases b <;> simp [Sensors.bank, h1, h2]
    simp only [State.portSent, hport, State.portNotice_setPort, hbank, State.captureEnds_changePort s hne]
    simp only [State.now, h3]

end Sys2Proof.Machine
end

