-- ==== Sys2Proof/Laws/Store.lean ====
section
/-! SUPPORT. What the bytes of one WRITE_DATA leave (R120), under each mode of the window; the place of a new region
(R115). -/

namespace Sys2Proof.Machine

/-- TRUNCATE: the bytes that fit are written from the cursor, and the rest is dropped. -/
theorem uploadBytes_truncate {base L : Nat} (hL : base + L ≤ storeSize) (data : List Byte) (x : Upload)
    (hx : x.cursor ≤ L) (hw : Memory.wf x.mem = true) :
    let n := min data.length (L - x.cursor)
    let y := uploadBytes base L .truncate data x
    y.written = x.written + n ∧ y.cursor = x.cursor + n ∧
      (y.fill = if n = 0 then x.fill else max x.fill (x.cursor + n)) ∧ Memory.wf y.mem = true ∧
      (∀ i, i < n → Memory.read (base + x.cursor + i) y.mem = data.getD i 0) ∧
      (∀ a, a < base + x.cursor ∨ base + x.cursor + n ≤ a → Memory.read a y.mem = Memory.read a x.mem) := by
  induction data generalizing x with
  | nil => simp [uploadBytes, hw]
  | cons b bs ih =>
    intro n
    simp only [uploadBytes, reduceCtorEq, and_false, if_false]
    by_cases hlt : L ≤ x.cursor
    · rw [if_pos hlt]
      have : n = 0 := by simp only [n]; omega
      simp [this, hw]
    · rw [if_neg hlt]
      obtain ⟨h1, h2, h3, h4, h5, h6⟩ :=
        ih { mem := Memory.write (base + x.cursor) b x.mem, cursor := x.cursor + 1,
             fill := max x.fill (x.cursor + 1), written := x.written + 1 } (by simp only; omega) (Memory.write_wf _ _ hw)
      simp only at h1 h2 h3 h5 h6
      have hn : n = min bs.length (L - (x.cursor + 1)) + 1 := by simp only [n, List.length_cons]; omega
      refine ⟨by rw [h1]; omega, by rw [h2]; omega, ?_, h4, ?_, ?_⟩
      · rw [h3, if_neg (by omega : ¬ n = 0)]; split <;> omega
      · intro i hi
        cases i with
        | zero => rw [h6 _ (by omega), Memory.read_write _ _ _ hw, if_pos ⟨rfl, by omega⟩]; rfl
        | succ i => rw [show base + x.cursor + (i + 1) = base + (x.cursor + 1) + i by omega, h5 i (by omega)]; rfl
      · intro a ha
        rw [h6 a (by omega), Memory.read_write _ _ _ hw, if_neg (by omega)]

/-- WRAP: every byte is written, the cursor going round the region; a later byte stands over an earlier one. -/
theorem uploadBytes_wrap {base L : Nat} (hL : base + L ≤ storeSize) (data : List Byte) (x : Upload)
    (hx : x.cursor < L) (hw : Memory.wf x.mem = true) :
    let y := uploadBytes base L .wrap data x
    y.written = x.written + data.length ∧ y.cursor = (x.cursor + data.length) % L ∧
      (data ≠ [] → y.fill = max x.fill (min (x.cursor + data.length) L)) ∧ Memory.wf y.mem = true ∧
      (∀ i, i < data.length → data.length ≤ i + L →
        Memory.read (base + (x.cursor + i) % L) y.mem = data.getD i 0) ∧
      (∀ a, (∀ i, i < data.length → a ≠ base + (x.cursor + i) % L) →
        Memory.read a y.mem = Memory.read a x.mem) := by
  induction data generalizing x with
  | nil => simp [uploadBytes, Nat.mod_eq_of_lt hx, hw]
  | cons b bs ih =>
    simp only [uploadBytes]
    rw [if_neg (by omega)]
    have hc : (if x.cursor + 1 = L ∧ True then 0 else x.cursor + 1) = (x.cursor + 1) % L := by
      by_cases h : x.cursor + 1 = L
      · simp [h]
      · rw [if_neg (by simp [h]), Nat.mod_eq_of_lt (by omega)]
    have hlt : (x.cursor + 1) % L < L := Nat.mod_lt _ (by omega)
    rw [hc]
    obtain ⟨h1, h2, h3, h4, h5, h6⟩ :=
      ih { mem := Memory.write (base + x.cursor) b x.mem, cursor := (x.cursor + 1) % L,
           fill := max x.fill (x.cursor + 1), written := x.written + 1 } hlt (Memory.write_wf _ _ hw)
    have hm : ∀ i, ((x.cursor + 1) % L + i) % L = (x.cursor + (i + 1)) % L := by
      intro i; rw [Nat.mod_add_mod]; congr 1; omega
    simp only [hm] at h2 h5 h6
    refine ⟨by rw [h1]; simp; omega, by rw [h2]; rfl, ?_, h4, ?_, ?_⟩
    · intro _
      cases bs with
      | nil => simp [uploadBytes]; omega
      | cons b' bs' =>
        rw [h3 (by simp)]
        simp only [List.length_cons]
        by_cases h : x.cursor + 1 = L
        · simp [h]; omega
        · rw [Nat.mod_eq_of_lt (by omega : x.cursor + 1 < L)]; omega
    · intro i hi hi2
      cases i with
      | zero =>
        simp only [List.length_cons] at hi2
        rw [h6]
        · rw [Memory.read_write _ _ _ hw, Nat.add_zero, Nat.mod_eq_of_lt hx, if_pos ⟨rfl, by omega⟩]; rfl
        · intro j hj
          simp only [Nat.add_zero, Nat.mod_eq_of_lt hx]
          intro he
          have he2 : x.cursor = (x.cursor + (j + 1)) % L := by omega
          by_cases hq : x.cursor + (j + 1) < L
          · rw [Nat.mod_eq_of_lt hq] at he2; omega
          · rw [Nat.mod_eq_sub_mod (by omega), Nat.mod_eq_of_lt (by omega)] at he2; omega
      | succ i =>
        simp only [List.length_cons] at hi hi2
        rw [h5 i (by omega) (by omega)]; rfl
    · intro a ha
      rw [h6]
      · rw [Memory.read_write _ _ _ hw, if_neg]
        rintro ⟨he, _⟩
        have := ha 0 (by simp)
        simp [Nat.mod_eq_of_lt hx] at this
        omega
      · intro i hi; exact ha (i + 1) (by simpa using hi)

/-- R115: the gap found in a table ordered by base is the lowest place for the blocks asked for; none is found where
there is no place. -/
theorem gapsFrom_lowest (n : Nat) (hn : 1 ≤ n) (rs : List Region) (start : Nat)
    (h1 : ∀ g ∈ rs, 0 < g.length ∧ g.block + g.extent ≤ 2048 ∧ start ≤ g.block)
    (h2 : rs.Pairwise (fun g h => g.block + g.extent ≤ h.block)) :
    let fits (b : Nat) : Prop := start ≤ b ∧ b + n ≤ 2048 ∧ ∀ g ∈ rs, b + n ≤ g.block ∨ g.block + g.extent ≤ b
    (∀ b, ((gapsFrom start rs).find? (fun g => decide (n ≤ g.2))).map (fun g => g.1) = some b →
      fits b ∧ ∀ a, a < b → ¬ fits a) ∧
    (((gapsFrom start rs).find? (fun g => decide (n ≤ g.2))).map (fun g => g.1) = none → ∀ b, ¬ fits b) := by
  induction rs generalizing start with
  | nil =>
    intro fits
    have hf : ∀ b, fits b ↔ start ≤ b ∧ b + n ≤ 2048 := by intro b; simp [fits]
    by_cases h : start < 2048 ∧ n ≤ 2048 - start
    · have e : ((gapsFrom start []).find? (fun g => decide (n ≤ g.2))).map (fun g => g.1) = some start := by
        simp [gapsFrom, blockCount, h.1, h.2]
      rw [e]
      refine ⟨fun b hb => ?_, by simp⟩
      simp only [Option.some.injEq] at hb
      subst hb
      exact ⟨(hf _).2 (by omega), fun a ha hfa => by have := ((hf a).1 hfa).1; omega⟩
    · have e : ((gapsFrom start []).find? (fun g => decide (n ≤ g.2))).map (fun g => g.1) = none := by
        by_cases hs : start < 2048
        · have : ¬ n ≤ 2048 - start := fun hh => h ⟨hs, hh⟩
          simp [gapsFrom, blockCount, hs, this]
        · simp [gapsFrom, blockCount, hs]
      rw [e]
      exact ⟨by simp, fun _ b hfb => by have := (hf b).1 hfb; omega⟩
  | cons r rs ih =>
    simp only [List.pairwise_cons] at h2
    have hr := h1 r (by simp)
    have hext : 1 ≤ r.extent := by simp only [Region.extent, ceilDiv]; omega
    obtain ⟨i1, i2⟩ := ih (r.block + r.extent)
      (fun g hg => ⟨(h1 g (by simp [hg])).1, (h1 g (by simp [hg])).2.1, h2.1 g hg⟩) h2.2
    have hsucc : ∀ g ∈ rs, r.block + r.extent ≤ g.block := h2.1
    intro fits
    by_cases hgap : start < r.block ∧ n ≤ r.block - start
    · have e : ((gapsFrom start (r :: rs)).find? (fun g => decide (n ≤ g.2))).map (fun g => g.1) = some start := by
        simp [gapsFrom, hgap.1, hgap.2]
      rw [e]
      refine ⟨?_, by simp⟩
      intro b hb; simp at hb; subst hb
      refine ⟨⟨Nat.le_refl _, by omega, ?_⟩, fun a ha h => by have := h.1; omega⟩
      intro g hg; simp at hg; rcases hg with rfl | hg
      · left; omega
      · left; have := hsucc g hg; omega
    · have e : (gapsFrom start (r :: rs)).find? (fun g => decide (n ≤ g.2)) = (gapsFrom (r.block + r.extent) rs).find? (fun g => decide (n ≤ g.2)) := by
        simp only [gapsFrom]
        split
        · rename_i hl
          have : ¬ n ≤ r.block - start := fun h => hgap ⟨hl, h⟩
          simp [this]
        · simp
      rw [e]
      have heq : ∀ b, fits b ↔
          (r.block + r.extent ≤ b ∧ b + n ≤ 2048 ∧ ∀ g ∈ rs, b + n ≤ g.block ∨ g.block + g.extent ≤ b) := by
        intro b
        constructor
        · rintro ⟨a1, a2, a3⟩
          have := a3 r (by simp)
          refine ⟨by rcases this with h | h <;> omega, a2, fun g hg => a3 g (by simp [hg])⟩
        · rintro ⟨a1, a2, a3⟩
          refine ⟨by omega, a2, ?_⟩
          intro g hg; simp at hg; rcases hg with rfl | hg
          · right; exact a1
          · exact a3 g hg
      refine ⟨fun b hb => ?_, fun hb b => ?_⟩
      · obtain ⟨j1, j2⟩ := i1 b hb
        exact ⟨(heq b).2 j1, fun a ha h => j2 a ha ((heq a).1 h)⟩
      · rw [heq b]; exact i2 hb b

end Sys2Proof.Machine
end

