-- ==== Sys2Proof/Laws/Watch.lean ====
section
/-! SUPPORT. What an evaluation of watch entries can do: its actions on the other parts leave the watch unit, and entries
whose actions write no virtual input are evaluated one by one (R102, R103, R106). -/

namespace Sys2Proof.Machine

/-- What evaluations that write no virtual input leave: the virtual inputs, the kept counts, every reply queue. -/
def Reach.keepsWith (w x : Reach) : Prop :=
  x.watch.virt = w.watch.virt ∧ x.watch.scanEnc = w.watch.scanEnc ∧
    ∀ k, (x.router.link k).replies = (w.router.link k).replies

theorem Reach.keepsWith_trans {a b c : Reach} (h : a.keepsWith b) (g : b.keepsWith c) : a.keepsWith c :=
  ⟨g.1.trans h.1, g.2.1.trans h.2.1, fun k => (g.2.2 k).trans (h.2.2 k)⟩

@[simp] theorem Reach.send_watch (w : Reach) (ns : List Sent) : (w.send ns).watch = w.watch := rfl

@[simp] theorem Reach.send_replies (w : Reach) (ns : List Sent) (k : Link) :
    ((w.send ns).router.link k).replies = (w.router.link k).replies := by simp [Reach.send]

theorem Reach.update_get (w : Reach) (i k : WatchId) (g : Watch → Watch) :
    (w.update i g).watch.entries.get k = if k = i then (w.watch.entries.get i).map g else w.watch.entries.get k := by
  simp [Reach.update, WatchUnit.setEntry, Sixteen.get_set]

theorem Reach.update_keeps (w : Reach) (i : WatchId) (g : Watch → Watch) : w.keepsWith (w.update i g) :=
  ⟨rfl, rfl, fun _ => rfl⟩

/-- A PLAY action leaves the watch unit, the motors and every reply queue. -/
theorem Reach.play_keeps (f : WatchFeed) (g v p : Nat) (w : Reach) :
    (w.play f g v p).1.watch = w.watch ∧ (w.play f g v p).1.motors = w.motors ∧
      ∀ k, ((w.play f g v p).1.router.link k).replies = (w.router.link k).replies := by
  unfold Reach.play
  split
  · simp
  · split
    · simp
    · split <;> simp [Reach.send]

/-- Actions that write no virtual input leave the watch unit and every reply queue, and cause no firing. -/
theorem performActions_keeps (f : WatchFeed) (inner : Option Evaluate) (k : WatchId) (v : Int) (as : List Action)
    (w : Reach) (h : ∀ a ∈ as, ∀ j b, a ≠ .setVirtual j b) :
    (performActions f inner k v as w).1.watch = w.watch ∧ (performActions f inner k v as w).2.2 = 0 ∧
      ∀ l, ((performActions f inner k v as w).1.router.link l).replies = (w.router.link l).replies := by
  induction as generalizing w with
  | nil => exact ⟨rfl, rfl, fun _ => rfl⟩
  | cons a as ih =>
    have hr : ∀ b ∈ as, ∀ j c, b ≠ .setVirtual j c := fun b hb => h b (by simp [hb])
    cases a with
    | setVirtual j b => exact absurd rfl (h _ (by simp) j b)
    | brake ps => simpa [performActions, Reach.cut, Reach.send] using ih (w.cut f .brake ps).1 hr
    | coast ps => simpa [performActions, Reach.cut, Reach.send] using ih (w.cut f .coast ps).1 hr
    | play g x p =>
      obtain ⟨a1, a2, a3⟩ := ih (w.play f g x p).1 hr
      obtain ⟨b1, _, b3⟩ := Reach.play_keeps f g x p w
      exact ⟨a1.trans b1, by simpa [performActions] using a2, fun l => (a3 l).trans (b3 l)⟩
    | stopVoices => simpa [performActions, Reach.stopVoices, Reach.send] using ih (w.stopVoices f).1 hr
    | notify l c =>
      simpa [performActions, Reach.send] using ih (w.send [{ link := l, notice := .watchNote k c v f.time }]) hr

/-- The record of an entry after an evaluation that writes no virtual input (R102, R103). -/
def Watch.evaluated (v : Int) (e : Watch) : Watch :=
  if (e.seen v).fires? then { (e.seen v) with fires := min 65535 (e.fires + 1) }.afterFiring else e.seen v

/-- The evaluation of an entry whose actions write no virtual input: its own record changes, no other entry's, and it
fires once or not at all. -/
theorem evaluate_plain (f : WatchFeed) (depth : Nat) (inner : Option Evaluate) (i : WatchId) (v : Int) (w : Reach)
    {e : Watch} (he : w.watch.entries.get i = some e) (h : ∀ a ∈ e.actions, ∀ j b, a ≠ .setVirtual j b) :
    (evaluate f depth inner i v w).2 = (if (e.seen v).fires? then 1 else 0) ∧
      w.keepsWith (evaluate f depth inner i v w).1 ∧
      ∀ k, (evaluate f depth inner i v w).1.watch.entries.get k =
        if k = i then some (e.evaluated v) else w.watch.entries.get k := by
  have ha : (e.seen v).actions = e.actions := rfl
  by_cases hf : (e.seen v).fires? = true
  · obtain ⟨x1, x2, x3⟩ := performActions_keeps f inner i v e.actions
      (w.update i (fun _ => { (e.seen v) with fires := min 65535 ((e.seen v).fires + 1) })) h
    have hfires : (e.seen v).fires = e.fires := rfl
    have hx : evaluate f depth inner i v w = w.fire f depth inner i v (e.seen v) := by
      simp only [evaluate, he]; simp [hf]
    rw [hx]
    have hg : ∀ k, ((performActions f inner i v (e.seen v).actions
        (w.update i (fun _ => { (e.seen v) with fires := min 65535 ((e.seen v).fires + 1) }))).1.update i
          Watch.afterFiring).watch.entries.get k = if k = i then some (e.evaluated v) else w.watch.entries.get k := by
      intro k
      rw [Reach.update_get, ha, x1]
      by_cases hk : k = i
      · subst hk; simp [Reach.update_get, he, Watch.evaluated, hf, hfires]
      · simp [hk, Reach.update_get]
    have hi := hg i
    simp only [if_true] at hi
    simp only [Reach.fire, hi]
    rw [ha] at hg ⊢
    refine ⟨?_, ?_, ?_⟩
    · rw [if_pos hf]
      split <;> exact congrArg (· + 1) x2
    · have hk : w.keepsWith ((performActions f inner i v e.actions
          (w.update i (fun _ => { (e.seen v) with fires := min 65535 ((e.seen v).fires + 1) }))).1.update i
            Watch.afterFiring) :=
        ⟨by simp only [Reach.update, WatchUnit.setEntry] at x1 ⊢; rw [x1],
         by simp only [Reach.update, WatchUnit.setEntry] at x1 ⊢; rw [x1], fun k => x3 k⟩
      split
      · exact hk
      · exact ⟨hk.1, hk.2.1, fun k => by rw [Reach.send_replies]; exact hk.2.2 k⟩
    · intro k
      split
      · exact hg k
      · rw [Reach.send_watch]; exact hg k
  · have hx : evaluate f depth inner i v w = (w.update i (fun _ => e.seen v), 0) := by
      simp only [evaluate, he]; simp [hf]
    rw [hx]
    refine ⟨by simp [hf], Reach.update_keeps _ _ _, fun k => ?_⟩
    rw [Reach.update_get]
    by_cases hk : k = i
    · subst hk; simp [he, Watch.evaluated, hf]
    · simp [hk]

/-- Entries on a source that write no virtual input are each evaluated once, with the value `value` gives
them; the others stay as they are. -/
theorem evalEach_plain (f : WatchFeed) (depth : Nat) (inner : Option Evaluate) (x : Source → Bool)
    (value : Watch → Int) (is : List WatchId) (w : Reach) (hn : is.Nodup)
    (h : ∀ k e, w.watch.entries.get k = some e → e.on x = true → ∀ a ∈ e.actions, ∀ j b, a ≠ .setVirtual j b) :
    let on (k : WatchId) : Bool := (w.watch.entries.get k).any (Watch.on x)
    let fires (k : WatchId) : Bool := on k && (w.watch.entries.get k).any (fun e => (e.seen (value e)).fires?)
    let z := evalEach (evaluate f depth inner) x value is w
    z.2.1 = (is.filter on).length ∧ z.2.2 = (is.filter fires).length ∧ w.keepsWith z.1 ∧
      ∀ k, z.1.watch.entries.get k =
        if k ∈ is ∧ on k = true then (w.watch.entries.get k).map (fun e => e.evaluated (value e))
        else w.watch.entries.get k := by
  induction is generalizing w with
  | nil => exact ⟨rfl, rfl, ⟨rfl, rfl, fun _ => rfl⟩, fun _ => by simp [evalEach]⟩
  | cons i is ih =>
    simp only [List.nodup_cons] at hn
    intro on fires
    cases he : w.watch.entries.get i with
    | none =>
      obtain ⟨a, b, c, d⟩ := ih w hn.2 h
      have hon : on i = false := by simp [on, he]
      have hfi : fires i = false := by simp [fires, hon]
      simp only [evalEach, he, List.filter_cons, hon, hfi]
      refine ⟨by simpa using a, by simpa using b, c, fun k => ?_⟩
      rw [d k]
      by_cases hk : k = i
      · subst hk; simp [he]
      · simp [hk, on]
    | some e =>
      by_cases ho : e.on x = true
      · obtain ⟨p1, p2, p3⟩ := evaluate_plain f depth inner i (value e) w he (h i e he ho)
        have hon : on i = true := by simp [on, he, ho]
        have hfi : fires i = (e.seen (value e)).fires? := by simp [fires, hon, he]
        have ho' : ∀ e', (e'.on x = true ∧ e' = e.evaluated (value e)) → ∀ a ∈ e'.actions, ∀ j b, a ≠ .setVirtual j b := by
          rintro e' ⟨_, rfl⟩
          have : (e.evaluated (value e)).actions = e.actions := by
            unfold Watch.evaluated Watch.afterFiring
            split
            · split
              · split <;> rfl
              · rfl
            · rfl
          rw [this]; exact h i e he ho
        obtain ⟨a, b, c, d⟩ := ih (evaluate f depth inner i (value e) w).1 hn.2 (by
          intro k e' hk' hoe
          rw [p3 k] at hk'
          by_cases hk : k = i
          · simp [hk] at hk'; exact ho' e' ⟨hoe, hk'.symm⟩
          · simp [hk] at hk'; exact h k e' hk' hoe)
        have hsame : ∀ k ∈ is, (evaluate f depth inner i (value e) w).1.watch.entries.get k = w.watch.entries.get k := by
          intro k hk
          have : k ≠ i := fun hh => hn.1 (hh ▸ hk)
          rw [p3 k]; simp [this]
        have hf1 : ∀ g : Option Watch → Bool, is.filter (fun k => g ((evaluate f depth inner i (value e) w).1.watch.entries.get k)) =
            is.filter (fun k => g (w.watch.entries.get k)) := by
          intro g; apply List.filter_congr; intro k hk; rw [hsame k hk]
        simp only [evalEach, he, ho, if_true]
        refine ⟨?_, ?_, Reach.keepsWith_trans p2 c, fun k => ?_⟩
        · rw [a, hf1 (fun o => o.any (Watch.on x))]
          rw [List.filter_cons_of_pos hon]; rfl
        · have hb := b.trans (congrArg List.length
            (hf1 (fun o => o.any (Watch.on x) && o.any (fun e => (e.seen (value e)).fires?))))
          rw [hb, p1]
          by_cases hh : (e.seen (value e)).fires? = true
          · rw [List.filter_cons_of_pos (hfi.trans hh), if_pos hh, List.length_cons, Nat.add_comm]
          · rw [List.filter_cons_of_neg (by rw [hfi]; exact hh), if_neg hh, Nat.zero_add]
        · rw [d k, p3 k]
          by_cases hk : k = i
          · subst hk; simp [hn.1, hon, he]
          · simp only [hk, if_false, List.mem_cons, false_or, on]
            by_cases hi : k ∈ is
            · rw [hsame k hi]
            · simp [hi]
      · have hon : on i = false := by simp [on, he, ho]
        have hfi : fires i = false := by simp [fires, hon]
        obtain ⟨a, b, c, d⟩ := ih w hn.2 h
        simp only [evalEach, he, ho, List.filter_cons, hon, hfi]
        refine ⟨by simpa using a, by simpa using b, c, fun k => ?_⟩
        simp only [Bool.false_eq_true, if_false]
        rw [d k]
        by_cases hk : k = i
        · subst hk; simp [hn.1, hon]
        · simp [hk, on]

/-- No entry on the source is ACTIVE: nothing is evaluated. -/
theorem evalEach_quiet (ev : Evaluate) (x : Source → Bool) (value : Watch → Int) (ks : List WatchId) (w : Reach)
    (h : ∀ k e, w.watch.entries.get k = some e → e.on x = false) : evalEach ev x value ks w = (w, 0, 0) := by
  induction ks with
  | nil => rfl
  | cons k ks ih =>
    simp only [evalEach]
    cases he : w.watch.entries.get k with
    | none => exact ih
    | some e => simp only [h k e he]; exact ih

/-- The record of an ACTIVE entry after an evaluation that writes no virtual input, field by field (R102, R103). -/
theorem Watch.evaluated_active (e : Watch) (v : Int) (h : e.state = .active) :
    e.evaluated v =
      { e with
          cond := e.newCond v, last := some v,
          trueCount := if e.newCond v = true then min e.debounce (e.trueCount + 1) else 0,
          latch := (e.newCond v && e.latch) || ((e.seen v).fires? && e.rearm == .edge),
          state := if (e.seen v).fires? = true ∧ e.rearm = .once then .fired else .active,
          fires := if (e.seen v).fires? = true then min 65535 (e.fires + 1) else e.fires } := by
  have hs : (e.seen v).state = .active := h
  by_cases hf : (e.seen v).fires? = true
  · simp only [Watch.evaluated, hf, if_true, Watch.afterFiring, hs]
    cases hr : e.rearm
    · simp [Watch.seen, hr]
    · simp [Watch.seen, hr, h]
  · simp only [Watch.evaluated, hf]; simp [Watch.seen, h]

/-- `evalEach_plain` for all sixteen entries at depth 1: the virtual inputs and every entry. -/
theorem evalEach_entries (f : WatchFeed) (x : Source → Bool) (value : Watch → Int) (w : Reach)
    (h : ∀ k e, w.watch.entries.get k = some e → e.on x = true → ∀ a ∈ e.actions, ∀ j b, a ≠ .setVirtual j b) :
    (evalEach (evalWith f 3) x value Num16.all w).1.watch.virt = w.watch.virt ∧
      ∀ k, (evalEach (evalWith f 3) x value Num16.all w).1.watch.entries.get k =
        (w.watch.entries.get k).map (fun e =>
          if e.state = .active ∧ x e.source = true then e.evaluated (value e) else e) := by
  obtain ⟨_, _, a, b⟩ := evalEach_plain f (3 - 2) (some (evalWith f 2)) x value Num16.all w (by decide) h
  refine ⟨a.1, fun k => (b k).trans ?_⟩
  cases he : w.watch.entries.get k with
  | none => simp
  | some e =>
    by_cases ho : e.state = .active ∧ x e.source = true
    · have ha : ((w.watch.entries.get k).any (Watch.on x)) = true := by rw [he]; simp [Watch.on, ho]
      rw [if_pos ⟨Num16.mem_all k, ha⟩, Option.map_some, Option.map_some, if_pos ho]
    · have ha : ¬ (((w.watch.entries.get k).any (Watch.on x)) = true) := by
        rw [he]; intro hh; exact ho (by simpa [Watch.on] using hh)
      rw [if_neg (fun hh => ha hh.2), Option.map_some, if_neg ho]

/-- An evaluation that leaves the kept encoder counts. -/
def keepsCounts (ev : Evaluate) : Prop := ∀ i v w, (ev i v w).1.watch.scanEnc = w.watch.scanEnc

theorem evalEach_counts {ev : Evaluate} (h : keepsCounts ev) (x : Source → Bool) (value : Watch → Int)
    (ks : List WatchId) (w : Reach) : (evalEach ev x value ks w).1.watch.scanEnc = w.watch.scanEnc := by
  induction ks generalizing w with
  | nil => rfl
  | cons k ks ih =>
    simp only [evalEach]
    split
    · exact ih w
    · split
      · exact (ih _).trans (h _ _ _)
      · exact ih w

theorem performActions_counts (f : WatchFeed) {inner : Option Evaluate} (h : ∀ ev ∈ inner, keepsCounts ev)
    (k : WatchId) (v : Int) (as : List Action) (w : Reach) :
    (performActions f inner k v as w).1.watch.scanEnc = w.watch.scanEnc := by
  induction as generalizing w with
  | nil => rfl
  | cons a as ih =>
    cases a with
    | brake ps => exact ih (w.cut f .brake ps).1
    | coast ps => exact ih (w.cut f .coast ps).1
    | play g x p => exact (ih _).trans (congrArg WatchUnit.scanEnc (Reach.play_keeps f g x p w).1)
    | stopVoices => exact ih (w.stopVoices f).1
    | notify l c => exact ih (w.send _)
    | setVirtual i b =>
      cases inner with
      | some ev => exact (ih _).trans (evalEach_counts (h ev rfl) _ _ _ (w.setInput i b))
      | none =>
        simp only [performActions, Reach.writeAction]
        by_cases hw : w.watch.watched i = true
        · simp [hw, Reach.update, WatchUnit.setEntry]
        · simp only [hw]; exact ih (w.setInput i b)

theorem evaluate_counts (f : WatchFeed) (depth : Nat) {inner : Option Evaluate} (h : ∀ ev ∈ inner, keepsCounts ev) :
    keepsCounts (evaluate f depth inner) := by
  intro i v w
  simp only [evaluate]
  split
  · rfl
  · rename_i e _
    split
    · have := performActions_counts f h i v (e.seen v).actions
        (w.update i (fun _ => { (e.seen v) with fires := min 65535 ((e.seen v).fires + 1) }))
      simp only [Reach.fire]
      repeat' split
      all_goals exact this
    · rfl

/-- No evaluation changes the kept encoder counts (R100). -/
theorem evalWith_counts (f : WatchFeed) : ∀ n, keepsCounts (evalWith f n)
  | 0 => evaluate_counts f 4 (by simp)
  | n + 1 => evaluate_counts f (3 - n) (by
      intro ev hev
      rw [Option.mem_some_iff] at hev
      exact hev ▸ evalWith_counts f n)

end Sys2Proof.Machine
end

