-- ==== Sys2Proof/WellFormed.lean ====
section
/-! DEFINITION. What the environment can send: the operands each command can carry by the spec's formats. The
machine takes every command, well formed or not; claims use this predicate. -/

namespace Sys2Proof

/-- A payload holds at most 240 bytes (11.1). -/
def payloadFits (p : List Byte) : Bool := p.length ≤ 240

/-- The system and routing ranges, 0x00 to 0x0F and 0x50 to 0x5F (R144). -/
def channelIsSystem (c : Byte) : Bool :=
  c.toNat < 16 || (80 ≤ c.toNat && c.toNat < 96)

/-- The channels below 0x80 to which the catalogue assigns no request (R172). -/
def channelIsUnassigned (c : Byte) : Bool :=
  let n := c.toNat
  (9 ≤ n && n ≤ 15) || (26 ≤ n && n ≤ 31) || (40 ≤ n && n ≤ 47) || (54 ≤ n && n ≤ 63) || n == 79 ||
    (84 ≤ n && n ≤ 95) || (96 ≤ n && n ≤ 111) || (112 ≤ n && n ≤ 127)

/-- A request or a forwarded frame is of class ASK or TELL (R172). -/
def classIsRequest (c : FrameClass) : Bool := c == .ask || c == .tell

/-- A motor's encoder saturates at 2,000,000,000 counts (01 1.1), so it moves at most twice that between two
readings. -/
def readingFits (r : MotorReading) : Bool :=
  -4000000000 ≤ r.delta && r.delta ≤ 4000000000 && -2147483648 ≤ r.current && r.current ≤ 2147483647

/-- A battery measurement in mV fits the two bytes in which POWER_STATUS reports it (R168, log entry 8). -/
def measurementFits (mv : Nat) : Bool := mv < 65536

/-- A DATA record holds 1 to 4 values (04 4.5). -/
def dataFits (values : List Int) : Bool := 1 ≤ values.length && values.length ≤ 4

/-- The operands of a command lie within the spec's formats. -/
def Instr.wellFormed : Instr → Bool
  | .ident r => payloadFits r.payload
  | .setTag r => payloadFits r.payload
  | .reset r => payloadFits r.payload
  | .sleep r => payloadFits r.payload
  | .pause r => payloadFits r.payload
  | .resume r => payloadFits r.payload
  | .stepSegment r => payloadFits r.payload
  | .powerStatus r => payloadFits r.payload
  | .setBudget r => payloadFits r.payload
  | .claim r => payloadFits r.payload
  | .release r => payloadFits r.payload
  | .queueSegment r => payloadFits r.payload
  | .flush r => payloadFits r.payload
  | .setGains r => payloadFits r.payload
  | .setPolicy r => payloadFits r.payload
  | .zeroCount r => payloadFits r.payload
  | .motorStatus r => payloadFits r.payload
  | .clearFault r => payloadFits r.payload
  | .stopNow r => payloadFits r.payload
  | .sensorStatus r => payloadFits r.payload
  | .selectMode r => payloadFits r.payload
  | .readSamples r => payloadFits r.payload
  | .streamOpen r => payloadFits r.payload
  | .streamClose r => payloadFits r.payload
  | .captureStart r => payloadFits r.payload
  | .captureStop r => payloadFits r.payload
  | .bankRestore r => payloadFits r.payload
  | .watchSet r => payloadFits r.payload
  | .watchClear r => payloadFits r.payload
  | .watchRearm r => payloadFits r.payload
  | .watchStatus r => payloadFits r.payload
  | .setVirtual r => payloadFits r.payload
  | .watchEnable r => payloadFits r.payload
  | .defineRegion r => payloadFits r.payload
  | .deleteRegion r => payloadFits r.payload
  | .setClip r => payloadFits r.payload
  | .writeStart r => payloadFits r.payload
  | .writeData r => payloadFits r.payload
  | .writeEnd r => payloadFits r.payload
  | .readRegion r => payloadFits r.payload
  | .compact r => payloadFits r.payload
  | .play r => payloadFits r.payload
  | .playTone r => payloadFits r.payload
  | .releaseVoice r => payloadFits r.payload
  | .stopVoice r => payloadFits r.payload
  | .setVolume r => payloadFits r.payload
  | .setLoopStart r => payloadFits r.payload
  | .soundStatus r => payloadFits r.payload
  | .setWindow r => payloadFits r.payload
  | .setForward r => payloadFits r.payload
  | .routeStatus r => payloadFits r.payload
  | .remotePolicy r => payloadFits r.payload
  | .forwardFrame _ f => payloadFits f.payload && classIsRequest f.cls
  | .forwardedReply _ _ _ p => payloadFits p
  | .inboundNotice _ _ _ p => payloadFits p
  | .systemFrameDenied _ ch _ p => payloadFits p && channelIsSystem ch
  | .unknownChannel _ _ ch _ p => payloadFits p && (channelIsUnassigned ch || 128 ≤ ch.toNat)
  | .readyLowDrop _ f => payloadFits f.payload
  | .checkMismatch _ _ => true
  | .receiverTimeout _ => true
  | .transmitFrame _ _ => true
  | .forwardAgeLimit _ => true
  | .forwardWaitExpiry _ => true
  | .linkedRise => true
  | .linkedFall => true
  | .remoteBreak => true
  | .linkReset => true
  | .wake mv => measurementFits mv
  | .powerOn mv _ => measurementFits mv
  | .softReset mv => measurementFits mv
  | .resetTimeout mv => measurementFits mv
  | .sleepEntry => true
  | .sleepTimeout => true
  | .identNoticeDue => true
  | .bankRPowerUp => true
  | .controlExpiry r =>
      readingFits r.a && readingFits r.b && readingFits r.c && readingFits r.d && readingFits r.e && readingFits r.f
  | .durationEnd _ => true
  | .segmentSettled _ => true
  | .settleLimitReached _ => true
  | .stall _ => true
  | .overcurrentFault _ => true
  | .motorIdSample _ => true
  | .bankCurrentMeasure _ _ => true
  | .bankTrip _ => true
  | .retryEnd _ => true
  | .cleanTimeReached _ => true
  | .portIdMeasure _ _ => true
  | .passiveSample _ _ => true
  | .describeRecord _ _ _ _ => true
  | .modeRecord _ _ => true
  | .endRecord _ => true
  | .acceptSent _ => true
  | .handshakeTimeout _ => true
  | .dataRecord _ _ values => dataFits values
  | .silenceTimeout _ => true
  | .errorTimeEnd _ => true
  | .streamExpiry _ => true
  | .watchScan => true
  | .watchFire _ v => -2147483648 ≤ v && v ≤ 2147483647
  | .compactRegionCopied => true
  | .compactComplete => true
  | .outputEvent => true
  | .toneEnd _ => true
  | .volumeRampStep => true
  | .supplyUpdate mv => measurementFits mv
  | .powerStateChange => true
  | .badStopBit _ _ => true
  | .headerFieldOutOfRange _ _ => true
  | .malformedRecord _ => true

end Sys2Proof
end

