-- ==== Sys2Proof/Tests/Slice0.lean ====
section
/-! SUPPORT. Tests: an ill-formed command for each check of well-formedness, worked values of the spec, one small step of
commands of every block, and states that meet the hypotheses of the statements, clause by clause at their
boundaries. -/

namespace Sys2Proof.Tests

open Sys2Proof.Machine

set_option Elab.async false

/-! ### Small states -/

/-- A request. -/
def rq (l : Link) (c : ReqClass) (payload : List Byte) : Req := { link := l, cls := c, tag := 7, payload := payload }

/-- An ASK of the host. -/
def ask (payload : List Byte) : Req := rq .primary .ask payload

/-- The part after POWER_ON with the LINKED line high. -/
def up : State := { State.reset with router := Router.reset true }

/-- A channel with a LARGE motor at rest. -/
def large : Channel := { Channel.reset with kind := .large, state := .idle, gains := MotorKind.large.gains }

/-- The part with a channel on port A. -/
def onA (c : Channel) : State := { up with motors := up.motors.setCh .a c }

/-- A MOVE_TO segment to 90 degrees. -/
def move90 : Segment :=
  { kind := .moveTo, duty := 0, duration := 0, cruise := 900, accel := 4000, decel := 4000, target := 90, distance := 0,
    tolerance := 2, settleCount := 20, settleLimit := 1000, endAction := .hold, syncTag := 0, members := [],
    notify := true, reqTag := 3, origin := .primary }

/-- A DUTY segment of 10 steps. -/
def duty10 : Segment := { move90 with kind := .duty, duty := 500, duration := 10, target := 0, endAction := .brake }

/-- The part with a port record on sensor port 1. -/
def onPort (q : Port) : State := up.setPort .n1 q

/-- A port with a passive device of band 2. -/
def passive : Port := { Port.probing with state := .ready, desc := some (passiveDescriptor 252 0 1000) }

/-- One mode of a smart device. -/
def mode0 : ModeDesc := { number := 0, valueCount := 1, format := .int16, min := 0, max := 100, interval := 100 }

/-- A port with a smart device. -/
def smart : Port :=
  { Port.probing with state := .ready, desc := some { kind := 40, speed := some 57600, modes := [mode0] } }

/-- A port in the handshake. -/
def shaking (h : Handshake) : Port := { Port.probing with state := .handshake, hs := some h }

/-- A handshake record at its beginning. -/
def fresh : Handshake := { stage := .describe, pending := none, attempts := 0, wait := 0 }

/-- A clip region of 64 bytes with a layout. -/
def clip1 : Region :=
  { id := 1, kind := .clip, base := 0, length := 64, ready := true, fill := 64,
    layout := some { rate := 8000, head := 64, loop := 0, tail := 0, loopStart := 0, cue := none, reverse := false } }

/-- A capture region of 64 bytes at block 1. -/
def capture2 : Region :=
  { id := 2, kind := .capture, base := 64, length := 64, ready := true, fill := 0, layout := none }

/-- The part with regions. -/
def withRegions (gs : List Region) : State := { up with store := { up.store with regions := gs } }

/-- An upload window on region 1. -/
def window1 : Window := { region := 1, owner := .primary, mode := .truncate, cursor := 0, accepted := 0 }

/-- A tone voice with 100 samples left. -/
def tone1 : Voice :=
  { Voice.cleared with
    state := .tone, source := some (.tone 440), left := 100, volume := 255, origin := .primary }

/-- The part with a voice 1. -/
def onVoice (v : Voice) : State := { up with mixer := up.mixer.setVoice .n1 v }

/-- A watch entry on the battery with one action. -/
def watch1 : Watch :=
  { state := .active, owner := .primary, source := .battery, cmp := .below 6000, hyst := 100, debounce := 1,
    rearm := .once, actions := [.notify .primary 5], notify := none, cond := false, trueCount := 0, latch := false,
    last := none, fires := 0 }

/-- The part with a watch entry 1. -/
def onWatch (e : Watch) : State := { up with watch := up.watch.setEntry .n1 (some e) }

/-- A frame on an application channel. -/
def app (c : FrameClass) : Frame := { cls := c, channel := 0x90, tag := 9, payload := [1, 2] }

/-- The state after a command. -/
def after (c : Instr) (s : State) : State := (outcomeState (exec c s)).getD s

/-- The part with the power state given. -/
def power (p : PowerState) (s : State) : State := { s with supply := { s.supply with power := p } }

/-! ### Well-formedness: an ill-formed command for each check -/

theorem test_wf_payload : (Instr.claim (ask (List.replicate 241 0))).wellFormed = false := by decide +kernel
theorem test_wf_payload_fits : (Instr.claim (ask (List.replicate 240 0))).wellFormed = true := by decide +kernel
theorem test_wf_forward_class : (Instr.forwardFrame .primary (app .reply)).wellFormed = false := by decide +kernel
theorem test_wf_system_channel : (Instr.systemFrameDenied .ask 0x10 0 []).wellFormed = false := by decide +kernel
theorem test_wf_unknown_channel : (Instr.unknownChannel .primary .ask 0x10 0 []).wellFormed = false := by decide +kernel
theorem test_wf_reading :
    (Instr.controlExpiry (Six.fill { delta := 4000000001, current := 0 })).wellFormed = false := by decide +kernel
theorem test_wf_current :
    (Instr.controlExpiry (Six.fill { delta := 0, current := 2147483648 })).wellFormed = false := by decide +kernel
theorem test_wf_measurement : (Instr.supplyUpdate 65536).wellFormed = false := by decide +kernel
theorem test_wf_data : (Instr.dataRecord .n1 0 []).wellFormed = false := by decide +kernel
theorem test_wf_fire : (Instr.watchFire .n1 2147483648).wellFormed = false := by decide +kernel

/-! ### Values the spec gives -/

/-- R169: the check of the nine digits is 0x29B1. -/
theorem test_crc : crc16 [0x31, 0x32, 0x33, 0x34, 0x35, 0x36, 0x37, 0x38, 0x39] = 0x29B1 := by decide +kernel
theorem test_unassigned : ∀ c : Byte, channelIsUnassigned c = true → handlerOf c = none := by
  intro c h
  simp only [handlerOf]
  split <;> first | rfl | (rename_i hc; simp [channelIsUnassigned, hc] at h)
/-- R39: the three examples. -/
theorem test_compensate : compensate 1000 6000 = 1000 ∧ compensate (-300) 8000 = -270 ∧ compensate 1 7600 = 0 := by
  decide +kernel
/-- R40: the two examples. -/
theorem test_budget : budgeted 1000 857 = 857 ∧ budgeted (-270) 857 = -231 := by decide +kernel
/-- R36: halves away from zero. -/
theorem test_round : roundMicro 550000 = 1 ∧ roundMicro (-500000) = -1 ∧ roundMicro 499999 = 0 := by decide +kernel
/-- R138: the clamp of the output. -/
theorem test_clamp : clamp (-2048) 2047 2048 = 2047 ∧ clamp (-2048) 2047 (-2049) = -2048 := by decide +kernel
/-- R173: numbers in frames. -/
theorem test_numbers : leInt 2 (-1) = [0xFF, 0xFF] ∧ leSigned [0xFE, 0xFF] = -2 ∧ leNat [0x34, 0x12] = 0x1234 := by
  decide +kernel
/-- R175: an INVALID reply has its checks in ascending order, each once. -/
theorem test_invalid : (Reply.invalid [.port, .missingField, .port]).payload = [5, 2, 10, 15] := by decide +kernel
/-- R174: a size past the end, a cut header, and a field twice. -/
theorem test_fields : decodeFields [1, 2, 0] = none ∧ decodeFields [1] = none ∧
    decodeFields [1, 1, 5, 1, 1, 6] = some [(1, [5]), (1, [6])] ∧
    natField 1 [(1, [5]), (1, [6])] = .val 6 := by decide +kernel

/-! ### One step of commands of every block -/

theorem test_setTag : (after (.setTag (ask [1, 2, 3, 4])) up).supply.brickTag = 0x04030201 := by decide +kernel
theorem test_claim : ((after (.claim (rq .remote .ask (field 1 [0]))) (onA large)).motors.ch.get .a).holder =
    some .remote := by decide +kernel
theorem test_queueSegment :
    ((after (.queueSegment (ask (fieldNat 1 1 0 ++ fieldNat 2 1 0 ++ fieldInt 3 2 500 ++ fieldNat 4 2 10)))
      (onA large)).motors.ch.get .a).queue.map (fun g => (g.kind, g.duty, g.duration, g.endAction)) =
    [(SegKind.duty, 500, 10, Rest.brake)] := by decide +kernel
theorem test_controlExpiry :
    ((after (.controlExpiry (Six.fill { delta := 0, current := 0 }))
      (onA { large with queue := [duty10] })).motors.ch.get .a).applied = 500 := by decide +kernel
theorem test_motorIdSample :
    ((after (.motorIdSample (Six.fill .small)) (onA { Channel.reset with idLast := some .small })).motors.ch.get
      .a).gains.kp = 300 := by decide +kernel
theorem test_portIdMeasure :
    ((after (.portIdMeasure .n1 .band2) (onPort { Port.probing with candidate := some .band2 })).port .n1).desc.map
      (fun d => d.kind) = some 252 := by decide +kernel
theorem test_passiveSample :
    ((after (.passiveSample .n1 1200) (onPort passive)).port .n1).ring.map (fun x => x.values) = [[1000]] := by decide +kernel
theorem test_watchFire :
    ((after (.watchFire .n1 5999) (onWatch watch1)).watch.entries.get .n1).map (fun e => (e.state, e.fires)) =
      some (WatchState.fired, 1) := by decide +kernel
theorem test_defineRegion :
    (after (.defineRegion (ask (fieldNat 1 1 3 ++ fieldNat 2 1 0 ++ fieldNat 3 2 65))) up).store.regions.map
      (fun g => (g.id, g.base, g.length, g.extent)) = [(3, 0, 65, 2)] := by decide +kernel
theorem test_writeData :
    (after (.writeData (ask [0xAA, 0, 0x55])) { withRegions [{ clip1 with fill := 0 }] with
      store := { (withRegions [{ clip1 with fill := 0 }]).store with window := some window1 } }).store.mem =
      [(0, 0xAA), (2, 0x55)] := by decide +kernel
theorem test_outputEvent : (after .outputEvent (onVoice tone1)).mixer.output = 498 := by decide +kernel
theorem test_play :
    ((after (.play (ask (fieldNat 1 1 1))) (withRegions [clip1])).mixer.voices.get .n1).state = .head := by decide +kernel
theorem test_ramp :
    (after .volumeRampStep { up with mixer := { up.mixer with target := 161, ramping := true, rampTimer := 4 } }).mixer.volume =
      161 := by decide +kernel
theorem test_supplyUpdate : (after (.supplyUpdate 7000) up).supply.vb = 7175 := by decide +kernel
theorem test_setWindow :
    (after (.setWindow (ask (fieldNat 1 1 1 ++ fieldNat 2 1 0x90 ++ fieldNat 3 1 0x9F ++ fieldNat 4 1 2))) up).router.window1 =
      { base := 0x90, limit := 0x9F, disp := .forward } := by decide +kernel
theorem test_receive :
    (after (.checkMismatch .primary (wireBytes (requestFrame 0x01 (ask [1, 0, 0, 0])))) up).supply.brickTag = 1 := by
  decide +kernel
theorem test_power_on : after (.powerOn 7200 false) up = State.reset := by decide +kernel
theorem test_step_pops : outcomeState (step { State.reset with pending := [.identNoticeDue] }) = some State.reset := by
  decide +kernel

/-! ### States and operands that meet the hypotheses of the statements -/

/-- The part with one link's queues changed. -/
def onLink (l : Link) (f : LinkQueues → LinkQueues) : State :=
  { up with router := up.router.setLink l (f (up.router.link l)) }

/-- The part with an open record of asks from a link, begun at time 0. -/
def onRecord (l : Link) : State :=
  { up with router := up.router.setRecord l (some { channel := 0x90, tag := 9, start := 0, timer := some 200 }) }

/-- The part at a time. -/
def at_ (t : Word32) (s : State) : State := { s with sensors := { s.sensors with time := t } }

/-- The part with a shutdown waiting. -/
def closing (k : ShutdownKind) (elapsed : Nat) (begun : Bool) : State :=
  { up with supply := { up.supply with shutdown := some { kind := k, elapsed := elapsed, begun := begun } } }

/-- The part with a bank record. -/
def onBank (k : Bank) : State := up.setBank .l k

/-- A running compaction. -/
def compacting (plan : List RegionMove) (elapsed : Nat) : Compaction :=
  { plan := plan, due := 2, elapsed := elapsed, moved := 1, asker := some (.primary, 7), soft := false }

/-- The part with a compaction. -/
def onCompaction (k : Compaction) : State :=
  { withRegions [{ clip1 with base := 64 }] with
    store := { (withRegions [{ clip1 with base := 64 }]).store with compaction := some k } }

/-- The part with an upload window. -/
def onWindow (w : Window) : State :=
  { withRegions [{ clip1 with ready := false }] with
    store := { (withRegions [{ clip1 with ready := false }]).store with window := some w } }

/-- The part whose notice queue of a link holds `n` frames of a channel. -/
def noticesOf (l : Link) (n : Nat) (c : Byte) : State :=
  onLink l (fun q => { q with notices := List.replicate n { app .notice with channel := c } })

/-- The host's requests on channels below 0x80, and the tablet's under the mirror window, are admitted. -/
theorem test_hyp_admits : (∀ c : Byte, c.toNat < 128 → up.admits .primary c = true) ∧
    (∀ c : Byte, 0x10 ≤ c.toNat → c.toNat ≤ 0x4F → up.admits .remote c = true) := by decide +kernel

theorem test_hyp_queue : ({ up with pending := [.watchScan] } : State).pending = .watchScan :: [] ∧
    up.pending = [] ∧ up.due = none ∧
    ({ up with sensors := { up.sensors with bankRWait := some 20 } } : State).due = some .bankRPowerUp := by
  decide +kernel

theorem test_hyp_reply : handlerOf 0x04 = some handlePause ∧ handlerOf 0x47 = some handleCompact ∧
    (onCompaction (compacting [] 0)).store.compaction ≠ none ∧ (0x04 : Byte) ≠ 0x47 :=
  ⟨rfl, rfl, by decide +kernel, by decide⟩

theorem test_hyp_forward : up.forwards .primary 0x80 ∧ up.forwards .remote 0xFF ∧
    (onRecord .primary).forwards .primary 0x90 ∧ up.router.record .primary = none ∧
    (onRecord .primary).router.record .primary ≠ none := by
  refine ⟨⟨?_, ?_, ?_⟩, ⟨?_, ?_⟩, ⟨?_, ?_, ?_⟩, ?_, ?_⟩ <;> decide +kernel

theorem test_hyp_reply_match : (onRecord .primary).ready .remote = true ∧
    (onRecord .primary).router.record .primary =
      some { channel := 0x90, tag := 9, start := 0, timer := some 200 } ∧
    up.router.record .primary = none := by decide +kernel

/-- The part with a window that makes every channel local. -/
def allLocal : State :=
  { up with router := { up.router with window0 := { base := 0, limit := 0xFF, disp := .localOnly } } }

theorem test_hyp_denied : allLocal.ready .remote = true ∧ systemChannel 0x0F = true ∧ systemChannel 0x50 = true ∧
    systemChannel 0x5F = true ∧ allLocal.router.disposition 0x5F ≠ .forward ∧
    up.admits .primary 0x4F = true ∧ (handlerOf 0x4F).isNone ∧ (handlerOf 0x7F).isNone ∧
    allLocal.admits .remote 0x90 = true ∧ (handlerOf 0x90).isNone := by decide +kernel

theorem test_hyp_notices : State.reset.router.up = false ∧
    ((noticesOf .primary 15 0x61).router.link .primary).notices.length = 15 ∧
    ((noticesOf .remote 16 0x63).router.link .remote).notices.any isReport = true ∧
    ((noticesOf .primary 16 0x61).router.link .primary).notices.any isReport = false := by decide +kernel

theorem test_hyp_transmit : up.awake = true ∧
    ((onLink .primary (fun q => { q with replies := [app .reply] })).router.link .primary).replies = app .reply :: [] ∧
    ((onLink .remote (fun q => { q with forward := [{ frame := app .ask, entered := 0 }] })).router.link .remote).last =
      .notice ∧
    ((onLink .primary (fun q => { q with notices := [app .notice], last := .forward })).router.link .primary).notices =
      app .notice :: [] ∧
    (up.router.link .primary).forward = [] := by decide +kernel

theorem test_hyp_forward_limits :
    1000 ≤ msSince (at_ 1000 up).now 0 ∧ msSince (at_ 999 up).now 0 < 1000 ∧ msSince 5 0xFFFFFFFF = 6 ∧
    200 ≤ msSince (at_ 200 (onRecord .remote)).now 0 ∧ msSince (at_ 199 (onRecord .remote)).now 0 < 200 ∧
    ((onLink .primary (fun q => { q with forward := [{ frame := app .ask, entered := 0 }] })).router.link
      .primary).forward = { frame := app .ask, entered := 0 } :: [] := by decide +kernel

theorem test_hyp_link_events : State.reset.awake = true ∧ State.reset.router.linked = false ∧
    up.router.linked = true ∧ up.router.up = true ∧ (onRecord .primary).awake = true := by decide +kernel

theorem test_hyp_receiver : up.rx .primary = Receiver.hunting ∧ (app .ask).payload.length ≤ 240 ∧
    (List.replicate 240 (0 : Byte)).length ≤ 240 ∧ (closing .reset 0 false).ready .primary = false ∧
    [(0 : Byte), 0] ≠ leBytes 2 (crc16 (checkedBytes (app .ask))).toNat ∧ 240 < (0xF1 : Byte).toNat ∧
    (0xF0 : Byte).toNat ≤ 240 ∧ 3 < (4 : Byte).toNat ∧
    ((onLink .primary (fun q => { q with rx := { phase := .header, kept := [], idle := 20 } })).rx .primary).phase ≠
      .hunt := by decide +kernel

theorem test_hyp_mirror : up.mirrors .remote 0x10 = true ∧ up.mirrors .primary 0x10 = false ∧
    up.router.primary.notices.length < 16 := by decide +kernel

theorem test_hyp_system : (ask [0, 0, 0, 0]).payload.length = 4 ∧ (ask [0]).payload.length ≠ 4 ∧
    (decodeFields (fieldNat 1 2 1000)).map (natField 1) = some (.val 1000) ∧
    (decodeFields (fieldNat 1 2 4001)).map (natField 1) = some (.val 4001) := by decide +kernel

theorem test_hyp_shutdown : (closing .reset 0 true).waitsFor .reset true = true ∧
    (closing .reset 100 false).waitsFor .reset false = true ∧ (closing .reset 100 false).shutdownOverdue = true ∧
    (closing .reset 99 false).waitsFor .reset true = false ∧ (closing .sleep 0 true).waitsFor .sleep true = true ∧
    (closing .sleep 100 false).waitsFor .sleep false = true ∧ (closing .sleep 100 false).shutdownOverdue = true ∧
    (power .sleep up).supply.power = .sleep ∧ up.supply.power ≠ .sleep := by decide +kernel

theorem test_hyp_reset_timers :
    ({ up with supply := { up.supply with identDue := some { kind := .wake, elapsed := 50 } } } : State).supply.identDue =
      some { kind := .wake, elapsed := 50 } ∧
    up.supply.identDue = some { kind := .powerOn, elapsed := 0 } ∧ up.sensors.bankRWait = some 0 ∧
    ({ up with sensors := { up.sensors with bankRWait := some 20 } } : State).sensors.bankRWait = some 20 := by
  decide +kernel

theorem test_hyp_supply : (up.supply.measured 7200).counted.transition = none ∧
    ({ up.supply with vb := 6299, toEconomy := 99 } : Supply).counted.transition = some .economy ∧
    ({ up.supply with vb := 5599, toCritical := 19 } : Supply).counted.transition = some .critical ∧
    ({ up.supply with power := .economy, vb := 6601, toRun := 99 } : Supply).counted.transition = some .run ∧
    ({ up.supply with power := .critical, vb := 6001, toEconomy := 99 } : Supply).counted.transition = some .economy ∧
    up.supply.limit < 30010 / 10 := by decide +kernel

/-- The fields of a motor request on port A. -/
def portA : Fields := [(1, [0])]

theorem test_hyp_motor : (decodeFields (fieldNat 1 1 0)) = some portA ∧ motorPortField 1 portA = .val .a ∧
    (up.motors.ch.get .a).kind = .none ∧ ((onA large).motors.ch.get .a).kind ≠ .none ∧
    ((onA { large with holder := some .remote }).motors.ch.get .a).holder = some (Link.other .primary) ∧
    ((onA large).motors.ch.get .a).holder ≠ some (Link.other .primary) ∧ (GainFields.read portA).failures = [] ∧
    (enumField 2 restOfCode [(1, [0]), (2, [1])]).need = [] := by decide +kernel

theorem test_hyp_quiet : up.motors.groups = [] ∧ (∀ p, (up.motors.ch.get p).state ≠ .syncWait) ∧
    (∀ p, (up.motors.ch.get p).lostLink = false) ∧ up.motors.pause ≠ .pausing :=
  ⟨rfl, fun p => by cases p <;> decide, fun p => by cases p <;> rfl, by decide⟩

theorem test_hyp_claim : motorPortsField 1 [(1, [0, 5, 0])] = .val [.a, .f, .a] ∧ motorPortsField 1 [(1, [])] = .val [] ∧
    large.holder = none ∧ ({ large with holder := some Link.primary } : Channel).holder = some .primary ∧
    ({ large with state := .fault, holder := some Link.remote } : Channel).state = .fault := by decide +kernel

/-- The fields of a QUEUE_SEGMENT: DUTY 500 for 10 ms. -/
def dutyFields : Fields := [(1, [0]), (2, [0]), (3, [0xF4, 1]), (4, [10])]

/-- A SPEED segment of 2000 dps, above a LARGE motor's 900. -/
def speedFields : Fields := [(1, [0]), (2, [1]), (4, [10]), (5, [0xD0, 7])]

theorem test_hyp_segment :
    (SegmentFields.read dutyFields).used.failures = [] ∧
    (SegmentFields.read dutyFields).used.checks (onA large).motors .primary .a = [] ∧
    (SegmentFields.read speedFields).used.checks (onA large).motors .primary .a = [] ∧
    keptCruise .run .large 2000 = 900 ∧ (SegmentFields.read portA).used.failures = [.missingField] ∧
    (List.replicate 8 duty10).length = 8 ∧ (power .critical (onA large)).supply.power = .critical := by decide +kernel

theorem test_hyp_ranges : (SegmentFields.read dutyFields).duty = .val 500 ∧
    (SegmentFields.read dutyFields).duration = .val 10 ∧ (SegmentFields.read [(6, [100])]).accel = .val 100 ∧
    (SegmentFields.read [(7, [99])]).decel = .val 99 ∧ (SegmentFields.read speedFields).cruise = .val 2000 ∧
    (SegmentFields.read speedFields).kind = .val .speed ∧ (SegmentFields.read [(2, [2])]).kind = .val .moveTo ∧
    (SegmentFields.read [(14, [8])]).syncTag = .val 8 ∧ (SegmentFields.read [(14, [8])]).members = .absent := by
  decide +kernel

theorem test_hyp_stop : enumField 2 restOfCode [(2, [2])] = .val .hold ∧
    enumField 2 restOfCode [(2, [0])] = .val .coast ∧
    ((onA { large with state := .fault }).motors.ch.get .a).state = .fault ∧ large.state = .idle ∧ large.spd = 0 ∧
    large.phase ≠ .stopping ∧ ({ large with phase := .stopping } : Channel).phase = .stopping := by decide +kernel

theorem test_hyp_gains : (GainFields.read [(6, [1])]).defaults = .val true ∧
    (GainFields.read [(2, [0xFF, 0x0F]), (3, [0, 0x10]), (4, [0]), (5, [0x41, 0x42, 0x0F, 0])]).kp = .val 4095 ∧
    (GainFields.read [(2, [0xFF, 0x0F]), (3, [0, 0x10]), (4, [0]), (5, [0x41, 0x42, 0x0F, 0])]).ki = .val 4096 ∧
    (GainFields.read [(5, [0x41, 0x42, 0x0F, 0])]).iLimit = .val 1000001 ∧ (GainFields.read portA).kf = .absent ∧
    (GainFields.read [(2, [0xFF, 0x0F])]).defaults = .absent ∧ (GainFields.read [(2, [0xFF, 0x0F])]).failures = [] ∧
    (GainFields.read [(2, [0, 0, 0])]).failures = [.field] ∧ (GainFields.read [(2, [0, 0, 0])]).defaults = .absent ∧
    enumFieldAs .policy 2 policyOfCode portA = .absent ∧ enumFieldAs .policy 2 policyOfCode [(2, [3])] = .val .immediate ∧
    natField 3 [(3, [50])] = .val 50 ∧ natField 3 [(3, [0xD1, 7])] = .val 2001 := by decide +kernel

/-- A channel held at a boundary with a segment to step. -/
def steppable : Channel := { large with state := .held, resume := some .idle, queue := [duty10] }

/-- The part in a pause state with a channel on port A. -/
def paused (st : PauseState) (c : Channel) : State := { onA c with motors := { (onA c).motors with pause := st } }

theorem test_hyp_pause : up.motors.pause = .running ∧ (paused .paused large).motors.pause ≠ .running ∧
    ((paused .paused steppable).motors.ch.get .a).steppable = true ∧ tone1.playing = true ∧ tone1.state ≠ .frozen ∧
    tone1.free = false := by decide +kernel

theorem test_hyp_no_step : ∀ p, ((paused .paused large).motors.ch.get p).steppable = false := by
  intro p; cases p <;> rfl

theorem test_hyp_arithmetic : (-1000000 : Int) ≤ 90 ∧ (90 : Int) ≤ 1000000 ∧ (0 : Int) < 900000 ∧ (0 : Int) < 90 * 1000000 ∧
    (moveStep 89999999 1 90 900000 4000 4000).phase = .done ∧ (moveStep 90000001 (-1) 90 900000 4000 4000).phase = .done ∧
    (controlLaw MotorKind.large.gains 0 0 0 { integ := 0, uc := 0, sat := true }).uc = 0 := by decide +kernel

theorem test_hyp_endings :
    ({ large with state := .running, current := some duty10, steps := 10 } : Channel).durationUsed duty10 = true ∧
    ({ large with state := .running, current := some duty10, steps := 9 } : Channel).durationUsed duty10 = false ∧
    absInt (move90.target - 88) ≤ move90.tolerance ∧ move90.settleCount ≤ 19 + 1 ∧ ¬ move90.settleCount ≤ 18 + 1 ∧
    move90.settleLimit ≤ 999 + 1 ∧ ¬ absInt (move90.target - 87) ≤ move90.tolerance ∧
    move90.syncTag = 0 ∧ move90.kind ≠ .stop ∧ up.motors.pause = .running := by decide +kernel

theorem test_hyp_stall :
    (900 : Int) ≤ absInt (-900) ∧ up.supply.lambda = 1000 ∧ large.stallTime ≤ 299 + 1 ∧ 298 + 1 < large.stallTime ∧
    2 * (large.kind.ratedCurrent : Int) < absInt 2401 ∧ ¬ 2 * (large.kind.ratedCurrent : Int) < absInt 2400 := by
  decide +kernel

theorem test_hyp_id : motorKindOf .small ≠ Channel.reset.kind ∧ motorKindOf .small ≠ .none ∧
    motorKindOf .openLine = .none ∧ large.kind ≠ .none ∧ motorKindOf .large = large.kind := by decide +kernel

theorem test_hyp_bank : (onBank { Bank.poweredUp with overTime := 4 }).sensors.bankL.state = .on ∧
    (Bank.poweredUp.trip).trips = 1 ∧ ({ Bank.poweredUp with trips := 2 } : Bank).trip.state = .locked ∧
    ({ Bank.poweredUp.trip with retry := 1000 } : Bank).state = .tripped ∧
    natField 1 [(1, [0])] = .val (bankIdCode .l) ∧ natField 1 [(1, [2])] = .val 2 ∧
    (onBank { Bank.poweredUp with state := .locked }).sensors.bankL.state = .locked := by decide +kernel

theorem test_hyp_port_id : Port.unpowered.state = .unpowered ∧ Port.probing.candidate ≠ some .short ∧
    ({ Port.probing with candidate := some IdClass.short } : Port).candidate = some .short ∧ passive.state = .ready ∧
    passive.cls ≠ some .openLine ∧ ({ passive with departing := some IdClass.openLine } : Port).departing =
      some .openLine ∧ ({ passive with cls := some IdClass.band2 } : Port).cls = some .band2 := by decide +kernel

theorem test_hyp_readings : ((onPort passive).port .n1).modeDesc.isSome ∧ ((onPort passive).port .n1).smart = false ∧
    ((onPort smart).port .n1).modeDesc = some mode0 ∧ ((onPort smart).port .n1).smart = true ∧
    [(5 : Int)].length = mode0.valueCount ∧ [(5 : Int), 6].length ≠ mode0.valueCount ∧
    ((onPort { smart with state := .switching }).port .n1).state = .switching := by decide +kernel

/-- A description under way, of one mode. -/
def oneMode : PendingDesc := { kind := 40, count := 1, speed := 57600, modes := [] }

theorem test_hyp_handshake : ((onPort (shaking fresh)).port .n1).hs = some fresh ∧ modeOk oneMode mode0 = true ∧
    modeOk oneMode { mode0 with interval := 9 } = false ∧ modeOk { oneMode with modes := [mode0] } mode0 = false ∧
    ({ oneMode with modes := [mode0] } : PendingDesc).modes.length = oneMode.count ∧ describeOk 250 8 115200 = true ∧
    describeOk 251 1 57600 = false ∧ describeOk 1 1 9600 = false ∧ fresh.attempts < 2 ∧
    ({ fresh with stage := .accepting, pending := some oneMode } : Handshake).stage = .accepting ∧
    100 ≤ ({ fresh with wait := 100 } : Handshake).wait ∧ fresh.wait < 100 := by decide +kernel

theorem test_hyp_silence : max 300 (3 * mode0.interval) ≤ ({ smart with silence := 300 } : Port).silence ∧
    ({ smart with silence := 299 } : Port).silence < max 300 (3 * mode0.interval) ∧
    (Port.enterError .silent smart).state = .error ∧ 500 ≤ ({ smart with errTime := 500 } : Port).errTime ∧
    sensorPortField 1 [(1, [1]), (2, [0])] = .val .n1 ∧ sensorPortField 1 [(1, [8])] = .val .n8 ∧
    smart.desc.map (fun d => d.modes.map (fun m => m.number)) = some [0] := by decide +kernel

theorem test_hyp_status : natField 2 [(2, [16])] = .val 16 ∧ natField 1 [(1, [16])] = .val 16 ∧
    Num16.ofNum 16 = some .n16 ∧ natField 1 [(1, [0])] = .val 0 ∧ up.store.compaction = none := by decide +kernel

/-- A stream of port 1 every 10 ms. -/
def stream1 : Stream :=
  { opener := .primary, dest := .primary, interval := 10, burst := 4, next := 10, marks := [(.n1, 0)] }

theorem test_hyp_streams : up.sensors.streams.get .n1 = none ∧
    (∀ j, ({ up.sensors with streams := Eight.fill (some stream1) } : Sensors).streams.get j ≠ none) ∧
    (∀ j, Num8.num j < Num8.num .n2 → (up.sensors.setStream .n1 (some stream1)).streams.get j ≠ none) ∧
    (up.sensors.setStream .n1 (some stream1)).streams.get .n2 = none ∧ fieldValue 1 [(1, [8, 1])] = some [8, 1] ∧
    (∀ y ∈ ([8, 1] : List Byte), 1 ≤ y.toNat ∧ y.toNat ≤ 8) ∧ natField 2 [(2, [9])] = .val 9 ∧ natField 3 [(3, [16])] = .val 16 ∧
    fieldValue 4 [(1, [8, 1])] = none ∧ natField 4 [(4, [1])] = .val (linkCode .remote) ∧ up.router.up = true ∧
    fieldValue 4 [(4, [1])] ≠ none ∧ State.reset.router.up = false ∧ natField 1 [(1, [1])] = .val (Num8.num .n1) ∧
    (at_ 10 up).now = stream1.next ∧ up.now ≠ stream1.next ∧ stream1.marks.length ≤ 8 := by
  refine ⟨by decide +kernel, ?_, ?_, by decide +kernel⟩
  · intro j; cases j <;> decide +kernel
  · intro j h; cases j <;> first | decide +kernel | exact absurd h (by decide)

theorem test_hyp_report : ∀ p, ∀ z ∈ ((onPort passive).port p).ring, ∀ y, ((onPort passive).port p).modeDesc = some y →
    z.values.length = y.valueCount := by
  intro p z hz
  have h : ((onPort passive).port p).ring = [] := by cases p <;> rfl
  simp [h] at hz

/-- A capture of port 1 into region 2. -/
def capture1 : Capture :=
  { port := .n1, region := 2, index := 0, decim := 1, endMode := .stop, starter := .primary, count := 0, offset := 0,
    written := 0, wrapped := false }

/-- The part with a passive device on port 1, region 2 and captures. -/
def captured (cs : List Capture) : State :=
  { onPort passive with
    sensors := { (onPort passive).sensors with captures := cs }, store := { up.store with regions := [capture2] } }

theorem test_hyp_captures :
    (CaptureFields.read [(1, [1]), (2, [2]), (3, [0]), (4, [100]), (5, [1])]).region = .val 2 ∧
    (CaptureFields.read [(1, [1]), (2, [2]), (3, [0]), (4, [100]), (5, [1])]).decim = .val 100 ∧
    (CaptureFields.read [(1, [1]), (2, [2]), (3, [0]), (4, [100]), (5, [1])]).endMode = .val .wrap ∧
    (captured []).captureRefusal .n1 2 0 = none ∧ (captured []).store.find 2 = some capture2 ∧
    (captured [capture1]).sensors.captureOn .n1 = some capture1 ∧ (captured []).sensors.captureOn .n1 = none ∧
    capture1.decim ≤ capture1.count + 1 ∧ capture1.offset + 2 < capture2.length ∧
    capture2.base + capture1.offset + 1 < storeSize ∧ Memory.wf (captured []).store.mem = true ∧
    ({ capture1 with decim := 2 } : Capture).count + 1 < 2 := by decide +kernel

/-- The fields of a WATCH_SET of entry 1 on the battery. -/
def watchFields : Fields := [(1, [1]), (2, [4]), (3, [1, 0x70, 0x17, 0, 0]), (7, [5, 0, 5])]

theorem test_hyp_watch : natField 1 watchFields = .val (Num16.num .n1) ∧ (WatchFields.read watchFields).bad = [] ∧
    (WatchFields.read portA).bad ≠ [] ∧ deniedOn .primary (some watch1) = false ∧ deniedOn .remote none = false ∧
    watch1.owner = .primary ∧ ({ watch1 with state := .fired } : Watch).state = .fired ∧
    flagField 2 [(2, [1])] = .val true ∧ flagField 2 [(2, [0])] = .val false := by decide +kernel

theorem test_hyp_virtual : intField 2 [(2, [0, 0, 0, 0x80])] = .val (-2147483648) ∧
    intField 2 [(2, [0xFF, 0xFF, 0xFF, 0x7F])] = .val 2147483647 ∧ up.watch.watched .n1 = false := by decide +kernel

theorem test_hyp_fire : (onWatch watch1).watch.entries.get .n1 = some watch1 ∧ (watch1.seen 5999).fires? = true ∧
    (watch1.seen 6000).fires? = false ∧ (∀ a ∈ watch1.actions, ∀ k b, a ≠ .setVirtual k b) ∧
    ({ watch1 with cond := true } : Watch).newCond 6100 = true ∧
    ({ watch1 with cond := true } : Watch).newCond 6101 = false := by
  refine ⟨by decide +kernel, by decide, by decide, ?_, by decide, by decide⟩
  intro a ha k b h
  subst h
  simp [watch1] at ha

theorem test_hyp_regions : idField .id 1 [(1, [24])] = .val 24 ∧ idField .id 1 [(1, [1])] = .val 1 ∧
    enumFieldAs .kind 2 regionKindOfCode [(2, [1])] = .val .capture ∧ natField 3 [(3, [64])] = .val 64 ∧
    natField 3 [(3, [0, 0, 2, 0])] = .val 131072 ∧ up.store.firstFit 2048 = some 0 ∧
    (withRegions [clip1]).store.firstFit 2048 = none ∧ (withRegions [clip1]).store.find 2 = none ∧
    (withRegions (List.replicate 24 clip1)).store.regions.length = 24 ∧
    (withRegions [clip1]).store.inUse (withRegions [clip1]).uses 1 = false ∧
    (onWindow window1).store.inUse (onWindow window1).uses 1 = true := by decide +kernel

theorem test_hyp_clip : (ClipFields.read [(2, [0x40, 0x1F]), (3, [64]), (4, [0]), (5, [0])]).failures = [] ∧
    (ClipFields.read [(2, [0x40, 0x1F]), (3, [64]), (4, [0]), (5, [0])]).checks 64 = [] ∧
    (ClipFields.read [(2, [0x40, 0x1F]), (3, [63]), (4, [0]), (5, [0])]).checks 64 = [.layoutSum] ∧
    (withRegions [clip1]).store.find 1 = some clip1 ∧ (withRegions [clip1]).mixer.plays 1 = false ∧
    natField 2 [(2, [0])] = .val 0 ∧ clip1.layout.map (fun y => y.loop) = some 0 := by decide +kernel

theorem test_hyp_upload : (onWindow window1).store.window = some window1 ∧ up.store.window = none ∧
    enumFieldAs .mode 3 writeModeOfCode [(3, [1])] = .val .wrap ∧ natField 2 [(2, [63])] = .val 63 ∧ 63 < clip1.length ∧
    clip1.length ≤ 64 ∧ (ask [1]).payload ≠ [] ∧ window1.owner = (ask [1]).link ∧
    window1.owner ≠ (rq .remote .ask [1]).link ∧ window1.cursor ≤ clip1.length ∧
    clip1.base + clip1.length ≤ storeSize ∧ window1.accepted + 240 < 4294967296 ∧
    window1.mode = .truncate ∧ ({ window1 with cursor := 64 } : Window).cursor ≤ clip1.length ∧
    ({ window1 with mode := .wrap, cursor := 63 } : Window).cursor < clip1.length ∧
    natField 3 [(3, [240])] = .val 240 := by decide +kernel

theorem test_hyp_compaction :
    (onCompaction (compacting [{ region := 1, base := 0, due := 2 }] 2)).store.find 1 = some { clip1 with base := 64 } ∧
    0 + clip1.extent * 64 ≤ storeSize ∧
    (compacting [] 2).plan = [] ∧ (compacting [] 2).due ≤ (compacting [] 2).elapsed ∧
    (compacting [] 2).asker = some (.primary, 7) ∧
    (∀ g ∈ (withRegions [clip1]).store.regions,
      (withRegions [clip1]).store.inUse (withRegions [clip1]).uses g.id = false) ∧
    compactPlan 0 0 [{ clip1 with base := 64 }] = [{ region := 1, base := 0, due := 2 }] := by decide +kernel

theorem test_hyp_play : (PlayFields.read [(1, [1])]).bad = [] ∧ (PlayFields.read [(1, [1])]).region = .val 1 ∧
    (PlayFields.read []).bad = [.region] ∧ up.mixer.arbiter .run 0 = .free .n1 ∧
    ({ up.mixer with voices := Four.fill tone1 } : Mixer).arbiter .run 0 = .steal .n1 ∧
    ({ up.mixer with voices := Four.fill { tone1 with priority := 1 } } : Mixer).arbiter .run 0 = .refused ∧
    ({ up.mixer with voices := { (Four.fill tone1) with n3 := Voice.cleared } } : Mixer).arbiter .economy 0 =
      .steal .n1 ∧
    (PlayFields.read [(1, [1]), (4, [1])]).pitch = .val 1 ∧ (ToneFields.read []).bad ≠ [] ∧
    ({ up.mixer with startCounter := 4294967295 } : Mixer).startCounter = 4294967295 ∧
    (ToneFields.read [(1, [50]), (2, [1])]).bad = [] ∧ (ToneFields.read [(1, [50]), (2, [1])]).freq = .val 50 ∧
    up.mixer.startCounter < 4294967295 := by decide +kernel

theorem test_hyp_playable : ∃ y, (withRegions [clip1]).store.playable 1 = .ok y ∧ clip1.layout = some y ∧
    (withRegions [clip1]).store.playable 2 = .error (.invalid [.region]) :=
  ⟨_, rfl, rfl, rfl⟩

theorem test_hyp_voices : natField 1 [(1, [1])] = .val (Num4.num .n1) ∧ tone1.playing = true ∧
    Voice.cleared.playing = false ∧ tone1.origin = .primary ∧ ({ tone1 with state := .head } : Voice).state = .head ∧
    ({ tone1 with left := 1 } : Voice).left ≤ 1 ∧ 1 < tone1.left := by decide +kernel

theorem test_hyp_volume : natField 1 [(1, [255])] = .val 255 ∧ natField 1 [(1, [0, 1])] = .val 256 ∧
    flagField 2 [(1, [255])] = .absent ∧ flagField 2 [(2, [1])] = .val true ∧ 160 < 161 ∧
    up.mixer.ramping = false := by decide +kernel

theorem test_hyp_output : ∀ i, (((onVoice tone1).mixer.voices.get i).play (onVoice tone1).store i).cue = none := by
  intro i; cases i <;> decide +kernel

theorem test_hyp_output_cue : ∀ k e g, (onWatch watch1).watch.entries.get k = some e → e.source = .cue g →
    e.state ≠ .active := by
  intro k e g h hg
  have hb : ∀ n : WatchId, ((onWatch watch1).watch.entries.get n).all (fun x => x.source == .battery) = true := by
    intro n; cases n <;> rfl
  have := hb k
  rw [h] at this
  simp [hg] at this

theorem test_hyp_routing : natField 1 [(1, [3])] = .val 3 ∧ natField 1 [(1, [4])] = .val 4 ∧
    enumFieldAs .disposition 4 dispositionOfCode [(4, [2])] = .val .forward ∧
    enumFieldAs .mode 2 abortOfCode [(2, [1])] = .val .strict ∧ fieldValue 2 [(1, [10])] = none ∧
    enumFieldAs .policy 1 lossPolicyOfCode [(1, [1])] = .val .finish ∧ 2550 % 10 = 0 := by decide +kernel

theorem test_hyp_invariants : Memory.wf up.store.mem = true ∧ up.queuesBounded = true ∧ up.supplyInRange = true ∧
    up.drivesInRange = true ∧ (outcomeState (step up)).isSome := by decide +kernel

/-! #### Hypotheses of the clauses on ticks, links, groups, pauses, captures, watches, gaps and clips -/

theorem test_hyp_tick : (power .sleep up).supply.power = .sleep ∧ up.supply.power ≠ .sleep ∧
    (at_ 0xFFFFFFFF up).sensors.time.toNat = 4294967295 ∧ (at_ 0xFFFFFFFF up).tick.sensors.time = 0 := by decide +kernel

theorem test_hyp_no_remote : State.reset.ready .primary = true ∧ 128 ≤ (0x80 : Byte).toNat ∧ 128 ≤ (0xFF : Byte).toNat ∧
    State.reset.router.up = false := by decide +kernel

/-- A host link with the reply of RESET at the head of its queue, and a shutdown 100 ms old. -/
def late (elapsed : Nat) (begun : Bool) : State :=
  { closing .reset elapsed begun with
    router := up.router.setLink .primary { up.router.link .primary with
      replies := [replyFrame 0x02 7 Reply.ok.payload] } }

theorem test_hyp_late_reply : (late 100 false).supply.shutdown = some { kind := .reset, elapsed := 100, begun := false } ∧
    ((late 100 false).router.link .primary).replies = replyFrame 0x02 7 Reply.ok.payload :: [] ∧
    isShutdownReply .reset (replyFrame 0x02 7 Reply.ok.payload) = true ∧ (late 100 false).awake = true ∧
    (late 99 false).supply.shutdown = some { kind := .reset, elapsed := 99, begun := false } ∧
    (late 100 true).supply.shutdown = some { kind := .reset, elapsed := 100, begun := true } := by decide +kernel

/-- A channel of the tablet that runs a segment. -/
def held : Channel := { large with state := .running, current := some duty10, holder := some .remote }

/-- The part with a loss policy. -/
def losing (y : LossPolicy) (c : Channel) : State := { onA c with router := { up.router with lossPolicy := y } }

theorem test_hyp_loss : (losing .stop held).router.lossPolicy = .stop ∧ (losing .finish held).router.lossPolicy = .finish ∧
    (losing .finish held).awake = true ∧ (losing .finish held).router.linked = true ∧
    (losing .finish held).router.up = true ∧ ((losing .stop held).motors.ch.get .a).holder = some .remote ∧
    ((losing .stop { held with state := .fault }).motors.ch.get .a).state = .fault ∧
    ((losing .stop large).motors.ch.get .a).holder ≠ some .remote ∧ held.state ≠ .off ∧ held.state ≠ .fault ∧
    large.lostLink = false ∧
    ((losing .finish { held with current := none }).motors.ch.get .a).queue = [] := by decide +kernel

/-- The end of the run of a channel whose tablet is lost, under either policy. -/
theorem test_loss :
    ((after .linkedFall (losing .stop held)).motors.ch.get .a).rest = .brake ∧
    ((after .linkedFall (losing .stop held)).motors.ch.get .a).holder = none ∧
    ((after .linkedFall (losing .finish held)).motors.ch.get .a).lostLink = true ∧
    ((after .linkedFall (losing .finish held)).motors.ch.get .a).current = some duty10 := by decide +kernel

/-- A DUTY segment of group 1 on ports A and B. -/
def synced : Segment := { duty10 with syncTag := 1, members := [.a, .b] }

/-- The group of ports A and B. -/
def groupAB : Group := { tag := 1, members := [.a, .b] }

/-- A channel that waits at the barrier. -/
def waiting : Channel := { large with state := .syncWait, queue := [synced] }

/-- The part with the group open and channels on its two ports. -/
def grouped (a b : Channel) : State :=
  { up with motors := { (up.motors.setCh .a a).setCh .b b with groups := [groupAB] } }

/-- The group open, with port A waiting and port B before its segment. -/
def halfway : Motors :=
  (grouped waiting { large with state := .running, current := some duty10, queue := [duty10, synced] }).motors

theorem test_hyp_group : halfway.groups = [groupAB] ∧ (∀ q, (halfway.ch.get q).lostLink = false) ∧
    (∀ q, (halfway.ch.get q).state = .syncWait →
      ∃ h rest, (halfway.ch.get q).queue = h :: rest ∧ h.group = groupAB) ∧
    halfway.pause ≠ .pausing ∧ MotorPort.a ∈ groupAB.members ∧ MotorPort.c ∉ groupAB.members ∧
    (halfway.ch.get .a).queue = [] ++ synced :: [] ∧ (halfway.ch.get .b).queue = [duty10] ++ synced :: [] ∧
    synced.group = groupAB ∧ duty10.group ≠ groupAB := by
  refine ⟨rfl, fun q => by cases q <;> rfl, ?_, by decide, by decide, by decide, rfl, rfl, rfl, by decide⟩
  intro q h
  cases q with
  | a => exact ⟨synced, [], rfl, rfl⟩
  | _ => exact absurd h (by decide)

/-- A break of the group: the member that waited goes to IDLE, the segment before it on the other port stays. -/
theorem test_break :
    ((halfway.conclude [.a]).1.ch.get .a).state = .idle ∧ ((halfway.conclude [.a]).1.ch.get .b).queue = [duty10] ∧
    (halfway.conclude [.a]).1.groups = [] ∧ (halfway.conclude [.a]).2.length = 2 := by decide +kernel

theorem test_hyp_cruise : keptCruise .run .small 1200 = 1200 ∧ keptCruise .run .small 1201 = 1200 ∧
    keptCruise .run .large (-901) = -900 ∧ keptCruise .economy .small 841 = 840 ∧
    keptCruise .economy .large (-630) = -630 ∧ keptCruise .economy .large (-631) = -630 := by decide +kernel

/-- A channel under a hold policy, with a segment under way or at the barrier. -/
def policed (y : HoldPolicy) (st : ChState) : Channel :=
  { large with policy := y, state := st, current := if st = .syncWait then none else some move90 }

theorem test_hyp_policies : (policed .free .running).policy = .free ∧ (policed .segmentEnd .syncWait).state = .syncWait ∧
    (policed .queueEnd .running).policy = .queueEnd ∧ (policed .immediate .running).current = some move90 ∧
    (policed .immediate .settling).state = .settling ∧ (policed .immediate .syncWait).state = .syncWait ∧
    ({ large with state := .held, resume := some .settling } : Channel).resume = some .settling := by decide +kernel

/-- PAUSE and RESUME of a MOVE under IMMEDIATE. -/
theorem test_pause :
    ((after (.pause (ask [])) (onA (policed .immediate .running))).motors.ch.get .a).resume = some .running ∧
    ((after (.resume (ask [])) (after (.pause (ask [])) (onA (policed .immediate .settling)))).motors.ch.get .a).state =
      .settling := by decide +kernel

/-- Readings with the largest current that is not counted, 2400 mA of a LARGE motor. -/
def calmest : Six MotorReading := Six.fill { delta := 0, current := 2400 }

theorem test_hyp_take : ((onA { large with queue := [duty10] }).motors.ch.get .a).queue = duty10 :: [] ∧
    large.state = .idle ∧ large.kind ≠ .none ∧
    absInt (calmest.get .a).current ≤ 2 * (large.kind.ratedCurrent : Int) ∧
    (onA large).motors.pause = .running ∧ duty10.syncTag = 0 ∧ duty10.kind ≠ .stop ∧ (onA large).motors.groups = [] ∧
    (∀ q, q ≠ MotorPort.a → ((onA large).motors.ch.get q).kind = .none ∧ ((onA large).motors.ch.get q).state = .off) ∧
    synced.syncTag ≠ 0 ∧ (∃ q ∈ synced.members, q ≠ MotorPort.a) ∧ (onA large).supply.power ≠ .sleep ∧
    (onA large).live = true := by
  refine ⟨rfl, rfl, by decide, by decide, rfl, rfl, by decide, rfl, ?_, by decide, ⟨.b, by decide⟩, by decide,
    by decide +kernel⟩
  intro q h
  cases q <;> first | exact absurd rfl h | exact ⟨rfl, rfl⟩

theorem test_hyp_barrier : (grouped waiting large).motors.groups = [groupAB] ∧
    (∀ p, p ∉ groupAB.members →
      ((grouped waiting large).motors.ch.get p).kind = .none ∧ ((grouped waiting large).motors.ch.get p).state = .off) ∧
    ((grouped waiting large).motors.ch.get .b).state = .idle ∧ ((grouped waiting large).motors.ch.get .b).queue = [] ∧
    ((grouped waiting large).motors.ch.get .a).state = .syncWait ∧ groupAB.members.Nodup ∧
    (∀ p ∈ groupAB.members, ((grouped waiting waiting).motors.ch.get p).state = .syncWait ∧
      ∃ h rest, ((grouped waiting waiting).motors.ch.get p).queue = h :: rest ∧ h.group = groupAB ∧ h.kind ≠ .stop) := by
  refine ⟨rfl, ?_, rfl, rfl, rfl, by decide, ?_⟩
  · intro p h
    cases p <;> first | exact absurd (by decide) h | exact ⟨rfl, rfl⟩
  · intro p h
    cases p <;> first | exact absurd h (by decide) | exact ⟨rfl, synced, [], rfl, rfl, by decide⟩

/-- A group is held while one member has nothing to run, and released in one expiry. -/
theorem test_barrier :
    (after (.controlExpiry calmest) (grouped waiting large)).motors.groups = [groupAB] ∧
    (after (.controlExpiry calmest) (grouped waiting waiting)).motors.groups = [] ∧
    ((after (.controlExpiry calmest) (grouped waiting waiting)).motors.ch.get .a).steps = 1 ∧
    ((after (.controlExpiry calmest) (grouped waiting waiting)).motors.ch.get .b).steps = 1 := by decide +kernel

/-- A STOP with HOLD. -/
def stopHold : Segment := { duty10 with kind := .stop, endAction := .hold }

/-- A channel at the last step of a STOP with HOLD, with a segment behind it. -/
def stopping : Channel :=
  { large with state := .running, current := some stopHold, phase := .stopping, spd := 1, queue := [duty10] }

/-- R5: a STOP with HOLD ends in the expiry of its last step, and the next head takes its first step in it. -/
theorem test_stop_hold : ((after (.controlExpiry calmest) (onA stopping)).motors.ch.get .a).steps = 1 := by
  decide +kernel

theorem test_hyp_capture_end : capture2.length ≤ ({ capture1 with offset := 62 } : Capture).offset + 2 ∧
    ({ capture1 with offset := 60 } : Capture).offset + 2 < capture2.length ∧ capture1.endMode = .stop ∧
    ({ capture1 with endMode := .wrap } : Capture).endMode = .wrap ∧ capture1.written < 4294967295 ∧
    capture2.base + 62 + 1 < storeSize ∧
    (captured [{ capture1 with offset := 62 }]).sensors.captureOn .n1 = some { capture1 with offset := 62 } := by
  decide +kernel

theorem test_hyp_watch_enable : (flagField 2 [(2, [1])]).need = [] ∧ (flagField 2 []).need ≠ [] := by decide +kernel

/-- An entry on virtual input 1 that fires above 10. -/
def watchV (as : List Action) : Watch := { watch1 with source := .virt .n1, cmp := .above 10, actions := as }

theorem test_hyp_watched : (onWatch (watchV [])).watch.watched .n1 = true ∧ ((watchV []).seen 11).fires? = true ∧
    ((watchV []).seen 10).fires? = false ∧ (onWatch (watchV [])).watch.entries.get .n1 = some (watchV []) ∧
    ({ watchV [] with notify := none } : Watch).notify = none ∧
    (onWatch (watchV [])).watch.watched .n2 = false := by decide +kernel

/-- A hypothesis on the actions of the watching entries. -/
theorem test_hyp_watched_plain : ∀ k e, (onWatch (watchV [.notify .primary 5])).watch.entries.get k = some e →
    ∀ a ∈ e.actions, ∀ j b, a ≠ .setVirtual j b := by
  intro k e h a ha j b hab
  have hk : ∀ n : WatchId, ((onWatch (watchV [.notify .primary 5])).watch.entries.get n).all
      (fun x => x.actions == [.notify .primary 5]) = true := by
    intro n; cases n <;> rfl
  have := hk k
  rw [h] at this
  simp only [Option.all_some, beq_iff_eq] at this
  rw [this, hab] at ha
  simp at ha

/-- An entry that writes its own input at every change. -/
def selfish : Watch :=
  { watchV [.setVirtual .n1 12, .setVirtual .n1 13] with cmp := .change, last := some 0, rearm := .edge }

/-- R106: a chain that reaches depth 4 disables its entry for LOOP. -/
theorem test_loop :
    ((after (.setVirtual (ask (fieldNat 1 1 1 ++ fieldInt 2 4 11))) (onWatch selfish)).watch.entries.get .n1).map
      (fun e => e.state) = some (WatchState.disabled .loop) := by decide +kernel

theorem test_hyp_scan : (onWatch { watch1 with source := .motor .a .position }).motors.ch.a.kind = .none ∧
    (Source.battery).scanned up.motors = true ∧ (Source.virt .n1).scanned up.motors = false := by decide +kernel

theorem test_hyp_gap : (withRegions [clip1, capture2]).store.regions.Pairwise
      (fun g h => g.base / 64 + (g.length + 63) / 64 ≤ h.base / 64) ∧
    (∀ g ∈ (withRegions [clip1, capture2]).store.regions, 0 < g.length ∧ g.base / 64 + (g.length + 63) / 64 ≤ 2048) ∧
    (withRegions [clip1, capture2]).store.firstFit 2046 = some 2 ∧
    (withRegions [clip1, capture2]).store.firstFit 2047 = none := by decide +kernel

/-- Clip fields: rate, head, loop, tail, loop start, cue, reverse. -/
def clipFields (loop start cue : Nat) : ClipFields :=
  ClipFields.read [(2, [0x40, 0x1F]), (3, [64]), (4, [BitVec.ofNat 8 loop]), (5, [64]), (6, [BitVec.ofNat 8 start]),
    (7, [BitVec.ofNat 8 cue]), (8, [1])]

theorem test_hyp_clip_checks : (clipFields 64 64 191).rate = .val 8000 ∧ (clipFields 64 64 191).loopStart = .val 64 ∧
    (clipFields 64 64 191).cue = .val 191 ∧ (clipFields 64 64 191).reverse = .val true ∧
    (clipFields 64 64 191).checks 192 = [.loopStart, .reverseLoop] ∧
    (clipFields 64 63 192).checks 192 = [.cueRange, .reverseLoop] ∧
    (clipFields 63 0 0).checks 191 = [.loopShort, .reverseLoop] ∧ (ClipFields.read []).loopStart = .absent ∧
    (ClipFields.read []).rate = .absent := by decide +kernel

theorem test_hyp_free_voice : (onVoice { Voice.cleared with origin := .primary }).mixer.voices.n1.playing = false ∧
    ({ Voice.cleared with origin := .primary } : Voice).origin = .primary ∧ Voice.cleared.origin ≠ .primary := by
  decide +kernel

/-- A clip of 256 bytes: head 64, loop 128 from 64 on, tail 64, cue 100. -/
def layout1 : Layout :=
  { rate := 8000, head := 64, loop := 128, tail := 64, loopStart := 64, cue := some 100, reverse := false }

/-- Its region. -/
def clipLoop : Region := { clip1 with length := 256, fill := 256, layout := some layout1 }

/-- A voice of the clip in a state at a position, with a step of one sample. -/
def clipAt (st : VoiceState) (n : Nat) : Voice :=
  { Voice.cleared with
    state := st, source := some (.region 1), pos := n * 65536, step := 65536, loopCount := 2, volume := 255,
    origin := .primary }

/-- The state, the sample index and the passes after one output event. -/
def played (v : Voice) : VoiceState × Nat × Nat :=
  let w := (v.play (withRegions [clipLoop]).store .n1).voice
  (w.state, w.pos / 65536, w.passes)

theorem test_hyp_clip_voice : (withRegions [clipLoop]).store.find 1 = some clipLoop ∧ clipLoop.layout = some layout1 ∧
    played (clipAt .head 62) = (.head, 63, 0) ∧ played (clipAt .head 63) = (.loop, 64, 0) ∧
    played { clipAt .head 63 with release := true } = (.tail, 192, 0) ∧
    played (clipAt .loop 190) = (.loop, 191, 0) ∧ played (clipAt .loop 191) = (.loop, 128, 1) ∧
    played { clipAt .loop 191 with passes := 1 } = (.tail, 192, 2) ∧
    played { clipAt .loop 191 with release := true } = (.tail, 192, 1) ∧
    played (clipAt .tail 254) = (.tail, 255, 0) ∧ played (clipAt .tail 255) = (.free, 256, 0) := by decide +kernel

/-- The same clip played backward, its loop taken out. -/
def backward : Region :=
  { clipLoop with layout := some { layout1 with head := 192, loop := 0, loopStart := 0, reverse := true } }

theorem test_hyp_backward :
    ((clipAt .tail 1).play (withRegions [backward]).store .n1).voice.pos = 0 ∧
    ((clipAt .tail 0).play (withRegions [backward]).store .n1).voice.state = .free ∧
    (((clipAt .tail 100).play (withRegions [clipLoop]).store .n1).cue).isSome ∧
    ({ clipAt .loop 101 with pathMark := 101 }.play (withRegions [clipLoop]).store .n1).cue = none := by decide +kernel

theorem test_hyp_wait_alone : natField 1 [(1, [10])] = .val 10 ∧ fieldValue 2 [(1, [10])] = none ∧
    natField 1 [(1, [0])] = .val 0 ∧ natField 1 [(1, [0xF6, 9])] = .val 2550 ∧ 2550 % 10 = 0 := by decide +kernel

theorem test_hyp_speed_down : (speedStep 0 0 (-5) 2 3).spd = -2 ∧ (speedStep 0 (-4) (-5) 2 3).spd = -5 ∧
    (speedStep 0 (-5) (-5) 2 3).spd = -5 ∧ (speedStep 0 (-9) (-5) 2 3).spd = -6 ∧ (speedStep 0 (-9) 5 2 3).spd = -6 ∧
    (speedStep 0 (-1) 5 2 3).spd = 0 := by decide +kernel

/-- A FROZEN voice of the host. -/
def frozen (st : VoiceState) : Voice := { tone1 with state := .frozen, prior := some st }

/-- Voice 1 after the host's RELEASE_VOICE: its state and its release flag. -/
def released (v : Voice) : VoiceState × Bool :=
  let w := (after (.releaseVoice (ask (fieldNat 1 1 1))) (onVoice v)).mixer.voices.n1
  (w.state, w.release)

theorem test_hyp_frozen : (frozen .tone).playing = true ∧ up.store.compaction = none ∧
    released (frozen .head) = (.frozen, true) ∧ released (frozen .loop) = (.frozen, true) ∧
    released (frozen .tail) = (.frozen, false) ∧ released (frozen .tone) = (.free, false) ∧
    released tone1 = (.free, false) := by decide +kernel

/-- The part with a LARGE motor at 5 degrees on port A and watch entry 1 on a source. -/
def scanning (x : Source) (c : Comparison) : State :=
  { onA { large with enc := 5, mA := 40, stallTimer := 7 } with
    watch := up.watch.setEntry .n1 (some { watch1 with source := x, cmp := c }) }

/-- The state of entry 1 after a scan. -/
def scannedTo (x : Source) (c : Comparison) : Option WatchState :=
  ((after .watchScan (scanning x c)).watch.entries.get .n1).map (fun e => e.state)

theorem test_hyp_scanned : (scanning .battery (.above 0)).supply.power ≠ .sleep ∧
    ((scanning .battery (.above 0)).motors.ch.get .a).kind ≠ .none ∧ watch1.state = .active ∧
    scannedTo .battery (.equal up.supply.vb) = some .fired ∧ scannedTo (.motor .a .position) (.equal 5) = some .fired ∧
    scannedTo (.motor .a .speed) (.equal 500) = some .fired ∧ scannedTo (.motor .a .current) (.equal 40) = some .fired ∧
    scannedTo (.motor .a .stall) (.equal 7) = some .fired ∧ scannedTo (.motor .b .position) (.equal 0) = some .active ∧
    scannedTo (.virt .n1) (.equal 0) = some .active ∧ (∀ a ∈ watch1.actions, ∀ j b, a ≠ .setVirtual j b) ∧
    motorSpeed 21474836 = 2147483600 ∧ motorSpeed (-21474836) = -2147483600 ∧ (2147483647 : Int) < 21474837 * 100 := by
  refine ⟨by decide, by decide, rfl, by decide +kernel, by decide +kernel, by decide +kernel, by decide +kernel,
    by decide +kernel, by decide +kernel, by decide +kernel, ?_, by decide +kernel, by decide +kernel, by decide⟩
  simp [watch1]

/-- What a PLAY action of region 1 answers, and the state of voice 1 after it. -/
def playing (s : State) (priority : Nat) : ActionResult × VoiceState :=
  let x := s.reach.play s.watchFeed 1 200 priority
  (x.2, (x.1.mixer.voices.get .n1).state)

/-- The clip's region, with every voice taken by a tone of priority 2. -/
def crowded : State :=
  { withRegions [clip1] with mixer := { up.mixer with voices := Four.fill { tone1 with priority := 2 } } }

theorem test_hyp_play_action : playing (onCompaction (compacting [] 0)) 1 = (.refused .busy, .free) ∧
    playing (power .critical (withRegions [clip1])) 1 = (.refused .power, .free) ∧
    playing up 1 = (.refused .invalid, .free) ∧ playing (withRegions [{ capture2 with id := 1 }]) 1 = (.refused .invalid, .free) ∧
    playing (withRegions [{ clip1 with layout := none }]) 1 = (.refused .access, .free) ∧
    playing (withRegions [{ clip1 with ready := false }]) 1 = (.refused .access, .free) ∧
    playing (withRegions [clip1]) 1 = (.doneVoice .n1, .head) ∧ playing crowded 1 = (.refused .noVoice, .tone) ∧
    playing crowded 2 = (.doneVoice .n1, .head) ∧ (crowded.reach.stopVoices crowded.watchFeed).2 = .doneCount 4 ∧
    (up.reach.stopVoices up.watchFeed).2 = .doneCount 0 := by decide +kernel

/-- BRAKE on ports A and B with a channel on A and no motor on B. -/
def braked (c : Channel) : Motors × List Sent × List MotorPort := (onA c).motors.watchCut true .brake [.b, .a]

theorem test_hyp_cut : (braked held).2.2 = [.b] ∧ (braked { held with state := .fault }).2.2 = [.a, .b] ∧
    ((braked held).1.ch.get .a).current = none ∧ ((braked held).1.ch.get .a).drive = .shorted ∧
    ((braked held).1.ch.get .a).holder = some .remote ∧
    ((braked { held with lostLink := true }).1.ch.get .a).holder = none ∧ (onA held).motors.groups = [] ∧
    (onA held).motors.pause ≠ .pausing ∧
    ((grouped waiting waiting).motors.watchCut true .coast [.a]).1.groups = [] := by decide +kernel

theorem test_hyp_still : ∀ p, ((onA held).motors.ch.get p).state ≠ .syncWait := by intro p; cases p <;> decide

/-- A watch entry on a value of a mode of sensor port 1. -/
def watchPort (st : WatchState) (mode index : Nat) : Watch :=
  { watch1 with state := st, source := .sensor .n1 mode index, cmp := .equal 1000, last := some 3 }

/-- Entry 1 and its last value after a reading of 2000, past the range of the passive device on port 1. -/
def heardBy (q : Port) (e : Watch) : Option (WatchState × Option Int) :=
  ((after (.passiveSample .n1 2000) { onPort q with watch := up.watch.setEntry .n1 (some e) }).watch.entries.get .n1).map
    (fun e => (e.state, e.last))

/-- The passive port in SWITCHING. -/
def switching : Port := { passive with state := .switching }

theorem test_hyp_sensor_entry : heardBy passive (watchPort .active 0 0) = some (.fired, some 1000) ∧
    heardBy passive (watchPort .dormant 0 0) = some (.dormant, some 3) ∧
    heardBy passive (watchPort .fired 0 0) = some (.fired, some 3) ∧
    heardBy passive { watchPort .active 0 0 with source := .battery } = some (.active, some 3) ∧
    heardBy switching (watchPort .dormant 0 0) = some (.fired, some 1000) ∧
    heardBy switching (watchPort .dormant 1 0) = some (.dormant, some 3) ∧
    heardBy switching (watchPort .dormant 0 1) = some (.dormant, some 3) ∧
    heardBy switching (watchPort .active 1 0) = some (.dormant, some 3) ∧
    heardBy switching (watchPort .fired 0 0) = some (.fired, some 3) ∧
    (∀ x ∈ (onPort switching).sensors.captures, x.port ≠ .n1) := by decide +kernel

theorem test_hyp_bad_wait_beside_mode : natField 1 [(1, [5]), (2, [0])] = .val 5 ∧
    (enumFieldAs .mode 2 abortOfCode [(1, [5]), (2, [0])]).need = [] ∧ natField 1 [(1, [0, 0x0A]), (2, [0])] = .val 2560 ∧
    natField 1 [(1, [11]), (2, [0])] = .val 11 := by decide +kernel

/-! #### Hypotheses of the clauses on power states, link lines, segment checks, frozen voices, entries, plans and reports -/

/-- The dwell counts toward ECONOMY, CRITICAL and RUN after an update, and the transition that is due, a choice between two
aside. -/
def dwelt (p : PowerState) (vb toEconomy toCritical toRun : Nat) : (Nat × Nat × Nat) × Option PowerState :=
  let x : Supply :=
    { up.supply with power := p, vb := vb, toEconomy := toEconomy, toCritical := toCritical, toRun := toRun }
  ((x.counted.toEconomy, x.counted.toCritical, x.counted.toRun), x.counted.transition)

theorem test_hyp_dwell :
    [dwelt .run 6299 98 0 0, dwelt .run 6299 99 0 0, dwelt .run 6300 99 0 0, dwelt .run 5599 0 18 0,
      dwelt .run 5599 0 19 0, dwelt .run 5600 0 19 0, dwelt .economy 6600 0 0 99, dwelt .economy 6601 0 0 99,
      dwelt .economy 5599 0 19 0, dwelt .critical 6000 99 0 0, dwelt .critical 6001 98 0 0, dwelt .critical 6001 99 0 0] =
    [((99, 0, 0), none), ((100, 0, 0), some .economy), ((0, 0, 0), none), ((1, 19, 0), none),
      ((1, 20, 0), some .critical), ((1, 0, 0), none), ((0, 0, 0), none), ((0, 0, 100), some .run),
      ((0, 20, 0), some .critical), ((0, 0, 0), none), ((99, 0, 0), none), ((100, 0, 0), some .economy)] ∧
    (dwelt .run 5599 99 19 0).1 = (100, 20, 0) := by decide +kernel

/-- The part with a channel on port A and a tone on voice 3, its battery at `mv` in a power state and one update before the
transitions by dwell. -/
def brink (p : PowerState) (mv : Nat) (c : Channel) : State :=
  { onA c with
    mixer := { up.mixer.setVoice .n3 tone1 with amp := p != .critical }
    supply := { up.supply with power := p, history := List.replicate 8 mv, toEconomy := 99, toCritical := 19 } }

/-- State, rest action, drive and holder of port A, the state of voice 3 and the amplifier after a supply update. -/
def sagged (p : PowerState) (mv : Nat) (c : Channel) : (ChState × Rest × Drive × Option Link) × VoiceState × Bool :=
  let t := after (.supplyUpdate mv) (brink p mv c)
  let d := t.motors.ch.get .a
  ((d.state, d.rest, d.drive, d.holder), (t.mixer.voices.get .n3).state, t.mixer.amp)

/-- A channel that rests in BRAKE. -/
def resting (st : ChState) (y : Rest) : Channel := { large with state := st, rest := y, heldAction := some .brake }

theorem test_hyp_power :
    [sagged .economy 5500 held, sagged .economy 5500 { held with lostLink := true },
      sagged .economy 5500 (resting .idle .brake), sagged .economy 5500 { held with state := .fault },
      sagged .run 6200 (resting .idle .brake), sagged .critical 6100 (resting .idle .brake),
      sagged .critical 6100 (resting .held .coast), sagged .critical 6100 (resting .idle .coast)] =
    [((.idle, .coast, .off, some .remote), .free, false), ((.idle, .coast, .off, none), .free, false),
      ((.idle, .brake, .off, none), .free, false), ((.fault, .coast, .off, some .remote), .free, false),
      ((.idle, .brake, .off, none), .free, true), ((.idle, .brake, .shorted, none), .free, true),
      ((.held, .coast, .shorted, none), .free, true), ((.idle, .coast, .off, none), .free, true)] ∧
    (brink .critical 6100 held).supply.counted.transition = some .economy ∧
    ((grouped waiting waiting).motors.enterCritical.1.ch.get .b).state = .idle ∧ held.queue = [] := by decide +kernel

theorem test_hyp_lines : up.router.linked = true ∧ State.reset.router.linked = false ∧ up.awake = true ∧
    State.reset.awake = true ∧ State.reset.router.up = false ∧ (closing .reset 5 true).awake = true ∧
    (after .linkReset (closing .reset 5 true)).supply.shutdown = some { kind := .reset, elapsed := 5, begun := false } ∧
    (after .linkReset (onCompaction (compacting [] 0))).store.compaction.map (fun k => k.asker) = some none := by
  decide +kernel

/-- The failed checks of a segment for port A of the host, motors on A and B, B unheld. -/
def failed (fs : Fields) : List Check :=
  (SegmentFields.read fs).used.checks (grouped large large).motors .primary .a

theorem test_hyp_move_checks :
    failed [(2, [3]), (5, [1]), (9, [1])] = [] ∧ failed [(2, [3]), (5, [0]), (9, [0])] = [.speedRange, .targetRange] ∧
    failed [(2, [3]), (5, [0xD1, 7]), (9, [0x40, 0x42, 0x0F, 0])] = [.speedRange] ∧
    failed [(2, [2]), (5, [0xD0, 7]), (8, [0xC0, 0xBD, 0xF0, 0xFF])] = [] ∧
    failed [(2, [2]), (5, [1]), (8, [0x41, 0x42, 0x0F, 0])] = [.targetRange] ∧
    failed [(2, [2]), (10, [30]), (11, [1]), (12, [10])] = [] ∧
    failed [(2, [2]), (10, [31]), (11, [0]), (12, [9])] = [.toleranceRange, .toleranceRange, .toleranceRange] ∧
    failed [(2, [2]), (11, [255]), (12, [254, 0])] = [.settleOrder] ∧ failed [(2, [2]), (12, [19])] = [.settleOrder] ∧
    failed [(2, [2]), (12, [20])] = [] ∧ failed [(14, [7]), (15, [0])] = [] ∧ failed [(14, [8]), (15, [0])] = [.syncMask] ∧
    failed [(14, [1]), (15, [1])] = [.syncMask] ∧ failed [(14, [1]), (15, [0, 1])] = [.syncMask] ∧
    failed [(14, [1]), (15, [0, 2])] = [.syncMask] ∧ failed [(14, [0]), (15, [1])] = [] ∧ failed [(2, [2]), (3, [0, 8])] = [] ∧
    (SegmentFields.read [(2, [2]), (8, [5])]).distance = .absent ∧
    (SegmentFields.read [(2, [3]), (9, [5])]).target = .absent ∧
    (SegmentFields.read [(2, [3])]).kind = .val .moveBy := by decide +kernel

theorem test_hyp_freeze : ((onVoice tone1).mixer.freeze.voices.get .n1) = frozen .tone ∧
    ((onVoice { tone1 with free := true }).mixer.freeze.voices.get .n1) = { tone1 with free := true } ∧
    ((onVoice (frozen .loop)).mixer.freeze.voices.get .n1) = frozen .loop ∧
    ((onVoice (frozen .tone)).mixer.unfreeze.voices.get .n1) = tone1 ∧
    ((onVoice tone1).mixer.unfreeze.voices.get .n1) = tone1 ∧ (frozen .tone).prior = some .tone := by decide +kernel

theorem test_hyp_mode : modeOk oneMode { mode0 with valueCount := 4, interval := 10, min := -32768, max := 32767 } = true ∧
    modeOk oneMode { mode0 with valueCount := 5 } = false ∧ modeOk oneMode { mode0 with valueCount := 0 } = false ∧
    modeOk oneMode { mode0 with interval := 9 } = false ∧ modeOk oneMode { mode0 with interval := 1001 } = false ∧
    modeOk oneMode { mode0 with max := 32768 } = false ∧ modeOk oneMode { mode0 with min := 101 } = false ∧
    modeOk oneMode { mode0 with format := .int8, min := -129 } = false ∧ modeOk oneMode { mode0 with number := 1 } = false ∧
    modeOk { oneMode with count := 0 } mode0 = false := by decide +kernel

/-- A port whose ring holds two samples. -/
def sampled : Port :=
  { passive with
    arrival := 2
    ring := [{ time := 5, mode := 0, values := [300], arrival := 1 }, { time := 6, mode := 0, values := [-1], arrival := 2 }] }

/-- A stream on port 1 with a burst and a mark. -/
def streaming (burst : Nat) (mark : Word32) : Machine.Stream := { stream1 with burst := burst, marks := [(.n1, mark)] }

/-- The bytes of the one section of its report, and the mark after it. -/
def reported (q : Port) (burst : Nat) (mark : Word32) : List (List Byte) × List Word32 :=
  (((onPort q).reportSections (streaming burst mark)).map (fun z => z.bytes),
    ((onPort q).movedMarks (streaming burst mark)).map (fun m => m.2))

theorem test_hyp_sections :
    reported sampled 2 0 = ([[1, 3, 255, 0, 0x11, 2, 6, 0, 0, 0, 0, 0xFF, 0xFF, 5, 0, 0, 0, 0, 0x2C, 1]], [2]) ∧
    reported sampled 1 0 = ([[1, 3, 255, 0, 0x11, 129, 6, 0, 0, 0, 0, 0xFF, 0xFF]], [2]) ∧
    reported sampled 2 2 = ([[1, 3, 255, 0, 0x11, 0]], [2]) ∧
    reported { sampled with state := .switching } 2 0 = ([[1, 4, 255, 0, 255, 0]], [0]) ∧
    reported { sampled with state := .error, reason := some .silent } 2 0 = ([[1, 5, 2, 0, 255, 0]], [0]) ∧
    sampled.modeDesc.isSome := by decide +kernel

/-- The state and the latch of entry 1 after a request of the host. -/
def entryAfter (c : Instr) (e : Watch) : Option (WatchState × Bool) :=
  ((after c (onWatch e)).watch.entries.get .n1).map (fun e => (e.state, e.latch))

/-- An EDGE entry that has fired and stays latched. -/
def latched : Watch := { watch1 with rearm := .edge, latch := true, cond := true }

theorem test_hyp_rearm : entryAfter (.watchRearm (ask [1, 1, 1])) latched = some (.active, false) ∧
    entryAfter (.watchRearm (ask [1, 1, 1])) { latched with rearm := .once } = some (.active, true) ∧
    entryAfter (.watchRearm (ask [1, 1, 1])) { latched with state := .dormant } = some (.dormant, true) ∧
    entryAfter (.watchEnable (ask [1, 1, 1, 2, 1, 1])) latched = some (.active, true) ∧
    entryAfter (.watchEnable (ask [1, 1, 1, 2, 1, 0])) { latched with state := .disabled .loop } =
      some (.disabled .byRequest, true) ∧
    deniedOn .primary (some latched) = false ∧ up.watch.entries.get .n1 = none ∧
    flagField 2 [(2, [0])] = .val false := by decide +kernel

/-- The failed checks of a WATCH_SET of the battery with a comparison and an action, other fields in front of them. -/
def badEntry (fs : Fields) (c a : List Byte) : List Check := (WatchFields.read (fs ++ [(2, [4]), (3, c), (7, a)])).bad

theorem test_hyp_bad_entry : badEntry [] [2, 5, 0, 0, 0, 5, 0, 0, 0] [3] = [] ∧
    badEntry [] [2, 5, 0, 0, 0, 4, 0, 0, 0] [3] = [.comparison] ∧
    badEntry [(4, [2])] [3, 0, 0, 0, 0, 4, 0, 0, 0] [3] = [] ∧
    badEntry [(4, [2])] [3, 0, 0, 0, 0, 3, 0, 0, 0] [3] = [.comparison] ∧
    badEntry [(4, [0, 0, 1, 0]), (5, [51]), (6, [2]), (8, [2])] [5] [6] =
      [.range, .range, .range, .range, .actions] ∧
    badEntry [(4, [0xFF, 0xFF]), (5, [50]), (6, [1]), (8, [1])] [5] [3] = [] ∧
    badEntry [(7, [3]), (7, [3]), (7, [3])] [5] [3] = [.actions] ∧
    (WatchFields.read []).bad = [.source, .comparison, .actions] := by decide +kernel

theorem test_hyp_parts : parseSource [0, 8, 7, 3] = .val (.sensor .n8 7 3) ∧ parseSource [0, 9, 7, 3] = .invalid ∧
    parseSource [0, 8, 8, 3] = .invalid ∧ parseSource [1, 5, 3] = .val (.motor .f .stall) ∧
    parseSource [2, 9] = .invalid ∧ parseSource [3, 25] = .invalid ∧ parseSource [5] = .invalid ∧
    parseComparison [6] = .invalid ∧ parseAction [0] = .invalid ∧ parseAction [1, 6] = .invalid ∧
    parseAction [2, 24, 255, 7] = .val (.play 24 255 7) ∧ parseAction [2, 24, 255, 8] = .invalid ∧
    parseAction [4, 8, 2] = .invalid ∧ parseAction [5, 2, 0] = .invalid ∧ parseAction [6] = .invalid := by
  decide +kernel

/-- R124: of three regions the first lies in its place, and the other two move over the gap. -/
theorem test_hyp_plan :
    compactPlan 0 0 [clip1, { clip1 with id := 2, base := 128, length := 4033 }, { clip1 with id := 3, base := 8192 }] =
      [{ region := 2, base := 64, due := 2 }, { region := 3, base := 4160, due := 3 }] ∧
    planDue [{ region := 2, base := 64, due := 2 }, { region := 3, base := 4160, due := 3 }] = 3 ∧
    compactPlan 0 0 [clip1, capture2] = [] := by decide +kernel

theorem test_hyp_sound_checks :
    (PlayFields.read [(1, [25]), (2, [0, 1]), (3, [8]), (5, [0, 1])]).bad = [.region, .volume, .priority, .loopCount] ∧
    (PlayFields.read [(1, [24]), (2, [255]), (3, [7]), (5, [255])]).bad = [] ∧
    (PlayFields.read [(1, [1, 0, 0])]).bad = [.field] ∧
    (ToneFields.read [(1, [49]), (2, [0]), (3, [0, 1]), (4, [8])]).bad =
      [.frequency, .duration, .volume, .priority] ∧
    (ToneFields.read [(1, [0x40, 0x1F]), (2, [0x60, 0xEA])]).bad = [] ∧
    (ToneFields.read [(1, [0x41, 0x1F]), (2, [0x61, 0xEA])]).bad = [.frequency, .duration] ∧
    (ToneFields.read []).bad = [.missingField, .missingField] := by decide +kernel

/-- The options of a start without a free flag. -/
def plainStart : StartOptions := { volume := 1, priority := 0, free := false, notify := true, origin := .primary }

theorem test_hyp_kinds : (withRegions [capture2]).store.find 2 = some capture2 ∧ capture2.kind = .capture ∧
    clip1.kind = .clip ∧ (onWindow window1).store.windowOn 1 = true ∧ (withRegions [clip1]).store.windowOn 1 = false ∧
    clip1.ready = true ∧ (toneVoice true 440 60000 plainStart).state = .frozen ∧
    (toneVoice true 440 60000 { plainStart with free := true }).left = 1920000 := by decide +kernel

/-- Voice 1 of the clip at its cue, with entry 1 on the cue of region 1. -/
def cueing (e : Watch) : State :=
  { withRegions [clipLoop] with
    mixer := up.mixer.setVoice .n1 { clipAt .loop 100 with pathMark := 100 }
    watch := up.watch.setEntry .n1 (some { e with source := .cue 1, cmp := .equal 1, last := none }) }

/-- Entry 1 after one output event: its state, last value and fire count. -/
def cued (e : Watch) : Option (WatchState × Option Int × Nat) :=
  ((after .outputEvent (cueing e)).watch.entries.get .n1).map (fun e => (e.state, e.last, e.fires))

theorem test_hyp_heard_cue : cued watch1 = some (.fired, some 1, 1) ∧ cued latched = some (.active, some 1, 0) ∧
    cued { watch1 with state := .fired } = some (.fired, none, 0) ∧
    (Num4.all.filterMap (fun i => (((cueing watch1).mixer.voices.get i).play (cueing watch1).store i).cue)).length = 1 ∧
    (cueing watch1).supply.power ≠ .sleep := by decide +kernel

theorem test_hyp_heard_plain : ∀ k e, (cueing watch1).watch.entries.get k = some e → ∀ a ∈ e.actions, ∀ j b,
    a ≠ .setVirtual j b := by
  intro k e h a ha j b hab
  have hk : ∀ n : WatchId, ((cueing watch1).watch.entries.get n).all
      (fun x => x.actions == [.notify .primary 5]) = true := by
    intro n; cases n <;> rfl
  have := hk k
  rw [h] at this
  simp only [Option.all_some, beq_iff_eq] at this
  rw [this, hab] at ha
  simp at ha

theorem test_hyp_soft : (onBank { Bank.poweredUp with state := .locked }).sensors.bankL.state = .locked ∧
    (after (.softReset 4999) (closing .reset 0 true)).supply.vb = 5000 ∧
    (after (.softReset 9001) (closing .reset 0 true)).supply.vb = 9000 ∧ up.store.compaction = none ∧
    ((onBank { Bank.poweredUp with state := .locked }).soft 7200).sensors.bankL.state = .on := by decide +kernel

/-- The prior state of a FROZEN voice by its own list: HEAD 0 to TONE 3. -/
theorem test_prior : [VoiceState.head, .loop, .tail, .tone].map (fun z => (frozen z).statusBytes.take 2) =
    [[5, 0], [5, 1], [5, 2], [5, 3]] ∧ tone1.statusBytes.take 2 = [4, 255] := by decide +kernel

theorem test_hyp_no_frame : up.awake = true ∧ State.reset.awake = true ∧ State.reset.router.up = false ∧
    ((after (.transmitFrame .primary false) (noticesOf .primary 1 0x61)).router.link .primary).notices.length = 1 ∧
    ((after (.transmitFrame .primary true) (noticesOf .primary 1 0x61)).router.link .primary).notices = [] := by
  decide +kernel

/-- The part with an open record of the host's ASK and entries in the forward queue to the tablet, 1000 ms on. -/
def dropping (es : List Forward) : State :=
  at_ 1000 { onRecord .primary with router :=
    (onRecord .primary).router.setLink .remote { ((onRecord .primary).router.link .remote) with forward := es } }

/-- An entry of the forward queue, 1000 ms old. -/
def aged (c : FrameClass) : Forward := { frame := app c, entered := 0 }

/-- Whether the record is still open after the drop of the oldest entry, and the replies that the drop gives. -/
def dropped (es : List Forward) : Bool × Nat :=
  let t := after (.forwardAgeLimit .remote) (dropping es)
  ((t.router.record .primary).isSome, (t.router.link .primary).replies.length)

theorem test_hyp_drop : ((dropping [aged .ask]).router.record .primary).any (fun r => isAskOf r (aged .ask)) = true ∧
    ((dropping []).router.record .primary).any (fun r => isAskOf r (aged .notice)) = false ∧
    dropped [aged .ask] = (false, 1) ∧ dropped [aged .notice] = (true, 0) ∧ dropped [aged .ask, aged .ask] = (true, 0) := by
  decide +kernel

/-- Whether a port event ends the capture on port 1, and how many notices the host gets. -/
def portTold (c : Instr) (q : Port) : Bool × Nat :=
  let s : State := { (captured [capture1]).setPort .n1 q with store := (captured [capture1]).store }
  let t := after c s
  (t.sensors.captures.isEmpty, (t.router.link .primary).notices.length)

theorem test_hyp_port_told : ((captured [capture1]).captureEnds .n1 .detached).length = 1 ∧
    (captured []).captureEnds .n1 .detached = [] ∧ (.n1 : SensorPort) ∈ BankId.l.ports ∧
    (captured [capture1]).sensors.bankL.state = .on ∧
    portTold (.portIdMeasure .n1 .openLine) { passive with cls := some .band2, departing := some .openLine } = (true, 2) ∧
    portTold (.bankCurrentMeasure .l 251) passive = (false, 0) ∧
    portTold (.silenceTimeout .n1) { smart with silence := 300 } = (true, 2) ∧
    portTold (.selectMode (ask [1, 1, 1, 2, 1, 0])) passive = (true, 1) ∧
    portTold (.portIdMeasure .n1 .band2) { Port.probing with candidate := some .band2 } = (false, 1) := by
  decide +kernel

/-- The written count of the capture on port 1 after a reading, and how many notices the host gets. -/
def recorded (c : Instr) (q : Port) : Option Nat × Nat :=
  let t := after c { (captured [capture1]).setPort .n1 q with store := (captured [capture1]).store }
  ((t.sensors.captureOn .n1).map (fun x => x.offset), (t.router.link .primary).notices.length)

theorem test_hyp_recorded : recorded (.passiveSample .n1 500) passive = (some 2, 0) ∧
    recorded (.passiveSample .n1 500) switching = (some 2, 1) ∧ recorded (.dataRecord .n1 0 [5]) smart = (some 2, 0) ∧
    recorded (.dataRecord .n1 1 [5]) smart = (some 0, 0) := by decide +kernel

/-- A channel in a state, with a segment current, in phase STOPPING at a rate of 4000. -/
def slowing (st : ChState) (g : Option Segment) (spd : Int) : Channel :=
  { large with state := st, current := g, phase := .stopping, spd := spd, stopRate := 4000 }

/-- Port A after a control expiry: q, S, u_c, its state and its drive. -/
def driven (c : Channel) : (Int × Int × Int) × ChState × Drive :=
  let d := (after (.controlExpiry calmest) (onA c)).motors.ch.get .a
  ((d.q, d.spd, d.uc), d.state, d.drive)

theorem test_hyp_goes_on : large.stallTimer + 1 < large.stallTime ∧ (0 : Nat) < duty10.duration ∧
    (stopStep (slowing .running (some stopHold) 4001).profile 4000).spd ≠ 0 ∧
    driven (slowing .running (some duty10) 0) = ((0, 0, 500), .running, .driven) ∧
    driven (slowing .running (some { duty10 with kind := .speed, accel := 2, cruise := 5 }) 0) =
      ((2, 2, 0), .running, .driven) ∧
    driven (slowing .running (some move90) 0) = ((4000, 4000, 3), .running, .driven) ∧
    (driven { slowing .running (some move90) 4000 with q := 89999999 }).2 = (.settling, .driven) ∧
    driven (slowing .running (some stopHold) 4001) = ((1, 1, 0), .running, .driven) := by decide +kernel

theorem test_hyp_settles : (if absInt (move90.target - 88) ≤ move90.tolerance then 18 + 1 else 0) < move90.settleCount ∧
    (if absInt (move90.target - 87) ≤ move90.tolerance then 19 + 1 else 0) < move90.settleCount ∧
    998 + 1 < move90.settleLimit ∧
    (driven { large with state := .settling, current := some move90, q := 90000000, inTol := 0, settleTime := 998 }).1.1 =
      90000000 := by decide +kernel

/-- A channel held under way or at a boundary. -/
def stayed (z : Option Resume) (a : Option Rest) (c : Channel) : Channel :=
  { c with state := .held, resume := z, heldAction := a }

theorem test_hyp_held :
    driven (stayed (some .idle) (some .hold) (slowing .held none 5000)) = ((1000, 1000, 0), .held, .driven) ∧
    driven (stayed (some .running) none (slowing .held (some { duty10 with kind := .speed }) 4000)) =
      ((0, 0, 0), .held, .driven) ∧
    ((driven (stayed (some .running) none { slowing .held (some move90) 8000 with q := 89996000 })).1.1,
     (driven (stayed (some .running) none { slowing .held (some move90) 8000 with q := 89995999 })).1.1) =
      (90000000, 89999999) ∧
    driven (stayed (some .idle) (some .brake) large) = ((0, 0, 0), .held, .shorted) ∧
    driven (stayed (some .idle) (some .coast) large) = ((0, 0, 0), .held, .off) := by decide +kernel

theorem test_hyp_idle : driven { slowing .idle none (-5000) with rest := .hold } = ((-1000, -1000, 0), .idle, .driven) ∧
    driven { large with rest := .brake } = ((0, 0, 0), .idle, .shorted) ∧
    driven { large with rest := .coast } = ((0, 0, 0), .idle, .off) := by decide +kernel

/-- A segment of another group of ports A and B. -/
def other : Segment := { synced with syncTag := 2 }

/-- Ports A and B after a control expiry: their states, what their queues hold, the open groups, the host's notices. -/
def broken (a b : Channel) (gs : List Machine.Group) : List (ChState × Nat) × Nat × Nat :=
  let s := grouped a b
  let t := after (.controlExpiry calmest) { s with motors := { s.motors with groups := gs } }
  ([MotorPort.a, .b].map (fun p => ((t.motors.ch.get p).state, (t.motors.ch.get p).queue.length)),
   t.motors.groups.length, (t.router.link .primary).notices.length)

theorem test_hyp_mismatch : synced.members = [MotorPort.a, .b] ∧ other.members = synced.members ∧
    synced.syncTag ≠ other.syncTag ∧ other.syncTag ≠ 0 ∧ duty10.group ≠ synced.group ∧ duty10.group ≠ other.group ∧
    waiting.waits = true ∧ (stayed (some .syncWait) none waiting).waits = true ∧
    broken waiting { large with queue := [other, duty10] } [groupAB] = ([(.idle, 0), (.idle, 1)], 0, 2) ∧
    broken waiting { waiting with queue := [other] } [groupAB, other.group] = ([(.idle, 0), (.idle, 0)], 0, 2) ∧
    broken (stayed (some .syncWait) none waiting) (stayed (some .syncWait) none { waiting with queue := [other] })
      [other.group, groupAB] = ([(.idle, 0), (.idle, 0)], 0, 2) ∧
    broken (stayed (some .syncWait) none waiting) waiting [groupAB] = ([(.held, 1), (.syncWait, 1)], 1, 0) := by
  decide +kernel

/-- The pause state after a control expiry and the number of the host's notices. -/
def settledPause (c : Channel) : PauseState × Nat :=
  let t := after (.controlExpiry calmest) (paused .pausing c)
  (t.motors.pause, (t.router.link .primary).notices.length)

theorem test_hyp_paused : settledPause (stayed (some .idle) (some .hold) (slowing .held none 4000)) = (.paused, 1) ∧
    settledPause (stayed (some .idle) (some .hold) (slowing .held none 4001)) = (.pausing, 0) ∧
    (power .critical (onA large)).live = false ∧
    ((after (.controlExpiry calmest) (power .critical (onA (slowing .running (some duty10) 5)))).motors.ch.get .a).drive =
      .off := by decide +kernel

theorem test_hyp_held_step : (heldMoveStep { q := 89996000, spd := 8000, phase := .stopping } 4000 90).phase = .holding ∧
    (heldMoveStep { q := 90000000, spd := 8000, phase := .stopping } 4000 90).q = 90000000 ∧
    (heldMoveStep { q := 90000001, spd := 8000, phase := .stopping } 4000 90).q = 90004001 ∧
    (heldMoveStep { q := 90004000, spd := -8000, phase := .stopping } 4000 90).q = 90000000 ∧
    (heldMoveStep { q := 7, spd := 3, phase := .holding } 4000 90).q = 7 := by decide +kernel

/-! #### Hypotheses of the clauses on motion, port sets, request fields, refused captures and tones -/

/-- A MOVE step to 90 degrees at C = 900000, a = 40000 and b = 10000: q, S and the phase after it. -/
def moved (q spd : Int) : Int × Int × Phase :=
  let x := moveStep q spd 90 900000 40000 10000
  (x.q, x.spd, x.phase)

theorem test_hyp_move : moved 90000000 7 = (90000000, 0, .done) ∧ moved 0 (-30000) = (-20000, -20000, .reverse) ∧
    moved 0 (-5000) = (0, 0, .reverse) ∧ moved 180000000 30000 = (180020000, 20000, .reverse) ∧
    moved 88000000 200000 = (88190000, 190000, .decel) ∧ moved 87999999 200000 = (88239999, 240000, .accel) ∧
    moved 89955000 30000 = (89975000, 20000, .creep) ∧ moved 89955000 30001 = (89975001, 20001, .decel) ∧
    moved 0 905000 = (900000, 900000, .decel) ∧ moved 0 900000 = (900000, 900000, .cruise) ∧
    moved 89980000 20000 = (90000000, 0, .done) ∧ moved 90020000 (-20000) = (90000000, 0, .done) ∧
    moved 180000000 0 = (179960000, -40000, .accel) := by decide +kernel

/-- The SHORT mark of port A after a control expiry in which a MOVE to 90 degrees is current. -/
def shortened (first : Bool) (q : Int) : Bool :=
  ((after (.controlExpiry calmest) (onA
    { large with state := .running, current := some move90, q := q, spd := 100000, firstStep := first })).motors.ch.get
      .a).short

theorem test_hyp_short : startsShort 4499999 100000 5 10000 = false ∧ startsShort 4500001 100000 5 10000 = true ∧
    startsShort 4500000 100000 5 10000 = false ∧ startsShort 5499999 (-100000) 5 10000 = true ∧
    startsShort 5200000 100000 5 10000 = false ∧ startsShort 5000000 1 5 10000 = true ∧
    startsShort 5000000 0 5 10000 = false ∧ shortened true 89800000 = true ∧ shortened false 89800000 = false := by
  decide +kernel

theorem test_hyp_port_sets : ([.a, .f] : List MotorPort).Nodup ∧ ¬ ([.a, .f, .a] : List MotorPort).Nodup ∧
    portsWith [.granted] [(.f, .granted), (.a, .granted), (.b, .refused), (.f, .granted)] = [.a, .f] ∧
    portsWith [.granted, .seized] [(.b, .seized), (.a, .granted)] = [.a, .b] ∧
    portsWith [.refused] [(.a, .granted)] = [] := by decide +kernel

/-- Whether MISSING_FIELD is a failed check of a QUEUE_SEGMENT on port A with these fields. -/
def lacking (fs : Fields) : Bool :=
  let x := (SegmentFields.read fs).used
  (x.failures ++ x.checks (onA large).motors .primary .a).contains .missingField

theorem test_hyp_lacking : lacking [] = true ∧ lacking [(2, [0]), (4, [10])] = true ∧ lacking dutyFields = false ∧
    lacking [(2, [1]), (5, [1])] = true ∧ lacking speedFields = false ∧ lacking [(2, [2]), (5, [1]), (9, [1])] = true ∧
    lacking [(2, [2]), (5, [1]), (8, [1])] = false ∧ lacking [(2, [3]), (5, [1]), (8, [1])] = true ∧
    lacking [(2, [3]), (5, [1]), (9, [1])] = false ∧ lacking [(2, [4])] = false ∧
    lacking [(2, [4]), (14, [1])] = true ∧ lacking [(2, [4]), (14, [0])] = false ∧
    lacking [(2, [4]), (14, [7]), (15, [0])] = false := by decide +kernel

/-- What 1.3 gives defaults for. -/
def numbersOf (g : Segment) : List Nat :=
  [g.accel, g.decel, g.tolerance, g.settleCount, g.settleLimit, g.syncTag, g.reqTag]

def choicesOf (g : Segment) : Rest × List MotorPort × Bool × Link := (g.endAction, g.members, g.notify, g.origin)

/-- The segment of a QUEUE_SEGMENT of the tablet. -/
def segmentOf (fs : Fields) : Segment := (SegmentFields.read fs).segment .remote

/-- The hysteresis, debounce, rearm and notify link of a WATCH_SET of the battery with more fields. -/
def entryOf (fs : Fields) : Nat × Nat × Rearm × Option Link :=
  let e := (WatchFields.read (watchFields ++ fs)).entry .primary
  (e.hyst, e.debounce, e.rearm, e.notify)

theorem test_hyp_defaults :
    numbersOf (segmentOf [(2, [2]), (5, [1]), (8, [90])]) = [4000, 4000, 2, 20, 1000, 0, 0] ∧
    choicesOf (segmentOf [(2, [2]), (5, [1]), (8, [90])]) = (.brake, [], true, .remote) ∧
    numbersOf (segmentOf [(6, [200]), (14, [7]), (17, [9])]) = [200, 200, 2, 20, 1000, 7, 9] ∧
    choicesOf (segmentOf [(13, [2]), (15, [5, 0, 5]), (16, [0])]) = (.hold, [.a, .f], false, .remote) ∧
    (ClipFields.read [(2, [0x40, 0x1F]), (3, [64]), (4, [0]), (5, [0])]).layout =
      { rate := 8000, head := 64, loop := 0, tail := 0, loopStart := 0, cue := none, reverse := false } ∧
    (clipFields 64 63 100).layout =
      { rate := 8000, head := 64, loop := 64, tail := 64, loopStart := 63, cue := some 100, reverse := true } ∧
    entryOf [] = (0, 1, .once, none) ∧ entryOf [(4, [5, 0]), (5, [50]), (6, [1]), (8, [1])] = (5, 50, .edge, some .remote) ∧
    ((WatchFields.read watchFields).entry .primary).actions = [.notify .primary 5] := by decide +kernel

theorem test_hyp_parsed : parseSource [0, 1, 7, 3] = .val (.sensor .n1 7 3) ∧ parseSource [1, 5, 3] = .val (.motor .f .stall) ∧
    parseSource [2, 8] = .val (.virt .n8) ∧ parseSource [3, 24] = .val (.cue 24) ∧
    parseComparison ([0] ++ [0xFE, 0xFF, 0xFF, 0xFF]) = .val (.above (-2)) ∧
    parseComparison ([3] ++ ([1, 0, 0, 0] ++ [2, 0, 0, 0])) = .val (.outside 1 2) ∧
    parseAction (0 :: portBytes [.f, .a, .f]) = .val (.brake [.a, .f]) ∧
    parseAction [4, 8, 1] = .val (.setVirtual .n8 1) ∧ parseAction [5, 1, 9] = .val (.notify .remote 9) ∧
    (∀ e, some { watch1 with owner := .remote } = some e → e.owner = .remote) := by
  refine ⟨by decide +kernel, by decide +kernel, by decide +kernel, by decide +kernel, by decide +kernel,
    by decide +kernel, by decide +kernel, by decide +kernel, by decide +kernel, ?_⟩
  intro e h
  exact Option.some.inj h ▸ rfl

/-- What the host's CAPTURE_START on a port is answered: region, value index, end mode; decimation 1. -/
def begun (s : State) (p id k e : Nat) : List (List Byte) :=
  ((after (.captureStart (ask
    (fieldNat 1 1 p ++ fieldNat 2 1 id ++ fieldNat 3 1 k ++ fieldNat 4 1 1 ++ fieldNat 5 1 e))) s).router.link
      .primary).replies.map (fun f => f.payload)

/-- The part of `captured` with an upload window on its region. -/
def openRegion : State :=
  { captured [] with store := { (captured []).store with window := some { window1 with region := 2 } } }

theorem test_hyp_refused_captures : begun up 1 2 0 0 = [(Reply.invalid [.region]).payload] ∧
    begun (withRegions [clip1]) 1 1 0 0 = [(Reply.invalid [.kind]).payload] ∧
    begun (captured [capture1]) 1 2 0 0 = [(Reply.refuse .busy).payload] ∧
    begun (captured (List.replicate 4 { capture1 with port := .n2 })) 1 2 0 0 = [(Reply.refuse .full).payload] ∧
    begun (captured [{ capture1 with port := .n2 }]) 1 2 0 0 = [(Reply.refuse .access).payload] ∧
    begun openRegion 1 2 0 0 = [(Reply.refuse .access).payload] ∧
    begun (captured []) 2 2 0 0 = [(Reply.refuse .noDevice).payload] ∧
    begun (captured []) 1 2 1 0 = [(Reply.invalid [.valueIndex]).payload] ∧
    begun (captured []) 1 2 0 0 = [Reply.ok.payload] ∧
    begun (captured []) 9 25 4 2 = [(Reply.invalid [.port, .region, .valueIndex, .endMode]).payload] ∧
    begun (captured []) 0 0 3 1 = [(Reply.invalid [.port, .region]).payload] ∧
    (CaptureFields.read [(4, [0])]).decim = .bad .decimation ∧ (CaptureFields.read [(4, [101])]).decim = .bad .decimation ∧
    (CaptureFields.read [(4, [100])]).decim = .val 100 ∧ (CaptureFields.read []).port.need = [.missingField] := by
  decide +kernel

/-- The part of `captured` with its region full. -/
def brimming : State :=
  { captured [] with store := { (captured []).store with regions := [{ capture2 with fill := 64, ready := false }] } }

/-- The memory after a value is recorded at the start of region 2. -/
def written (v : Int) : List Host.Cell := ((captured [capture1]).offer .n1 [v]).store.mem

theorem test_hyp_full_capture : begun brimming 1 2 0 0 = [Reply.ok.payload] ∧
    (after (.captureStart (ask [1, 1, 1, 2, 1, 2, 3, 1, 0, 4, 1, 1, 5, 1, 0])) brimming).sensors.captures = [] ∧
    ((after (.captureStart (ask [1, 1, 1, 2, 1, 2, 3, 1, 0, 4, 1, 1, 5, 1, 0])) brimming).router.link
      .primary).notices.length = 1 ∧
    written (-2) = [(64, 0xFE), (65, 0xFF)] ∧ written 40000 = [(64, 0xFF), (65, 0x7F)] ∧
    written (-40000) = [(65, 0x80)] := by decide +kernel

/-- A tone voice after an output event: the sample, the state and the samples left. -/
def toned (phase left : Nat) : Int × VoiceState × Nat :=
  let p := ({ tone1 with tonePhase := phase, left := left } : Voice).play up.store .n1
  (p.sample, p.voice.state, p.voice.left)

theorem test_hyp_tone : toned 31999 2 = (100, .tone, 1) ∧ toned 32000 1 = (-100, .free, 0) ∧
    tone1.source = some (.tone 440) ∧ (({ tone1 with tonePhase := 63999 } : Voice).play up.store .n1).voice.tonePhase = 879 ∧
    ((frozen .tone).play up.store .n1).sample = 0 ∧ mixSample .economy 100 = 96 ∧ mixSample .economy (-50) = -64 ∧
    mixSample .economy (-128) = -128 ∧ mixSample .run 100 = 100 ∧
    ((after (.play (ask (fieldNat 1 1 1))) (withRegions [clipLoop])).mixer.voices.get .n1).pathMark = 0 ∧
    ((after (.play (ask (fieldNat 1 1 1))) (withRegions [backward])).mixer.voices.get .n1).pathMark = 256 := by
  decide +kernel

end Sys2Proof.Tests
end

section
/-! ZERO_COUNT (R18, R100): what it does to its channel, how the watch unit's own count is zeroed on the way through the
router, and what the command comes to when it is accepted and when it is refused. -/

namespace Sys2Proof.Machine

/-! ### The channel (R18) -/

/-- R18: accepted in IDLE at S = 0 outside STOPPING. -/
theorem Channel.zeroCount_atRest {c : Channel} (h : c.state = .idle ∧ c.spd = 0 ∧ c.phase ≠ .stopping) :
    c.zeroCount = { ch := { c with enc := 0, q := 0, integ := 0, lastTarget := none }, sent := [], flushed := false,
                    reply := Reply.ok } := if_pos h

/-- R18: BUSY in any other state, at another S, or in STOPPING. -/
theorem Channel.zeroCount_busy {c : Channel} (h : ¬(c.state = .idle ∧ c.spd = 0 ∧ c.phase ≠ .stopping)) :
    c.zeroCount = Change.none c (Reply.refuse .busy) := if_neg h

/-- A MOVE_BY with no last target starts from the position reference rounded to a degree. -/
theorem moveByTarget_none (q distance : Int) :
    moveByTarget none q distance = clamp (-1000000) 1000000 (roundMicro q + distance) := rfl

theorem roundMicro_zero : roundMicro 0 = 0 := by decide

/-! ### The count of the watch unit (R100) -/

/-- The router takes a request in without reading the watch unit. -/
theorem State.entered_zeroScan (s : State) (p : MotorPort) (channel : Byte) (r : Req) :
    (s.zeroScan p).entered channel r = (s.entered channel r).zeroScan p := by
  have hm : (s.zeroScan p).mirrors r.link channel = s.mirrors r.link channel := rfl
  unfold State.entered
  rw [hm]
  split <;> split <;> rfl

/-! ### The request in the part -/

/-- An accepted ZERO_COUNT zeroes the count of the watch unit too. -/
theorem State.zeroCount_accepted {l : Link} {fs : Fields} {p : MotorPort} {s : State}
    (hp : motorPortField 1 fs = .val p) (ha : (s.motors.zeroCount l fs).reply.accepted = true) :
    s.zeroCount l fs = (s.zeroScan p).motorOutcome (s.motors.zeroCount l fs) := by
  have ha' : (s.motorOutcome (s.motors.zeroCount l fs)).2.accepted = true := ha
  simp only [State.zeroCount, hp, ha', if_true]
  rfl

/-- A refused ZERO_COUNT leaves the watch unit alone. -/
theorem State.zeroCount_refused {l : Link} {fs : Fields} {p : MotorPort} {s : State}
    (hp : motorPortField 1 fs = .val p) (ha : (s.motors.zeroCount l fs).reply.accepted = false) :
    s.zeroCount l fs = s.motorOutcome (s.motors.zeroCount l fs) := by
  have ha' : (s.motorOutcome (s.motors.zeroCount l fs)).2.accepted = false := ha
  simp [State.zeroCount, hp, ha']

/-- ZERO_COUNT reads its port and is a changing request that needs a motor (R9, R18). -/
theorem Motors.zeroCount_onPort {l : Link} {fs : Fields} {p : MotorPort} (m : Motors)
    (hp : motorPortField 1 fs = .val p) : m.zeroCount l fs = m.changing true l p Channel.zeroCount :=
  Motors.onPort_val hp [] (fun p => m.changing true l p Channel.zeroCount) m

/-- The command is its request handed to the motor controller once the router admits it and its payload divides. -/
theorem exec_zeroCount {r : Req} {fs : Fields} {s : State} (ha : s.admits r.link 0x16 = true)
    (hf : decodeFields r.payload = some fs) :
    exec (.zeroCount r) s =
      .next (State.finish 0x16 r (answered ((s.entered 0x16 r).zeroCount r.link fs))) := by
  show Host.Outcome.next (s.takeRequest 0x16 handleZeroCount r) = _
  rw [takeRequest_of_admits _ ha, handleZeroCount, onFields_some _ _ hf]

/-- R18: ZERO_COUNT accepted. -/
theorem exec_zeroCount_atRest {r : Req} {fs : Fields} {p : MotorPort} {s : State}
    (ha : s.admits r.link 0x16 = true) (hf : decodeFields r.payload = some fs) (hp : motorPortField 1 fs = .val p)
    (hk : (s.motors.ch.get p).kind ≠ .none) (hh : (s.motors.ch.get p).holder ≠ some r.link.other)
    (hc : (s.motors.ch.get p).state = .idle ∧ (s.motors.ch.get p).spd = 0 ∧ (s.motors.ch.get p).phase ≠ .stopping) :
    exec (.zeroCount r) s =
      .next ((s.zeroScan p).changed 0x16 r p
        { s.motors.ch.get p with
            enc := 0, q := 0, integ := 0, lastTarget := none, holder := some r.link, lostLink := false }
        [] [] Reply.ok) := by
  have hm := (Motors.zeroCount_onPort s.motors hp).trans
    (Motors.changing_accepted (.inr hk) hh (Channel.zeroCount_atRest hc) rfl)
  have hacc : ((s.entered 0x16 r).motors.zeroCount r.link fs).reply.accepted = true := by
    rw [State.entered_motors, hm]; rfl
  rw [exec_zeroCount ha hf, State.zeroCount_accepted hp hacc, State.entered_motors, ← State.entered_zeroScan]
  exact congrArg _ (finish_motor_changed hm)

/-- R18: ZERO_COUNT refused BUSY. -/
theorem exec_zeroCount_busy {r : Req} {fs : Fields} {p : MotorPort} {s : State}
    (ha : s.admits r.link 0x16 = true) (hf : decodeFields r.payload = some fs) (hp : motorPortField 1 fs = .val p)
    (hk : (s.motors.ch.get p).kind ≠ .none) (hh : (s.motors.ch.get p).holder ≠ some r.link.other)
    (hc : ¬((s.motors.ch.get p).state = .idle ∧ (s.motors.ch.get p).spd = 0 ∧
      (s.motors.ch.get p).phase ≠ .stopping)) :
    exec (.zeroCount r) s = .next ((s.entered 0x16 r).replied 0x16 r (Reply.refuse .busy)) := by
  have hm := (Motors.zeroCount_onPort s.motors hp).trans
    (Motors.changing_refused (.inr hk) hh (Channel.zeroCount_busy hc) rfl)
  have hrej : ((s.entered 0x16 r).motors.zeroCount r.link fs).reply.accepted = false := by
    rw [State.entered_motors, hm]; rfl
  rw [exec_zeroCount ha hf, State.zeroCount_refused hp hrej, State.entered_motors]
  exact congrArg _ (finish_motor_refused hm)

/-- Settles O27, from the accepted and the refused case of ZERO_COUNT and the rounding of the zero position. -/
theorem zeroCountRedefinesTheZeroAngle : Obligations.ZeroCountRedefinesTheZeroAngle := by
  intro r fs p s ha hf hp c hk hh d
  refine ⟨fun hidle hspd hphase => ?atRest, fun hbusy => ?busy, fun distance => ?moveBy⟩
  case atRest => exact exec_zeroCount_atRest ha hf hp hk hh ⟨hidle, hspd, hphase⟩
  case busy =>
    refine exec_zeroCount_busy ha hf hp hk hh ?_
    rintro ⟨hidle, hspd, hphase⟩
    rcases hbusy with h | h | h
    · exact h hidle
    · exact h hspd
    · exact hphase h
  case moveBy =>
    show moveByTarget none 0 distance = _
    rw [moveByTarget_none, roundMicro_zero, zero_add]

end Sys2Proof.Machine
end

section
/-! New samples (R84): how far an arrival number lies after a mark, counting forward on the 32-bit circle. -/

namespace Sys2Proof.Machine

/-- R84: an arrival number fewer than 2,147,483,648 after the mark counts by its distance. -/
theorem newCount_of_lt {mark arrival : Word32} (h : (arrival - mark).toNat < 2147483648) :
    newCount mark arrival = (arrival - mark).toNat := if_pos h

/-- R84: an arrival number farther from the mark does not lie after it. -/
theorem newCount_of_le {mark arrival : Word32} (h : 2147483648 ≤ (arrival - mark).toNat) :
    newCount mark arrival = 0 := if_neg (Nat.not_lt.mpr h)

theorem newCount_lt (mark arrival : Word32) : newCount mark arrival < 2147483648 := by
  rcases Nat.lt_or_ge (arrival - mark).toNat 2147483648 with near | far
  · rwa [newCount_of_lt near]
  · rw [newCount_of_le far]; decide

/-- The mark counted forward by `n`, over the wrap too, lies `n` after the mark. -/
theorem newCount_add_ofNat (mark : Word32) {n : Nat} (hn : n < 2147483648) :
    newCount mark (mark + BitVec.ofNat 32 n) = n := by
  have distance : (mark + BitVec.ofNat 32 n - mark).toNat = n := by
    rw [add_sub_cancel_left, BitVec.toNat_ofNat, Nat.mod_eq_of_lt (by omega)]
  rw [newCount_of_lt (distance.trans_lt hn), distance]

/-- An arrival number that lies after the mark is the mark counted forward by its count. -/
theorem add_ofNat_newCount {mark arrival : Word32} (h : 0 < newCount mark arrival) :
    mark + BitVec.ofNat 32 (newCount mark arrival) = arrival := by
  rcases Nat.lt_or_ge (arrival - mark).toNat 2147483648 with near | far
  · rw [newCount_of_lt near, BitVec.ofNat_toNat, BitVec.setWidth_eq, add_sub_cancel]
  · rw [newCount_of_le far] at h
    exact absurd h (Nat.lt_irrefl 0)

/-- Settles O41: counting forward from the mark and `newCount` undo each other below 2,147,483,648. -/
theorem newSamplesByArrivalNumber : Obligations.NewSamplesByArrivalNumber := by
  intro mark arrival
  refine ⟨⟨fun isNew => ?counted, ?positive⟩, fun n hn => newCount_add_ofNat mark hn⟩
  case counted =>
    exact ⟨newCount mark arrival, isNew, newCount_lt mark arrival, (add_ofNat_newCount isNew).symm⟩
  case positive =>
    rintro ⟨n, hpos, hn, rfl⟩
    rwa [newCount_add_ofNat mark hn]

end Sys2Proof.Machine
end

section
/-! What the work on the motors leaves of the outputs (R26, R41): every operation on a channel but the output stage of the
control expiry leaves its applied output and drive as they were, or takes the output away. -/

namespace Sys2Proof.Machine

/-! ### One channel -/

/-- The applied output and the drive are as they were, or the motor is not driven and has no output. -/
def Channel.Quieter (c d : Channel) : Prop :=
  (d.applied = c.applied ∧ d.drive = c.drive) ∨ (d.applied = 0 ∧ d.drive ≠ .driven)

theorem Channel.Quieter.refl (c : Channel) : c.Quieter c := .inl ⟨rfl, rfl⟩

theorem Channel.Quieter.trans {a b c : Channel} (h : a.Quieter b) (g : b.Quieter c) : a.Quieter c := by
  rcases g with ⟨ga, gd⟩ | g
  · rcases h with ⟨ha, hd⟩ | ⟨ha, hd⟩
    · exact .inl ⟨ga.trans ha, gd.trans hd⟩
    · exact .inr ⟨ga.trans ha, gd ▸ hd⟩
  · exact .inr g

theorem restDrive_ne_driven (live : Bool) (a : Rest) : restDrive live a ≠ .driven := by
  cases live <;> cases a <;> simp [restDrive]

theorem Channel.unwound_quieter (live : Bool) (a : Rest) (c d : Channel) : d.Quieter (c.unwound live a) :=
  .inr ⟨rfl, restDrive_ne_driven live a⟩

theorem Channel.takeRest_quieter (live : Bool) (a : Rest) (rate : Nat) (c : Channel) :
    c.Quieter (c.takeRest live a rate) := by
  cases a with
  | hold => exact .inl ⟨rfl, rfl⟩
  | coast => exact c.unwound_quieter live .coast c
  | brake => exact c.unwound_quieter live .brake c

theorem Channel.dropCurrent_quieter (c : Channel) : c.Quieter c.dropCurrent := by
  unfold Channel.dropCurrent; split <;> exact .inl ⟨rfl, rfl⟩

theorem Channel.emptied_quieter (c : Channel) : c.Quieter c.emptied := c.dropCurrent_quieter

theorem Channel.stopWith_quieter (live : Bool) (a : Rest) (c : Channel) : c.Quieter (c.stopWith live a) :=
  c.emptied_quieter.trans (c.emptied.takeRest_quieter live a _)

/-- A stop in FAULT takes the output away only with COAST or BRAKE, the actions it is used with (R12, R22). -/
theorem Channel.stopKeeping_quieter (live : Bool) {a : Rest} (ha : a ≠ .hold) (c : Channel) :
    c.Quieter (c.stopKeeping live a) := by
  unfold Channel.stopKeeping
  split
  · exact c.emptied_quieter
  · exact .inr ⟨by cases a <;> first | rfl | exact absurd rfl ha, by simp⟩
  · exact c.stopWith_quieter live a

theorem Channel.enterFault_quieter (p : MotorPort) (c : Channel) : c.Quieter (c.enterFault p).1 :=
  .inr ⟨rfl, by simp [Channel.enterFault, Channel.unwound, restDrive]⟩

theorem Channel.goIdle_quieter (live : Bool) (b : Boundary) (c : Channel) : c.Quieter (c.goIdle live b) := by
  cases b with
  | resting => exact .refl c
  | ended g => exact c.takeRest_quieter live g.endAction _

theorem Channel.becomeCurrent_quieter (live : Bool) (g : Segment) (rest : List Segment) (c : Channel) :
    c.Quieter (c.becomeCurrent live g rest) := by
  unfold Channel.becomeCurrent
  dsimp only
  split
  · exact .trans (.inl ⟨rfl, rfl⟩) (Channel.takeRest_quieter live _ _ _)
  · exact .inl ⟨rfl, rfl⟩

theorem Channel.holdAt_quieter (live : Bool) (b : Boundary) (c : Channel) : c.Quieter (c.holdAt live b) := by
  cases b with
  | resting => exact .inl ⟨rfl, rfl⟩
  | ended g =>
    unfold Channel.holdAt
    dsimp only
    cases g.endAction with
    | hold => exact .inl ⟨rfl, rfl⟩
    | coast => exact c.unwound_quieter live .coast c
    | brake => exact c.unwound_quieter live .brake c

theorem Channel.startHead_quieter (live : Bool) (p : MotorPort) (g : Segment) (rest : List Segment) (c : Channel) :
    c.Quieter (c.startHead live p g rest).1 := by
  unfold Channel.startHead
  dsimp only
  split
  · exact (c.becomeCurrent_quieter live g rest).trans (Channel.dropCurrent_quieter _)
  · exact c.becomeCurrent_quieter live g rest

theorem Channel.moveOn_quieter (pause : PauseState) (live : Bool) (p : MotorPort) (n : Nat) (b : Boundary)
    (c : Channel) : c.Quieter (c.moveOn pause live p n b).1 := by
  induction n generalizing b c with
  | zero => exact c.goIdle_quieter live b
  | succ n ih =>
    unfold Channel.moveOn
    split
    · exact c.goIdle_quieter live b
    · rename_i g rest _
      split
      · split
        · have hs := c.startHead_quieter live p g rest
          split
          · rename_i h; rw [h] at hs; exact hs
          · rename_i h; rw [h] at hs; exact hs.trans (ih _ _)
        · exact .inl ⟨rfl, rfl⟩
      · exact c.holdAt_quieter live b

theorem Channel.complete_quieter (pause : PauseState) (live : Bool) (p : MotorPort) (g : Segment) (o : SegOutcome)
    (c : Channel) : c.Quieter (c.complete pause live p g o).1 :=
  c.dropCurrent_quieter.trans (Channel.moveOn_quieter _ _ _ _ _ _)

theorem Channel.finishStop_quieter (pause : PauseState) (live : Bool) (p : MotorPort) (c : Channel) :
    c.Quieter (c.finishStop pause live p).1 := by
  unfold Channel.finishStop
  split
  · split
    · exact .trans (.inl ⟨rfl, rfl⟩) (Channel.complete_quieter _ _ _ _ _ _)
    · exact .refl c
  · exact .refl c

theorem Channel.released_quieter (pause : PauseState) (live : Bool) (p : MotorPort) (c : Channel) :
    c.Quieter (c.released pause live p).1 := by
  refine .trans (b := (c.startReleased pause live p).1) ?_ (Channel.finishStop_quieter _ _ _ _)
  unfold Channel.startReleased
  split
  · exact .refl c
  · rename_i g rest _
    have hs := c.startHead_quieter live p g rest
    split
    · rename_i h; rw [h] at hs; exact hs
    · rename_i h; rw [h] at hs; exact hs.trans (Channel.moveOn_quieter _ _ _ _ _ _)

theorem Channel.breakGroups_quieter (gs : List Group) (p : MotorPort) (c : Channel) :
    c.Quieter (c.breakGroups gs p).1 := by
  obtain ⟨-, -, -, ha, hd, -⟩ := c.breakGroups_frame gs p
  exact .inl ⟨ha, hd⟩

theorem Channel.finishRelease_quieter (c : Channel) : c.Quieter c.finishRelease := by
  unfold Channel.finishRelease; split <;> exact .inl ⟨rfl, rfl⟩

/-! ### The checks of a control expiry -/

theorem Channel.checkCurrent_quieter (p : MotorPort) (c : Channel) : c.Quieter (c.checkCurrent p).ch := by
  unfold Channel.checkCurrent
  repeat' split
  · exact c.enterFault_quieter p
  all_goals exact .inl ⟨rfl, rfl⟩

theorem Channel.checkDone_quieter (pause : PauseState) (live : Bool) (p : MotorPort) (c : Channel) :
    c.Quieter (c.checkDone pause live p).ch := by
  unfold Channel.checkDone
  split
  · exact .refl c
  · rename_i g _
    split
    · exact c.complete_quieter pause live p g .done
    · split
      · have hc : c.Quieter (c.settleCounted g) := .inl ⟨rfl, rfl⟩
        dsimp only
        split
        · exact hc.trans (Channel.complete_quieter pause live p g (c.settleCounted g).settledOutcome _)
        · split
          · exact hc.trans (Channel.complete_quieter pause live p g .unsettled _)
          · exact hc
      · exact .refl c

theorem Channel.checkStall_quieter (live : Bool) (lam : Nat) (u : Int) (p : MotorPort) (c : Channel) :
    c.Quieter (c.checkStall live lam u p).ch := by
  unfold Channel.checkStall
  split
  · split
    · exact .inl ⟨rfl, rfl⟩
    · have hc : c.Quieter (if lam < 1000 then { c with starved := true }
          else { c with stallTimer := c.stallTimer + 1, starved := false }) := by
        split <;> exact .inl ⟨rfl, rfl⟩
      dsimp only
      generalize (if lam < 1000 then _ else _ : Channel) = d at hc ⊢
      split
      · exact hc.trans (Channel.stopWith_quieter _ _ _)
      · exact hc
  · exact .inl ⟨rfl, rfl⟩

theorem Channel.takeHead_quieter (pause : PauseState) (live : Bool) (p : MotorPort) (c : Channel) :
    c.Quieter (c.takeHead pause live p).ch := by
  unfold Channel.takeHead
  split
  · exact Channel.moveOn_quieter _ _ _ _ _ _
  · exact .refl c

theorem Channel.expiryChecks_quieter (pause : PauseState) (f : Feed) (p : MotorPort) (r : MotorReading) (c : Channel) :
    c.Quieter (c.expiryChecks pause f p r).ch := by
  unfold Channel.expiryChecks
  split
  · exact .refl c
  · have hr : c.Quieter (c.readInputs r) := by
      unfold Channel.readInputs; split <;> exact .inl ⟨rfl, rfl⟩
    exact ((((hr.trans (Channel.checkCurrent_quieter p _)).trans (Channel.checkDone_quieter _ _ _ _)).trans
      (Channel.checkStall_quieter _ _ _ _ _)).trans (Channel.takeHead_quieter _ _ _ _)).trans
      (Channel.finishStop_quieter _ _ _ _)

/-! ### The six channels -/

/-- Every channel is quieter. -/
def Motors.Quieter (m n : Motors) : Prop := ∀ p, (m.ch.get p).Quieter (n.ch.get p)

theorem Motors.Quieter.refl (m : Motors) : m.Quieter m := fun p => .refl (m.ch.get p)

theorem Motors.Quieter.trans {a b c : Motors} (h : a.Quieter b) (g : b.Quieter c) : a.Quieter c :=
  fun p => (h p).trans (g p)

theorem Motors.map_quieter {g : Channel → Channel} (h : ∀ c : Channel, c.Quieter (g c)) {m n : Motors} (hn : n.ch = m.ch.map g) :
    m.Quieter n := fun p => by rw [hn, Six.get_map]; exact h _

theorem Motors.setCh_quieter {m : Motors} {p : MotorPort} {c : Channel} (h : (m.ch.get p).Quieter c) :
    m.Quieter (m.setCh p c) := fun q => by
  rw [Motors.setCh_ch, Six.get_set]
  split
  · rename_i e; subst e; exact h
  · exact .refl _

theorem Motors.onPorts_quieter {f : MotorPort → Channel → Channel × List Sent} (h : ∀ p (c : Channel), c.Quieter (f p c).1)
    (ps : List MotorPort) (m : Motors) : m.Quieter (Motors.onPorts f ps m).1 := by
  induction ps generalizing m with
  | nil => exact .refl m
  | cons p ps ih => exact (Motors.setCh_quieter (h p _)).trans (ih _)

theorem Motors.breakAll_quieter (gs : List Group) (m : Motors) : m.Quieter (Motors.breakAll gs m).1 := fun p => by
  rw [Motors.breakAll_get]; exact Channel.breakGroups_quieter _ _ _

theorem Motors.conclude_quieter (ps : List MotorPort) (m : Motors) : m.Quieter (m.conclude ps).1 := fun p => by
  rw [Motors.conclude_get]
  exact (Channel.breakGroups_quieter _ _ _).trans (Channel.finishRelease_quieter _)

theorem Motors.event_quieter {f : MotorPort → Channel → Channel × List Sent} (h : ∀ p (c : Channel), c.Quieter (f p c).1)
    (ps : List MotorPort) (m : Motors) : m.Quieter (Motors.event f ps m).1 :=
  (Motors.onPorts_quieter h ps m).trans (Motors.conclude_quieter ps _)

theorem Motors.releaseAll_quieter (live : Bool) (gs : List Group) (m : Motors) :
    m.Quieter (Motors.releaseAll live gs m).1 := by
  induction gs generalizing m with
  | nil => exact .refl m
  | cons g gs ih =>
    exact (Motors.onPorts_quieter (fun _ _ => Channel.released_quieter _ _ _ _) g.members
      { m with groups := m.groups.filter (fun h => h != g) }).trans (ih _)

theorem Motors.examine_quieter (live : Bool) (n : Nat) (gs : List Group) (m : Motors) :
    m.Quieter (Motors.examine live n gs m).1 := by
  induction n generalizing gs m with
  | zero => exact .refl m
  | succ n ih =>
    have h := (Motors.breakAll_quieter (gs.filter m.mismatched) m).trans
      (Motors.releaseAll_quieter live (gs.filter m.releases) _)
    unfold Motors.examine
    dsimp only
    split
    · exact h
    · exact h.trans (ih _ _)

theorem Motors.checkPorts_quieter (f : Feed) (r : Six MotorReading) (ps : List MotorPort) (m : Motors) :
    m.Quieter (Motors.checkPorts f r ps m).1 := by
  induction ps generalizing m with
  | nil => exact .refl m
  | cons p ps ih => exact (Motors.setCh_quieter (Channel.expiryChecks_quieter _ _ _ _ _)).trans (ih _)

theorem Motors.idSamples_quieter (k : Six MotorIdClass) (ps : List MotorPort) (m : Motors) :
    m.Quieter (Motors.idSamples k ps m).1 := by
  have h : ∀ p x (c : Channel), c.Quieter (c.idSample p x).ch := by
    intro p x c
    unfold Channel.idSample
    dsimp only
    split
    · split
      · exact .inl ⟨rfl, rfl⟩
      · exact .inr (by constructor <;> (dsimp only [Checked.ofPair, Channel.detach]; split <;> simp [Channel.attach,
          Channel.endingsCleared]))
    · exact .inl ⟨rfl, rfl⟩
  induction ps generalizing m with
  | nil => exact .refl m
  | cons p ps ih => exact (Motors.setCh_quieter (h p _ _)).trans (ih _)

theorem Motors.oneCheck_quieter {p : MotorPort} {x : Checked} {m : Motors} (h : (m.ch.get p).Quieter x.ch) :
    m.Quieter (m.oneCheck p x).1 := (Motors.setCh_quieter h).trans (Motors.conclude_quieter _ _)

theorem Motors.durationEnd_quieter (f : Feed) (p : MotorPort) (m : Motors) : m.Quieter (m.durationEnd f p).1 := by
  unfold Motors.durationEnd
  dsimp only
  repeat' split
  · exact Motors.oneCheck_quieter (Channel.complete_quieter _ _ _ _ .done _)
  all_goals exact .refl m

theorem Motors.segmentSettled_quieter (f : Feed) (p : MotorPort) (m : Motors) :
    m.Quieter (m.segmentSettled f p).1 := by
  unfold Motors.segmentSettled
  dsimp only
  split
  · rename_i g _
    split
    · exact Motors.oneCheck_quieter (.trans (.inl ⟨rfl, rfl⟩)
        (Channel.complete_quieter _ _ _ _ ((m.ch.get p).settleCounted g).settledOutcome _))
    · exact .refl m
  · exact .refl m

theorem Motors.settleLimit_quieter (f : Feed) (p : MotorPort) (m : Motors) : m.Quieter (m.settleLimit f p).1 := by
  unfold Motors.settleLimit
  dsimp only
  repeat' split
  · exact Motors.oneCheck_quieter (.trans (.inl ⟨rfl, rfl⟩) (Channel.complete_quieter _ _ _ _ .unsettled _))
  all_goals exact .refl m

theorem Motors.stall_quieter (f : Feed) (p : MotorPort) (m : Motors) : m.Quieter (m.stall f p).1 := by
  unfold Motors.stall
  dsimp only
  split
  · exact Motors.oneCheck_quieter (Channel.checkStall_quieter _ _ _ _ _)
  · exact .refl m

theorem Motors.overcurrentFault_quieter (p : MotorPort) (m : Motors) : m.Quieter (m.overcurrentFault p).1 := by
  unfold Motors.overcurrentFault
  dsimp only
  split
  · exact Motors.oneCheck_quieter (Channel.checkCurrent_quieter p _)
  · exact .refl m

theorem Motors.idSample_quieter (k : Six MotorIdClass) (m : Motors) : m.Quieter (m.idSample k).1 :=
  (Motors.idSamples_quieter k _ m).trans (Motors.conclude_quieter _ _)

/-! ### Pause, link loss and watch cut -/

theorem Channel.pauseSetUp_quieter (c : Channel) : c.Quieter c.pauseSetUp := by
  have h : ∀ r, c.Quieter (c.pauseAtOnce r) := by
    intro r; unfold Channel.pauseAtOnce; repeat' split
    all_goals exact .inl ⟨rfl, rfl⟩
  unfold Channel.pauseSetUp
  split
  · exact .refl c
  · split <;> exact .inl ⟨rfl, rfl⟩
  · exact .inl ⟨rfl, rfl⟩
  · split
    · exact h .running
    · exact h .settling
    · exact .inl ⟨rfl, rfl⟩
    · exact .refl c

theorem Motors.pauseNow_quieter (m : Motors) : m.Quieter m.pauseNow.1 := by
  refine Motors.map_quieter Channel.pauseSetUp_quieter ?_
  unfold Motors.pauseNow
  dsimp only
  split <;> rfl

theorem Motors.stepNow_quieter (m : Motors) : m.Quieter m.stepNow.1 := by
  refine Motors.map_quieter (g := Channel.stepped) (fun c => ?_) rfl
  unfold Channel.stepped; split <;> exact .inl ⟨rfl, rfl⟩

theorem Motors.resumeNow_quieter (m : Motors) : m.Quieter m.resumeNow.1 := by
  refine Motors.map_quieter (g := Channel.resumed) (fun c => .trans (b := c.unheld) ?_ (.inl ⟨rfl, rfl⟩)) rfl
  unfold Channel.unheld; repeat' split
  all_goals exact .inl ⟨rfl, rfl⟩

theorem Motors.remoteLost_quieter (live : Bool) (policy : LossPolicy) (m : Motors) :
    m.Quieter (m.remoteLost live policy).1 := by
  cases policy with
  | stop => exact Motors.event_quieter (fun p c => c.stopKeeping_quieter live (by decide)) _ m
  | finish =>
    exact (Motors.onPorts_quieter (fun p c => .inl ⟨rfl, rfl⟩) _ m).trans (Motors.conclude_quieter _ _)

theorem Motors.watchCut_quieter (live : Bool) (a : Rest) (ps : List MotorPort) (m : Motors) :
    m.Quieter (m.watchCut live a ps).1 := Motors.event_quieter (fun _ c => c.stopWith_quieter live a) _ m

/-! ### The requests -/

theorem Channel.claimedBy_quieter (l : Link) (c : Channel) : c.Quieter (c.claimedBy l) := .inl ⟨rfl, rfl⟩

theorem Motors.changing_quieter {b : Bool} {l : Link} {p : MotorPort} {act : Channel → Change}
    (h : ∀ c : Channel, c.Quieter (act c).ch) (m : Motors) : m.Quieter (m.changing b l p act).motors := by
  have hw : ∀ ps, m.Quieter ((m.setCh p ((act (m.ch.get p)).ch.claimedBy l)).conclude ps).1 := fun ps =>
    (Motors.setCh_quieter ((h _).trans (Channel.claimedBy_quieter l _))).trans (Motors.conclude_quieter ps _)
  unfold Motors.changing
  dsimp only
  split
  · exact .refl m
  · split
    · exact .refl m
    · split
      · exact hw _
      · exact .refl m

theorem Motors.onPort_quieter {v : Val MotorPort} {o : List Check} {act : MotorPort → MotorAnswer} {m : Motors}
    (h : ∀ p, m.Quieter (act p).motors) : m.Quieter (m.onPort v o act).motors := by
  unfold Motors.onPort
  split
  · exact h _
  · exact .refl m

theorem Motors.takePorts_quieter {f : MotorPort → Channel → Channel × List Sent × PortOutcome}
    (h : ∀ p (c : Channel), c.Quieter (f p c).1) (ps : List MotorPort) (m : Motors) : m.Quieter (Motors.takePorts f ps m).1 := by
  induction ps generalizing m with
  | nil => exact .refl m
  | cons p ps ih => exact (Motors.setCh_quieter (h p _)).trans (ih _)

theorem Channel.claim_quieter (live : Bool) (l : Link) (p : MotorPort) (c : Channel) :
    c.Quieter (c.claim live l p).1 := by
  have hs : c.Quieter (c.seize live p).1 := by
    unfold Channel.seize
    dsimp only
    split
    · exact c.emptied_quieter
    · exact c.emptied_quieter
    · exact c.stopWith_quieter live .brake
  unfold Channel.claim
  split
  · exact .inl ⟨rfl, rfl⟩
  · exact hs
  · exact .refl c

theorem Channel.release_quieter (live : Bool) (l : Link) (p : MotorPort) (c : Channel) :
    c.Quieter (c.release live l p).1 := by
  unfold Channel.release
  repeat' split
  · exact .refl c
  · exact c.stopKeeping_quieter live (by decide)
  · exact .refl c

theorem Motors.claim_quieter (live : Bool) (l : Link) (fs : Fields) (m : Motors) :
    m.Quieter (m.claim live l fs).motors := by
  unfold Motors.claim
  split
  · exact (Motors.takePorts_quieter (Channel.claim_quieter live l) _ m).trans (Motors.conclude_quieter _ _)
  · exact .refl m

theorem Motors.release_quieter (live : Bool) (l : Link) (fs : Fields) (m : Motors) :
    m.Quieter (m.release live l fs).motors := by
  unfold Motors.release
  split
  · exact (Motors.takePorts_quieter (Channel.release_quieter live l) _ m).trans (Motors.conclude_quieter _ _)
  · exact .refl m

theorem Motors.queueSegment_quieter (power : PowerState) (l : Link) (fs : Fields) (m : Motors) :
    m.Quieter (m.queueSegment power l fs).motors :=
  Motors.onPort_quieter fun p => Motors.changing_quieter (fun c => by
    unfold Channel.queueSegment; dsimp only; repeat' split
    all_goals exact .inl ⟨rfl, rfl⟩) m

theorem Motors.flush_quieter (l : Link) (fs : Fields) (m : Motors) : m.Quieter (m.flush l fs).motors :=
  Motors.onPort_quieter fun p => Motors.changing_quieter (fun c => by
    unfold Channel.flush; dsimp only; repeat' split
    all_goals exact .inl ⟨rfl, rfl⟩) m

theorem Motors.stopNow_quieter (live : Bool) (l : Link) (fs : Fields) (m : Motors) :
    m.Quieter (m.stopNow live l fs).motors :=
  Motors.onPort_quieter fun p => by
    split
    · refine Motors.changing_quieter (fun c => ?_) m
      unfold Channel.stopNow
      split
      · exact .refl c
      · exact c.stopWith_quieter live _
    · exact .refl m

theorem Motors.zeroCount_quieter (l : Link) (fs : Fields) (m : Motors) : m.Quieter (m.zeroCount l fs).motors :=
  Motors.onPort_quieter fun p => Motors.changing_quieter (fun c => by
    unfold Channel.zeroCount; split <;> exact .inl ⟨rfl, rfl⟩) m

theorem Motors.setGains_quieter (l : Link) (fs : Fields) (m : Motors) : m.Quieter (m.setGains l fs).motors :=
  Motors.onPort_quieter fun p => by
    split
    · exact .refl m
    · exact Motors.changing_quieter (fun c => by unfold Channel.setGains; split <;> exact .inl ⟨rfl, rfl⟩) m

theorem Motors.setPolicy_quieter (l : Link) (fs : Fields) (m : Motors) : m.Quieter (m.setPolicy l fs).motors :=
  Motors.onPort_quieter fun p => Motors.changing_quieter (fun c => by
    unfold Channel.setPolicy; dsimp only; repeat' split
    all_goals exact .inl ⟨rfl, rfl⟩) m

theorem Motors.clearFault_quieter (live : Bool) (l : Link) (fs : Fields) (m : Motors) :
    m.Quieter (m.clearFault live l fs).motors :=
  Motors.onPort_quieter fun p => Motors.changing_quieter (fun c => by
    unfold Channel.clearFault
    dsimp only
    split
    · exact c.takeRest_quieter live .coast 4000
    · exact .refl c) m

theorem Motors.motorStatus_quieter (fs : Fields) (m : Motors) : m.Quieter (m.motorStatus fs).motors :=
  Motors.onPort_quieter fun _ => .refl m

end Sys2Proof.Machine
end

section
/-! What the work of one block leaves of the whole part: the relation `State.Calm` holds together what every request and
every event but those of the router and the resets keeps (R114, R147 to R149, R160, R164, R26), so that the blocks are
walked once for all of it. -/

namespace Sys2Proof.Machine

/-! ### The router while a block works -/

/-- A block hands the router notices and writes its settings; replies, forwarded frames, records and link state stay. -/
structure Router.Calm (r x : Router) : Prop where
  replies : ∀ k, (x.link k).replies = (r.link k).replies
  replyCount : ∀ k, (x.link k).replyCount = (r.link k).replyCount
  forward : ∀ k, (x.link k).forward = (r.link k).forward
  record : ∀ k, x.record k = r.record k
  up : x.up = r.up
  linked : x.linked = r.linked
  notices : (∀ k, (r.link k).notices.length ≤ 16) → ∀ k, (x.link k).notices.length ≤ 16

theorem Router.Calm.refl (r : Router) : r.Calm r :=
  ⟨fun _ => rfl, fun _ => rfl, fun _ => rfl, fun _ => rfl, rfl, rfl, id⟩

theorem Router.Calm.trans {a b c : Router} (h : a.Calm b) (g : b.Calm c) : a.Calm c :=
  ⟨fun k => (g.replies k).trans (h.replies k), fun k => (g.replyCount k).trans (h.replyCount k),
    fun k => (g.forward k).trans (h.forward k), fun k => (g.record k).trans (h.record k), g.up.trans h.up,
    g.linked.trans h.linked, fun hb => g.notices (h.notices hb)⟩

theorem Router.placeAll_calm (r : Router) (ns : List Sent) : r.Calm (r.placeAll ns) :=
  ⟨fun _ => by simp, fun _ => by simp, fun _ => by simp, fun _ => by simp, by simp, by simp,
    fun h => Router.placeAll_bound ns h⟩

theorem Router.place_calm (r : Router) (l : Link) (n : Notice) : r.Calm (r.place l n) :=
  r.placeAll_calm [{ link := l, notice := n }]

theorem Router.clearOverflow_calm (r : Router) : r.Calm r.clearOverflow := by
  constructor
  case notices => intro h k; cases k; exacts [h .primary, h .remote]
  all_goals first | rfl | (intro k; cases k <;> rfl)

theorem Router.setWindow_calm (r : Router) (n : Nat) (w : RouteWindow) : r.Calm (r.setWindow n w) := by
  unfold Router.setWindow
  split <;> exact ⟨fun k => by cases k <;> rfl, fun k => by cases k <;> rfl, fun k => by cases k <;> rfl,
    fun k => by cases k <;> rfl, rfl, rfl, fun h k => by cases k; exacts [h .primary, h .remote]⟩

/-! ### A chain of watch evaluations -/

/-- What a chain of evaluations leaves of the motors and the router. -/
structure Reach.Calm (w x : Reach) : Prop where
  motors : w.motors.Quieter x.motors
  router : w.router.Calm x.router

theorem Reach.Calm.refl (w : Reach) : w.Calm w := ⟨.refl _, .refl _⟩

theorem Reach.Calm.trans {a b c : Reach} (h : a.Calm b) (g : b.Calm c) : a.Calm c :=
  ⟨h.motors.trans g.motors, h.router.trans g.router⟩

theorem Reach.send_calm (w : Reach) (ns : List Sent) : w.Calm (w.send ns) := ⟨.refl _, Router.placeAll_calm _ ns⟩

theorem Reach.update_calm (w : Reach) (i : WatchId) (g : Watch → Watch) : w.Calm (w.update i g) := ⟨.refl _, .refl _⟩

theorem Reach.setInput_calm (w : Reach) (i : VirtualId) (v : Int) : w.Calm (w.setInput i v) := ⟨.refl _, .refl _⟩

theorem Reach.cut_calm (f : WatchFeed) (a : Rest) (ps : List MotorPort) (w : Reach) : w.Calm (w.cut f a ps).1 :=
  ⟨Motors.watchCut_quieter f.live a ps w.motors, Router.placeAll_calm _ _⟩

theorem Reach.play_calm (f : WatchFeed) (g v p : Nat) (w : Reach) : w.Calm (w.play f g v p).1 := by
  unfold Reach.play
  repeat' split
  case h_1 => exact ⟨.refl _, Router.placeAll_calm _ _⟩
  all_goals exact .refl w

theorem Reach.stopVoices_calm (f : WatchFeed) (w : Reach) : w.Calm (w.stopVoices f).1 :=
  ⟨.refl _, Router.placeAll_calm _ _⟩

/-- An evaluation that keeps what a chain keeps. -/
def CalmEvaluate (ev : Evaluate) : Prop := ∀ i v (w : Reach), w.Calm (ev i v w).1

theorem evalEach_calm {ev : Evaluate} (h : CalmEvaluate ev) (t : Source → Bool) (value : Watch → Int)
    (ks : List WatchId) (w : Reach) : w.Calm (evalEach ev t value ks w).1 := by
  induction ks generalizing w with
  | nil => exact .refl w
  | cons k ks ih =>
    unfold evalEach
    split
    · exact ih w
    · split
      · exact (h _ _ _).trans (ih _)
      · exact ih w

theorem writeInput_calm {ev : Evaluate} (h : CalmEvaluate ev) (i : VirtualId) (v : Int) (w : Reach) :
    w.Calm (writeInput ev i v w).1 := (w.setInput_calm i v).trans (evalEach_calm h _ _ _ _)

theorem performActions_calm (f : WatchFeed) {inner : Option Evaluate} (h : ∀ ev ∈ inner, CalmEvaluate ev)
    (self : WatchId) (v : Int) (as : List Action) (w : Reach) : w.Calm (performActions f inner self v as w).1 := by
  induction as generalizing w with
  | nil => exact .refl w
  | cons a as ih =>
    cases a with
    | brake ps => exact (w.cut_calm f .brake ps).trans (ih _)
    | coast ps => exact (w.cut_calm f .coast ps).trans (ih _)
    | play g vol p => exact (w.play_calm f g vol p).trans (ih _)
    | stopVoices => exact (w.stopVoices_calm f).trans (ih _)
    | notify l c => exact (w.send_calm _).trans (ih _)
    | setVirtual i b =>
      cases inner with
      | some ev => exact (writeInput_calm (h ev rfl) i b w).trans (ih _)
      | none =>
        unfold performActions Reach.writeAction
        dsimp only
        cases w.watch.watched i with
        | true => exact w.update_calm self _
        | false => exact (w.setInput_calm i b).trans (ih _)

theorem evaluate_calm (f : WatchFeed) (depth : Nat) {inner : Option Evaluate} (h : ∀ ev ∈ inner, CalmEvaluate ev) :
    CalmEvaluate (evaluate f depth inner) := by
  intro i v w
  unfold evaluate
  split
  · exact .refl w
  · rename_i e _
    dsimp only
    split
    · have ha : w.Calm ((performActions f inner i v (e.seen v).actions
          (w.update i (fun _ => { (e.seen v) with fires := min 65535 ((e.seen v).fires + 1) }))).1.update i
            Watch.afterFiring) :=
        ((w.update_calm i _).trans (performActions_calm f h i v _ _)).trans (Reach.update_calm _ _ _)
      unfold Reach.fire
      dsimp only
      repeat' split
      · exact ha
      · exact ha
      · exact ha.trans (Reach.send_calm _ _)
    · exact w.update_calm i _

theorem evalWith_calm (f : WatchFeed) : ∀ n, CalmEvaluate (evalWith f n)
  | 0 => evaluate_calm f 4 (by simp)
  | n + 1 => evaluate_calm f (3 - n) (by
      intro ev hev
      rw [Option.mem_some_iff] at hev
      exact hev ▸ evalWith_calm f n)

theorem Reach.sample_calm (f : WatchFeed) (p : SensorPort) (values : List Int) (w : Reach) :
    w.Calm (w.sample f p values) := evalEach_calm (evalWith_calm f 3) _ _ _ w

theorem Reach.cue_calm (f : WatchFeed) (region : Nat) (v : VoiceId) (w : Reach) : w.Calm (w.cue f region v) :=
  evalEach_calm (evalWith_calm f 3) _ _ _ w

theorem Reach.scan_calm (f : WatchFeed) (vb : Nat) (w : Reach) : w.Calm (w.scan f vb) :=
  have hs : w.Calm { w with watch := { w.watch.clearMotorless w.motors with scanEnc := keptCounts w.motors } } :=
    ⟨.refl _, .refl _⟩
  hs.trans (evalEach_calm (evalWith_calm f 3) _ _ _ _)

theorem Reach.fireNow_calm (f : WatchFeed) (i : WatchId) (v : Int) (w : Reach) : w.Calm (w.fireNow f i v) := by
  unfold Reach.fireNow
  repeat' split
  case isTrue => exact evalWith_calm f 3 i v w
  all_goals exact .refl w

theorem Reach.setVirtual_calm (f : WatchFeed) (fs : Fields) (w : Reach) : w.Calm (w.setVirtual f fs).1 := by
  unfold Reach.setVirtual
  dsimp only
  split
  · exact writeInput_calm (evalWith_calm f 3) _ _ w
  · exact .refl w

/-! ### The sound store -/

/-- Whether a compaction has an ASK of a link to answer. -/
def Store.owesTo (st : Store) (l : Link) : Bool := st.compaction.any (fun k => k.asker.any (fun a => a.1 == l))

/-- The form of the bytes stays, and a compaction gets no new ASK to answer. -/
structure Store.Calm (st x : Store) : Prop where
  mem : Memory.wf st.mem = true → Memory.wf x.mem = true
  owes : ∀ l, x.owesTo l = true → st.owesTo l = true

theorem Store.Calm.refl (st : Store) : st.Calm st := ⟨id, fun _ => id⟩

theorem Store.Calm.trans {a b c : Store} (h : a.Calm b) (g : b.Calm c) : a.Calm c :=
  ⟨fun w => g.mem (h.mem w), fun l w => h.owes l (g.owes l w)⟩

/-- What writes only the region table or the upload window. -/
theorem Store.Calm.of_eq {st x : Store} (hm : x.mem = st.mem) (hc : x.compaction = st.compaction) : st.Calm x :=
  ⟨fun w => hm ▸ w, fun l w => by simpa [Store.owesTo, hc] using w⟩

theorem uploadBytes_wf (base length : Nat) (mode : WriteMode) (bs : List Byte) (x : Upload)
    (w : Memory.wf x.mem = true) : Memory.wf (uploadBytes base length mode bs x).mem = true := by
  induction bs generalizing x with
  | nil => exact w
  | cons b bs ih =>
    unfold uploadBytes
    split
    · exact w
    · exact ih _ (Memory.write_wf _ _ w)

theorem Store.defineRegion_calm (fs : Fields) (st : Store) : st.Calm (st.defineRegion fs).store := by
  unfold Store.defineRegion
  dsimp only
  split
  · split
    · exact .refl st
    · split
      · exact .refl st
      · split
        · exact .refl st
        · split
          · exact .refl st
          · exact ⟨Memory.clear_wf _ _, fun _ => id⟩
  · exact .refl st

theorem Store.deleteRegion_calm (u : Uses) (fs : Fields) (st : Store) : st.Calm (st.deleteRegion u fs).store := by
  unfold Store.deleteRegion
  repeat' split
  all_goals exact .of_eq rfl rfl

theorem Store.setClip_calm (u : Uses) (fs : Fields) (st : Store) : st.Calm (st.setClip u fs).store := by
  unfold Store.setClip
  dsimp only
  repeat' split
  all_goals exact .of_eq rfl rfl

theorem Store.setLoopStart_calm (fs : Fields) (st : Store) : st.Calm (st.setLoopStart fs).store := by
  unfold Store.setLoopStart
  repeat' split
  all_goals exact .of_eq rfl rfl

theorem Store.writeStart_calm (u : Uses) (l : Link) (fs : Fields) (st : Store) :
    st.Calm (st.writeStart u l fs).store := by
  unfold Store.writeStart
  dsimp only
  repeat' split
  all_goals exact .of_eq rfl rfl

theorem Store.writeData_calm (l : Link) (data : List Byte) (st : Store) : st.Calm (st.writeData l data).store := by
  unfold Store.writeData
  split
  · exact .refl st
  · split
    · exact .refl st
    · split
      · exact .refl st
      · split
        · exact .refl st
        · exact ⟨fun h => uploadBytes_wf _ _ _ data { mem := st.mem, cursor := _, fill := _, written := 0 } h,
            fun _ => id⟩

theorem Store.writeEnd_calm (l : Link) (st : Store) : st.Calm (st.writeEnd l).store := by
  unfold Store.writeEnd
  dsimp only
  repeat' split
  all_goals exact .of_eq rfl rfl

theorem Store.readRegion_calm (fs : Fields) (st : Store) : st.Calm (st.readRegion fs).store := by
  unfold Store.readRegion
  dsimp only
  repeat' split
  all_goals exact .refl st

theorem Store.record_calm (st : Store) (i offset : Nat) (v : Int) : st.Calm (st.record i offset v) := by
  unfold Store.record
  split
  · exact .refl st
  · exact ⟨fun w => Memory.write_wf _ _ (Memory.write_wf _ _ w), fun _ => id⟩

theorem Store.regionCopied_calm (st : Store) : st.Calm st.regionCopied := by
  have happ : ∀ mv, Memory.wf st.mem = true → Memory.wf (st.applyMove mv).mem = true := by
    intro mv w
    unfold Store.applyMove
    split
    · exact w
    · exact Memory.copy_wf _ _ _ w
  unfold Store.regionCopied
  split
  · exact .refl st
  · rename_i k hk
    split
    · exact .refl st
    · split
      · refine ⟨happ _, fun l => ?_⟩
        cases hs : k.soft <;> simp [Store.owesTo, hk]
      · exact .refl st

theorem Store.tick_calm (st : Store) : st.Calm st.tick :=
  ⟨id, fun l => by cases h : st.compaction <;> simp [Store.owesTo, Store.tick, h]⟩

theorem Store.forgetAsker_calm (l : Link) (st : Store) : st.Calm (st.forgetAsker l) := by
  refine ⟨id, fun k => ?_⟩
  cases h : st.compaction with
  | none => simp [Store.owesTo, Store.forgetAsker, h]
  | some c =>
    simp only [Store.owesTo, Store.forgetAsker, h, Option.map_some, Option.any_some]
    split
    · simp
    · exact id

theorem Store.remoteLost_calm (st : Store) : st.Calm st.remoteLost := by
  unfold Store.remoteLost
  split
  · exact .of_eq rfl rfl
  · exact .refl st

/-! ### The whole part -/

/-- What the work of one block leaves of the whole part: the queue of commands, the form of the store's bytes, the
ranges of the supply monitor and the outputs, and the router but for its notices and settings. -/
structure State.Calm (s t : State) : Prop where
  pending : t.pending = s.pending
  store : s.store.Calm t.store
  ranges : s.supplyInRange = true → s.drivesInRange = true → t.supplyInRange = true ∧ t.drivesInRange = true
  router : s.router.Calm t.router

theorem State.Calm.refl (s : State) : s.Calm s := ⟨rfl, .refl _, fun hs hd => ⟨hs, hd⟩, .refl _⟩

theorem State.Calm.trans {a b c : State} (h : a.Calm b) (g : b.Calm c) : a.Calm c :=
  ⟨g.pending.trans h.pending, h.store.trans g.store,
    fun hs hd => have ⟨hs', hd'⟩ := h.ranges hs hd; g.ranges hs' hd', h.router.trans g.router⟩

/-- The output of a motor is within its range, and the motor driven only in a power state that allows it. -/
def Channel.Safe (live : Bool) (c : Channel) : Prop :=
  (c.driveInRange && (live || c.drive != .driven)) = true

theorem Channel.safe_iff (live : Bool) (c : Channel) :
    c.Safe live ↔ -1000 ≤ c.applied ∧ c.applied ≤ 1000 ∧ (c.drive = .driven ∨ c.applied = 0) ∧
      (live = true ∨ c.drive ≠ .driven) := by
  simp [Channel.Safe, Channel.driveInRange, and_assoc]

theorem State.drivesInRange_iff (s : State) : s.drivesInRange = true ↔ ∀ p, (s.motors.ch.get p).Safe s.live := by
  simp only [State.drivesInRange, List.all_eq_true]
  exact ⟨fun h p => h p (MotorPort.mem_all p), fun h p _ => h p⟩

theorem State.supplyInRange_iff (s : State) :
    s.supplyInRange = true ↔ (1 ≤ s.supply.lambda ∧ s.supply.lambda ≤ 1000) ∧
      (5000 ≤ s.supply.vb ∧ s.supply.vb ≤ 9000) ∧ s.supply.history.length = 8 ∧
      (1000 ≤ s.supply.limit ∧ s.supply.limit ≤ 4000) := by
  simp [State.supplyInRange, and_assoc]

theorem Channel.Quieter.safe {c d : Channel} (h : c.Quieter d) {live : Bool} (hc : c.Safe live) : d.Safe live := by
  rw [Channel.safe_iff] at hc ⊢
  rcases h with ⟨ha, hd⟩ | ⟨ha, hd⟩
  · rwa [ha, hd]
  · exact ⟨by omega, by omega, .inr ha, .inr hd⟩

/-- A block's work with its results in the whole part, the supply monitor's numbers and power state staying. -/
theorem State.Calm.of_parts {s t : State} (hp : t.pending = s.pending)
    (hs : t.supply.power = s.supply.power ∧ (s.supplyInRange = true → t.supplyInRange = true))
    (hm : s.motors.Quieter t.motors) (hst : s.store.Calm t.store) (hr : s.router.Calm t.router) : s.Calm t := by
  refine ⟨hp, hst, fun h hd => ⟨hs.2 h, ?_⟩, hr⟩
  rw [State.drivesInRange_iff] at hd ⊢
  have hl : t.live = s.live := by simp only [State.live, hs.1]
  exact fun p => hl ▸ (hm p).safe (hd p)

theorem State.notifyAll_calm (s : State) (ns : List Sent) : s.Calm (s.notifyAll ns) :=
  .of_parts rfl ⟨rfl, id⟩ (.refl _) (.refl _) (Router.placeAll_calm _ ns)

theorem State.notify_calm (s : State) (l : Link) (n : Notice) : s.Calm (s.notify l n) :=
  .of_parts rfl ⟨rfl, id⟩ (.refl _) (.refl _) (Router.place_calm _ l n)

theorem State.withMotors_calm {s : State} {r : Motors × List Sent} (h : s.motors.Quieter r.1) :
    s.Calm (s.withMotors r) := .of_parts rfl ⟨rfl, id⟩ h (.refl _) (Router.placeAll_calm _ _)

theorem State.withMixer_calm (s : State) (r : Mixer × List Sent) : s.Calm (s.withMixer r) :=
  .of_parts rfl ⟨rfl, id⟩ (.refl _) (.refl _) (Router.placeAll_calm _ _)

theorem State.withReach_calm {s : State} {w : Reach} (h : s.reach.Calm w) : s.Calm (s.withReach w) :=
  .of_parts rfl ⟨rfl, id⟩ h.motors (.refl _) h.router

theorem State.withStore_calm {s : State} {st : Store} (h : s.store.Calm st) : s.Calm { s with store := st } :=
  .of_parts rfl ⟨rfl, id⟩ (.refl _) h (.refl _)

theorem State.withSensors_calm (s : State) (x : Sensors) : s.Calm { s with sensors := x } :=
  .of_parts rfl ⟨rfl, id⟩ (.refl _) (.refl _) (.refl _)

theorem State.withWatch_calm (s : State) (u : WatchUnit) : s.Calm { s with watch := u } :=
  .of_parts rfl ⟨rfl, id⟩ (.refl _) (.refl _) (.refl _)

theorem State.onlyMixer_calm (s : State) (x : Mixer) : s.Calm { s with mixer := x } :=
  .of_parts rfl ⟨rfl, id⟩ (.refl _) (.refl _) (.refl _)

theorem State.withRouter_calm {s : State} {r : Router} (h : s.router.Calm r) : s.Calm { s with router := r } :=
  .of_parts rfl ⟨rfl, id⟩ (.refl _) (.refl _) h

theorem State.whenAwake_calm {f : State → State} {s : State} (h : s.Calm (f s)) : s.Calm (s.whenAwake f) := by
  unfold State.whenAwake
  split
  · exact h
  · exact .refl s

end Sys2Proof.Machine
end

section
/-! What the requests of the catalogue and the events of the blocks leave of the whole part: each is calm
(`State.Calm`), and every request but COMPACT is answered at once (R172). -/

namespace Sys2Proof.Machine

/-! ### Sensor controller -/

theorem State.setPort_calm (s : State) (p : SensorPort) (q : Port) : s.Calm (s.setPort p q) := s.withSensors_calm _

theorem State.setBank_calm (s : State) (b : BankId) (k : Bank) : s.Calm (s.setBank b k) := s.withSensors_calm _

theorem State.finishCapture_calm (s : State) (c : Capture) (o : CaptureOutcome) : s.Calm (s.finishCapture c o) :=
  .of_parts rfl ⟨rfl, id⟩ (.refl _) (.of_eq rfl rfl) (Router.place_calm _ _ _)

theorem State.endCapture_calm (s : State) (p : SensorPort) (o : CaptureOutcome) : s.Calm (s.endCapture p o) := by
  unfold State.endCapture
  split
  · exact .refl s
  · exact s.finishCapture_calm _ o

theorem State.offer_calm (s : State) (p : SensorPort) (values : List Int) : s.Calm (s.offer p values) := by
  unfold State.offer
  split
  · exact .refl s
  · rename_i c _
    split
    · exact s.withSensors_calm _
    · have hw : ∀ x, s.Calm { s with sensors := s.sensors.setCapture x,
                                     store := s.store.record c.region c.offset (values.getD c.index 0) } :=
        fun x => .of_parts rfl ⟨rfl, id⟩ (.refl _) (Store.record_calm _ _ _ _) (.refl _)
      dsimp only
      split
      · exact (hw _).trans (State.finishCapture_calm _ _ _)
      · exact hw _

theorem State.changePort_calm (s : State) (p : SensorPort) (q : Port) (o : Option CaptureOutcome) :
    s.Calm (s.changePort p q o) := by
  have hn : s.Calm (if reportedState q.state then (s.setPort p q).notify .primary ((s.setPort p q).portNotice p)
      else s.setPort p q) := by
    split
    · exact (s.setPort_calm p q).trans (State.notify_calm _ _ _)
    · exact s.setPort_calm p q
  unfold State.changePort
  dsimp only
  split
  · exact hn.trans (State.withWatch_calm _ _)
  · exact (hn.trans (State.withWatch_calm _ _)).trans (State.endCapture_calm _ _ _)

theorem State.changePorts_calm (f : Port → Port) (o : Option CaptureOutcome) (ps : List SensorPort) (s : State) :
    s.Calm (s.changePorts f o ps) := by
  induction ps generalizing s with
  | nil => exact .refl s
  | cons p ps ih => exact (s.changePort_calm p _ o).trans (ih _)

theorem State.measureId_calm (s : State) (p : SensorPort) (c : IdClass) : s.Calm (s.measureId p c) := by
  unfold State.measureId
  dsimp only
  repeat' split
  all_goals first
    | exact .refl s
    | exact s.changePort_calm p _ _
    | exact s.setPort_calm p _

theorem State.tripBank_calm (s : State) (b : BankId) : s.Calm (s.tripBank b) :=
  (s.setBank_calm b _).trans (State.changePorts_calm _ _ _ _)

theorem State.powerUpBank_calm (s : State) (b : BankId) (n : Nat) : s.Calm (s.powerUpBank b n) :=
  (s.setBank_calm b _).trans (State.changePorts_calm _ _ _ _)

theorem State.measureBank_calm (s : State) (b : BankId) (mA : Nat) : s.Calm (s.measureBank b mA) := by
  unfold State.measureBank
  dsimp only
  split
  · split
    · exact s.tripBank_calm b
    · exact s.setBank_calm b _
  · exact .refl s

theorem State.bankTrip_calm (s : State) (b : BankId) : s.Calm (s.bankTrip b) := by
  unfold State.bankTrip
  dsimp only
  split
  · exact s.tripBank_calm b
  · exact .refl s

theorem State.retryEnd_calm (s : State) (b : BankId) : s.Calm (s.retryEnd b) := by
  unfold State.retryEnd
  dsimp only
  split
  · exact s.powerUpBank_calm b _
  · exact .refl s

theorem State.cleanTimeReached_calm (s : State) (b : BankId) : s.Calm (s.cleanTimeReached b) := by
  unfold State.cleanTimeReached
  dsimp only
  split
  · exact s.setBank_calm b _
  · exact .refl s

theorem State.bankRPowerUp_calm (s : State) : s.Calm s.bankRPowerUp := by
  unfold State.bankRPowerUp
  split
  · exact .refl s
  · split
    · exact (s.withSensors_calm _).trans (State.powerUpBank_calm _ _ _)
    · exact .refl s

theorem State.arrive_calm (s : State) (p : SensorPort) (values : List Int) : s.Calm (s.arrive p values) :=
  ((s.setPort_calm p _).trans (State.offer_calm _ p values)).trans (State.withReach_calm (Reach.sample_calm _ _ _ _))

theorem State.accept_calm (s : State) (p : SensorPort) (m : ModeDesc) (values : List Int) :
    s.Calm (s.accept p m values) := by
  unfold State.accept
  dsimp only
  refine .trans ?_ (State.arrive_calm _ _ _)
  split
  · exact s.changePort_calm p _ none
  · exact s.setPort_calm p _

theorem State.passiveSample_calm (s : State) (p : SensorPort) (v : Int) : s.Calm (s.passiveSample p v) := by
  unfold State.passiveSample
  dsimp only
  split
  · exact .refl s
  · split
    · exact s.accept_calm p _ _
    · exact .refl s

theorem State.failAttempt_calm (s : State) (p : SensorPort) (h : Handshake) : s.Calm (s.failAttempt p h) := by
  unfold State.failAttempt
  split
  · exact s.setPort_calm p _
  · exact s.changePort_calm p _ _

theorem State.describeRecord_calm (s : State) (p : SensorPort) (k n b : Nat) :
    s.Calm (s.describeRecord p k n b) := by
  unfold State.describeRecord
  repeat' split
  all_goals first
    | exact .refl s
    | exact s.setPort_calm p _
    | exact s.failAttempt_calm p _

theorem State.modeRecord_calm (s : State) (p : SensorPort) (m : ModeDesc) : s.Calm (s.modeRecord p m) := by
  unfold State.modeRecord
  repeat' split
  all_goals first
    | exact .refl s
    | exact s.setPort_calm p _
    | exact s.failAttempt_calm p _

theorem State.endRecord_calm (s : State) (p : SensorPort) : s.Calm (s.endRecord p) := by
  unfold State.endRecord
  repeat' split
  all_goals first
    | exact .refl s
    | exact s.setPort_calm p _
    | exact s.failAttempt_calm p _

theorem State.acceptSent_calm (s : State) (p : SensorPort) : s.Calm (s.acceptSent p) := by
  unfold State.acceptSent
  repeat' split
  all_goals first
    | exact .refl s
    | exact s.changePort_calm p _ _

theorem State.handshakeTimeout_calm (s : State) (p : SensorPort) : s.Calm (s.handshakeTimeout p) := by
  unfold State.handshakeTimeout
  repeat' split
  all_goals first
    | exact .refl s
    | exact s.failAttempt_calm p _

theorem State.otherRecord_calm (s : State) (p : SensorPort) : s.Calm (s.otherRecord p) := by
  unfold State.otherRecord
  repeat' split
  all_goals first
    | exact .refl s
    | exact s.failAttempt_calm p _

theorem State.dataRecord_calm (s : State) (p : SensorPort) (mode : Nat) (values : List Int) :
    s.Calm (s.dataRecord p mode values) := by
  unfold State.dataRecord
  dsimp only
  repeat' split
  · exact s.otherRecord_calm p
  · exact .refl s
  · exact s.accept_calm p _ _
  · exact .refl s

theorem State.silenceTimeout_calm (s : State) (p : SensorPort) : s.Calm (s.silenceTimeout p) := by
  unfold State.silenceTimeout
  split
  · exact s.changePort_calm p _ _
  · exact .refl s

theorem State.errorTimeEnd_calm (s : State) (p : SensorPort) : s.Calm (s.errorTimeEnd p) := by
  unfold State.errorTimeEnd
  dsimp only
  split
  · exact s.changePort_calm p _ _
  · exact .refl s

theorem State.streamExpiry_calm (s : State) (i : StreamId) : s.Calm (s.streamExpiry i) := by
  unfold State.streamExpiry
  split
  · exact .refl s
  · split
    · dsimp only
      split
      · exact (s.withSensors_calm _).trans (State.notify_calm _ _ _)
      · exact s.withSensors_calm _
    · exact .refl s

/-! ### Sound store, mixer and clock -/

theorem State.handleCue_calm (s : State) (c : CueEvent) : s.Calm (s.handleCue c) :=
  (s.notifyAll_calm _).trans (State.withReach_calm (Reach.cue_calm _ _ _ _))

theorem State.outputEvent_calm (s : State) : s.Calm s.outputEvent := by
  unfold State.outputEvent
  generalize s.mixer.outputEvent s.supply.power s.now s.store = r
  dsimp only
  have hc : ∀ (cs : List CueEvent) (t : State), t.Calm (cs.foldl State.handleCue t) := by
    intro cs
    induction cs with
    | nil => exact .refl
    | cons c cs ih => exact fun t => (t.handleCue_calm c).trans (ih _)
  exact (s.withMixer_calm _).trans (hc _ _)

theorem Router.tick_calm (r : Router) : r.Calm r.tick :=
  ⟨fun k => by cases k <;> rfl, fun k => by cases k <;> rfl, fun k => by cases k <;> rfl, fun k => by cases k <;> rfl,
    rfl, rfl, fun h k => by cases k; exacts [h .primary, h .remote]⟩

theorem State.tick_calm (s : State) : s.Calm s.tick :=
  State.whenAwake_calm (.of_parts rfl ⟨rfl, id⟩ (.refl _) (Store.tick_calm _) (Router.tick_calm _))

/-! ### Control expiry and power states -/

theorem truncDiv_thousandth {x lam : Int} (hx : -1000 ≤ x ∧ x ≤ 1000) (hl : 0 ≤ lam ∧ lam ≤ 1000) :
    -1000 ≤ truncDiv (x * lam) 1000 ∧ truncDiv (x * lam) 1000 ≤ 1000 := by
  have h1 : x * lam ≤ 1000 * 1000 := by nlinarith
  have h2 : -(1000 * 1000) ≤ x * lam := by nlinarith
  unfold truncDiv
  constructor
  · calc (-1000 : Int) = (-(1000 * 1000) : Int).tdiv 1000 := by decide
      _ ≤ _ := Int.tdiv_le_tdiv (by omega) h2
  · calc (x * lam).tdiv 1000 ≤ (1000 * 1000 : Int).tdiv 1000 := Int.tdiv_le_tdiv (by omega) h1
      _ = 1000 := by decide

theorem clamp_mem {lo hi : Int} (h : lo ≤ hi) (x : Int) : lo ≤ clamp lo hi x ∧ clamp lo hi x ≤ hi := by
  unfold clamp; split <;> [skip; split] <;> omega

/-- R39, R40: the budget never raises an output beyond its range. -/
theorem outputDriven_safe {f : Feed} (hl : f.live = true) (hb : f.lam ≤ 1000) (c : Channel) :
    (c.outputDriven f).Safe f.live := by
  rw [Channel.safe_iff]
  have h := truncDiv_thousandth (lam := f.lam) (clamp_mem (by decide : (-1000 : Int) ≤ 1000) (truncDiv (c.uc * 7200) f.vb))
    ⟨by omega, by omega⟩
  exact ⟨h.1, h.2, .inl rfl, .inl hl⟩

theorem Channel.work_safe {f : Feed} (hb : f.lam ≤ 1000) {c : Channel} (hc : c.Safe f.live) :
    (c.work f).Safe f.live := by
  unfold Channel.work
  split
  · exact hc
  · dsimp only
    split
    · rename_i hk
      refine outputDriven_safe ?_ hb c.commanded
      simp only [Channel.computed, Bool.and_eq_true] at hk
      exact hk.1
    · exact (c.unwound_quieter _ c.restInForce c).safe hc

theorem Motors.expiry_safe {f : Feed} (hb : f.lam ≤ 1000) (r : Six MotorReading) {m : Motors} {p : MotorPort}
    (h : (m.ch.get p).Safe f.live) : ((m.expiry f r).1.ch.get p).Safe f.live := by
  have hx := Motors.checkPorts_quieter f r MotorPort.all m p
  have he := (Motors.expiry_get f r m p).1
  generalize Motors.checkPorts f r MotorPort.all m = x at hx he
  have hb' : (x.1.ch.get p).Quieter _ := Motors.breakAll_quieter (x.1.noteGroups.groupsOn x.2.2) x.1.noteGroups p
  generalize Motors.breakAll (x.1.noteGroups.groupsOn x.2.2) x.1.noteGroups = b at hb' he
  rw [he]
  exact (Channel.finishRelease_quieter _).safe
    (Channel.work_safe hb (((hx.trans hb').trans (Motors.examine_quieter f.live 9 b.1.groups b.1 p)).safe h))

theorem State.controlExpiry_calm (s : State) (r : Six MotorReading) : s.Calm (s.controlExpiry r) := by
  have hm : (s.controlExpiry r).motors = (s.motors.expiry s.feed r).1 := rfl
  have hl : (s.controlExpiry r).live = s.live := by simp [State.controlExpiry, State.live]
  have hi : (s.controlExpiry r).supplyInRange = true ↔ s.supplyInRange = true := by
    simp only [State.supplyInRange_iff, State.controlExpiry, State.withMotors_supply]
  have hp : (s.controlExpiry r).pending = s.pending := by simp only [State.controlExpiry, State.withMotors_pending]
  have hst : (s.controlExpiry r).store = s.store := by simp only [State.controlExpiry, State.withMotors_store]
  have hr : (s.controlExpiry r).router = s.router.placeAll (s.motors.expiry s.feed r).2 := rfl
  refine ⟨hp, by rw [hst]; exact .refl _, fun hs hd => ⟨hi.mpr hs, ?_⟩, by rw [hr]; exact Router.placeAll_calm _ _⟩
  rw [State.supplyInRange_iff] at hs
  rw [State.drivesInRange_iff] at hd ⊢
  rw [hm, hl]
  exact fun p => Motors.expiry_safe (f := s.feed) hs.1.2 r (hd p)

/-- Entry into CRITICAL takes every drive (R8). -/
theorem Motors.enterCritical_safe {m : Motors} (p : MotorPort) : (m.enterCritical.1.ch.get p).Safe false := by
  unfold Motors.enterCritical
  dsimp only
  rw [Six.get_map, Channel.safe_iff]
  exact ⟨by simp [Channel.driveOff], by simp [Channel.driveOff], .inr rfl, .inr (by simp [Channel.driveOff])⟩

/-- Out of CRITICAL a motor without output stays so (R8). -/
theorem Channel.restAgain_safe {c : Channel} (h : c.Safe false) : c.restAgain.Safe true := by
  rw [Channel.safe_iff] at h ⊢
  obtain ⟨hlo, hhi, hz, hd⟩ := h
  have h0 : c.applied = 0 := hz.resolve_left (hd.resolve_left (by decide))
  unfold Channel.restAgain
  split
  · exact ⟨hlo, hhi, .inr h0, .inl rfl⟩
  · exact ⟨hlo, hhi, hz, .inl rfl⟩

/-- The power states a transition leads between (R161). -/
theorem Supply.transition_cases {x : Supply} {new : PowerState} (h : x.transition = some new) :
    (x.power = .run ∧ (new = .economy ∨ new = .critical)) ∨ (x.power = .economy ∧ (new = .run ∨ new = .critical)) ∨
      (x.power = .critical ∧ new = .economy) := by
  unfold Supply.transition at h
  split at h
  all_goals (rename_i hp; simp only [hp])
  all_goals (repeat' split at h) <;> simp_all

/-- A transition of the power state leaves every output safe in the new state (R8, R161). -/
theorem State.changePower_calm {s : State} {new : PowerState}
    (h : (s.supply.power = .run ∧ (new = .economy ∨ new = .critical)) ∨
      (s.supply.power = .economy ∧ (new = .run ∨ new = .critical)) ∨ (s.supply.power = .critical ∧ new = .economy)) :
    s.Calm (s.changePower new) := by
  refine ⟨rfl, .refl _, fun hs hd => ⟨hs, ?_⟩, ?_⟩
  · rw [State.drivesInRange_iff] at hd ⊢
    have hm : (s.changePower new).motors = (s.motors.powerChanged s.supply.power new).1 := rfl
    have hl : (s.changePower new).live = (new == .run || new == .economy) := rfl
    intro p
    have hp := hd p
    rw [hm, hl]
    simp only [State.live] at hp
    rcases h with ⟨ho, rfl | rfl⟩ | ⟨ho, rfl | rfl⟩ | ⟨ho, rfl⟩
    · simpa [Motors.powerChanged, ho] using hp
    · exact Motors.enterCritical_safe p
    · simpa [Motors.powerChanged, ho] using hp
    · exact Motors.enterCritical_safe p
    · simp only [ho] at hp
      simp only [Motors.powerChanged, ho, if_true, Motors.leaveCritical, Six.get_map]
      exact Channel.restAgain_safe hp
  · have hn := Router.place_calm s.router .primary (.powerEvent s.supply.power new s.supply.vb s.supply.lambda s.now)
    exact hn.trans ((Router.placeAll_calm _ (s.motors.powerChanged s.supply.power new).2).trans
      (Router.placeAll_calm _ (s.mixer.powerChanged s.now s.supply.power new).2))

theorem averageOf_mem (h : List Nat) : 5000 ≤ averageOf h ∧ averageOf h ≤ 9000 := by
  have := clamp_mem (by decide : (5000 : Int) ≤ 9000) ((h.sum / 8 : Nat) : Int)
  unfold averageOf
  omega

theorem nextLambda_mem {lam : Nat} (hl : 1 ≤ lam ∧ lam ≤ 1000) (limit total : Nat) :
    1 ≤ nextLambda lam limit total ∧ nextLambda lam limit total ≤ 1000 := by
  unfold nextLambda
  split
  · rename_i ht
    refine ⟨Nat.le_max_left _ _, Nat.max_le.mpr ⟨by decide, ?_⟩⟩
    calc lam * limit / total ≤ 1000 * total / total :=
          Nat.div_le_div_right (Nat.mul_le_mul hl.2 ht.le)
      _ = 1000 := Nat.mul_div_cancel _ (by omega)
  · omega

/-- The counts of an update are all that it writes besides what was measured (R161). -/
theorem Supply.counted_frame (x : Supply) :
    x.counted.power = x.power ∧ x.counted.lambda = x.lambda ∧ x.counted.vb = x.vb ∧ x.counted.history = x.history ∧
      x.counted.limit = x.limit := by
  unfold Supply.counted; split <;> exact ⟨rfl, rfl, rfl, rfl, rfl⟩

theorem State.takeTransition_calm (s : State) : s.Calm s.takeTransition := by
  unfold State.takeTransition
  split
  · exact .refl s
  · exact State.changePower_calm (Supply.transition_cases ‹_›)

theorem State.supplyUpdate_calm (s : State) (mv : Nat) : s.Calm (s.supplyUpdate mv) := by
  unfold State.supplyUpdate
  split
  · refine State.Calm.trans (b := { s with supply := (s.supply.measured mv).counted }) ?measured
      (.trans (State.takeTransition_calm _) ?budget)
    case measured =>
      obtain ⟨cp, cl, cv, ch, cb⟩ := (s.supply.measured mv).counted_frame
      refine .of_parts rfl ⟨cp, fun h => ?_⟩ (.refl _) (.refl _) (.refl _)
      rw [State.supplyInRange_iff] at h ⊢
      obtain ⟨hl, -, hh, hb⟩ := h
      have hh' : (s.supply.measured mv).history.length = 8 := by simp [Supply.measured, hh]
      simp only [cl, cv, ch, cb, hh']
      simp only [Supply.measured]
      exact ⟨hl, averageOf_mem _, trivial, hb⟩
    case budget =>
      refine .of_parts rfl ⟨rfl, fun h => ?_⟩ (.refl _) (.refl _) (.refl _)
      rw [State.supplyInRange_iff] at h ⊢
      obtain ⟨hl, hv⟩ := h
      exact ⟨nextLambda_mem hl _ _, hv⟩
  · exact .refl s

theorem State.powerStateChange_calm (s : State) : s.Calm s.powerStateChange := by
  unfold State.powerStateChange
  split
  · exact .refl s
  · rename_i h
    refine State.changePower_calm ?_
    have := Supply.transition_cases h
    rwa [(s.supply.counted_frame).1] at this

theorem State.identNoticeDue_calm (s : State) : s.Calm s.identNoticeDue := by
  unfold State.identNoticeDue
  split
  · exact .refl s
  · split
    · exact .trans (b := { s with supply := { s.supply with identDue := none } })
        (.of_parts rfl ⟨rfl, id⟩ (.refl _) (.refl _) (.refl _)) (State.notify_calm _ _ _)
    · exact .refl s

end Sys2Proof.Machine
end

section
/-! What the requests of the catalogue and taking a frame leave of the whole part: every request but an accepted COMPACT
is calm and answered at once (R172). -/

namespace Sys2Proof.Machine

/-! ### Sensor requests -/

theorem State.sensorStatus_calm (fs : Fields) (s : State) : s.Calm (s.sensorStatus fs).1 := by
  unfold State.sensorStatus; split <;> exact .refl s

theorem State.selectMode_calm (fs : Fields) (s : State) : s.Calm (s.selectMode fs).1 := by
  unfold State.selectMode
  dsimp only
  repeat' split
  · exact .refl s
  · exact .refl s
  · dsimp only
    exact s.changePort_calm _ _ _
  · exact .refl s

theorem State.readSamples_calm (fs : Fields) (s : State) : s.Calm (s.readSamples fs).1 := by
  unfold State.readSamples; dsimp only; split <;> exact .refl s

theorem State.bankRestore_calm (fs : Fields) (s : State) : s.Calm (s.bankRestore fs).1 := by
  unfold State.bankRestore
  dsimp only
  split
  · split
    · exact s.powerUpBank_calm _ _
    · exact .refl s
  · exact .refl s

theorem State.beginCapture_calm (s : State) (c : Capture) (r : Region) : s.Calm (s.beginCapture c r) := by
  have hb : s.Calm { s with sensors := { s.sensors with captures := s.sensors.captures ++ [c] },
                            store := s.store.update r.id (fun r => { r with ready := false }) } :=
    .of_parts rfl ⟨rfl, id⟩ (.refl _) (.of_eq rfl rfl) (.refl _)
  unfold State.beginCapture
  dsimp only
  split
  · exact hb.trans (State.finishCapture_calm _ _ _)
  · exact hb

theorem State.captureStart_calm (l : Link) (fs : Fields) (s : State) : s.Calm (s.captureStart l fs).1 := by
  unfold State.captureStart
  dsimp only
  split
  · split
    · exact s.beginCapture_calm _ _
    · exact .refl s
    · exact .refl s
  · exact .refl s

theorem State.captureStop_calm (l : Link) (fs : Fields) (s : State) : s.Calm (s.captureStop l fs).1 := by
  unfold State.captureStop
  split
  · split
    · exact .refl s
    · split
      · exact .refl s
      · exact s.finishCapture_calm _ _
  · exact .refl s

theorem State.streamOpen_calm (l : Link) (fs : Fields) (s : State) : s.Calm (s.streamOpen l fs).1 := by
  unfold State.streamOpen
  dsimp only
  split
  · exact .refl s
  · split
    · exact s.withSensors_calm _
    · exact .refl s

theorem State.streamClose_calm (l : Link) (fs : Fields) (s : State) : s.Calm (s.streamClose l fs).1 := by
  unfold State.streamClose
  split
  · split
    · exact .refl s
    · split
      · exact .refl s
      · exact s.withSensors_calm _
  · exact .refl s

/-! ### System and routing requests -/

theorem State.shutDown_calm (s : State) (k : ShutdownKind) : s.Calm (s.shutDown k) :=
  .of_parts rfl ⟨rfl, id⟩ (.refl _) (.refl _) (.refl _)

/-- A checked number is one the check lets through. -/
theorem Val.check_eq_val {v : Val Nat} {c : Check} {f : Nat → Option Nat} {n : Nat} (h : v.check c f = .val n) :
    ∃ m, f m = some n := by
  cases v with
  | val m =>
    simp only [Val.check] at h
    split at h
    · cases h
    · rename_i x hx
      exact ⟨m, hx.trans (congrArg some (Val.val.inj h))⟩
  | _ => simp [Val.check] at h

theorem State.setBudget_calm (l : Link) (fs : Fields) (s : State) : s.Calm (s.setBudget l fs).1 := by
  unfold State.setBudget
  split
  · rename_i n hn
    refine .of_parts rfl ⟨rfl, fun h => ?_⟩ (.refl _) (.refl _) (.refl _)
    rw [State.supplyInRange_iff] at h ⊢
    obtain ⟨hl, hv, hh, -⟩ := h
    obtain ⟨m, hm⟩ := Val.check_eq_val hn
    split at hm
    · cases hm
    · rename_i ho
      obtain rfl := Option.some.inj hm
      exact ⟨hl, hv, hh, by simpa [outsideNat] using ho⟩
  · exact .refl s

theorem State.zeroCount_calm (l : Link) (fs : Fields) (s : State) : s.Calm (State.zeroCount l fs s).1 := by
  have hz : s.Calm (s.motorOutcome (s.motors.zeroCount l fs)).1 :=
    State.withMotors_calm (Motors.zeroCount_quieter l fs s.motors)
  unfold State.zeroCount
  dsimp only
  split
  · split
    · exact hz.trans (State.withWatch_calm _ _)
    · exact hz
  · exact hz

theorem State.setWindow_calm (l : Link) (fs : Fields) (s : State) : s.Calm (s.setWindow l fs).1 := by
  unfold State.setWindow
  dsimp only
  split
  · exact State.withRouter_calm (Router.setWindow_calm _ _ _)
  · exact .refl s

theorem Router.settings_calm (r : Router) (w : Nat) (a : AbortMode) (p : LossPolicy) :
    r.Calm { r with wait := w, abortMode := a, lossPolicy := p } :=
  ⟨fun k => by cases k <;> rfl, fun k => by cases k <;> rfl, fun k => by cases k <;> rfl, fun k => by cases k <;> rfl,
    rfl, rfl, fun h k => by cases k; exacts [h .primary, h .remote]⟩

theorem State.setForward_calm (l : Link) (fs : Fields) (s : State) : s.Calm (s.setForward l fs).1 := by
  unfold State.setForward
  dsimp only
  split
  all_goals
    split
    · exact .refl s
    · exact State.withRouter_calm (s.router.settings_calm _ _ s.router.lossPolicy)

theorem State.remotePolicy_calm (l : Link) (fs : Fields) (s : State) : s.Calm (s.remotePolicy l fs).1 := by
  unfold State.remotePolicy
  split
  · exact State.withRouter_calm (s.router.settings_calm s.router.wait s.router.abortMode _)
  · exact .refl s

/-! ### The handlers of the catalogue -/

/-- A handler that answers at once, its work being calm. -/
def AnswersCalmly (h : Handler) : Prop := ∀ r (s : State), ∃ y, (h r s).2 = some y ∧ s.Calm (h r s).1

theorem refused_calm (s : State) (y : Reply) : ∃ z, (refused s y).2 = some z ∧ s.Calm (refused s y).1 :=
  ⟨y, rfl, .refl s⟩

theorem onFields_calm {act : Link → Fields → State → Outcome} (h : ∀ l fs (s : State), s.Calm (act l fs s).1) :
    AnswersCalmly (onFields act) := by
  intro r s
  unfold onFields
  split
  · exact refused_calm s _
  · exact ⟨_, rfl, h _ _ s⟩

theorem unlessCompacting_calm {h : Handler} (hh : AnswersCalmly h) : AnswersCalmly (unlessCompacting h) := by
  intro r s
  unfold unlessCompacting
  split
  · exact refused_calm s _
  · exact hh r s

theorem onMotors_calm {f : State → Link → Fields → MotorAnswer} (h : ∀ (s : State) l fs, s.motors.Quieter (f s l fs).motors) :
    AnswersCalmly (onFields (fun l fs s => s.motorOutcome (f s l fs))) :=
  onFields_calm fun l fs s => State.withMotors_calm (h s l fs)

theorem onStore_calm {f : State → Link → Fields → StoreAnswer} (h : ∀ (s : State) l fs, s.store.Calm (f s l fs).store) :
    AnswersCalmly (unlessCompacting (onFields (fun l fs s => s.storeOutcome (f s l fs)))) :=
  unlessCompacting_calm (onFields_calm fun l fs s => State.withStore_calm (h s l fs))

theorem onMixer_calm (f : State → Link → Fields → MixerAnswer) :
    AnswersCalmly (unlessCompacting (onFields (fun l fs s => s.mixerOutcome (f s l fs)))) :=
  unlessCompacting_calm (onFields_calm fun l fs s => s.withMixer_calm ((f s l fs).mixer, (f s l fs).sent))

theorem onWatch_calm (f : State → Link → Fields → WatchAnswer) :
    AnswersCalmly (onFields (fun l fs s => s.watchOutcome (f s l fs))) :=
  onFields_calm fun l fs s => s.withWatch_calm (f s l fs).watch

@[simp] theorem handleIdent_calm : AnswersCalmly handleIdent := fun _ s => ⟨_, rfl, .refl s⟩

@[simp] theorem handleSetTag_calm : AnswersCalmly handleSetTag := by
  intro r s
  unfold handleSetTag
  split
  · exact ⟨_, rfl, .of_parts rfl ⟨rfl, id⟩ (.refl _) (.refl _) (.refl _)⟩
  · exact refused_calm s _

@[simp] theorem handleReset_calm : AnswersCalmly handleReset := fun _ s => ⟨_, rfl, s.shutDown_calm _⟩

@[simp] theorem handleSleep_calm : AnswersCalmly handleSleep := fun _ s => ⟨_, rfl, s.shutDown_calm _⟩

@[simp] theorem handlePause_calm : AnswersCalmly handlePause := by
  intro r s
  unfold handlePause
  dsimp only
  split
  · exact ⟨_, rfl, (State.withMotors_calm s.motors.pauseNow_quieter).trans (State.onlyMixer_calm _ _)⟩
  · exact ⟨_, rfl, .refl s⟩

@[simp] theorem handleResume_calm : AnswersCalmly handleResume := by
  intro r s
  unfold handleResume
  split
  · exact ⟨_, rfl, .refl s⟩
  · exact ⟨_, rfl, (State.withMotors_calm s.motors.resumeNow_quieter).trans (State.onlyMixer_calm _ _)⟩

@[simp] theorem handleStep_calm : AnswersCalmly handleStep := by
  intro r s
  unfold handleStep
  dsimp only
  split
  · split
    · exact ⟨_, rfl, .refl s⟩
    · exact ⟨_, rfl, State.withMotors_calm s.motors.stepNow_quieter⟩
  · exact refused_calm s _

@[simp] theorem handlePowerStatus_calm : AnswersCalmly handlePowerStatus := fun _ s => ⟨_, rfl, .refl s⟩

@[simp] theorem handleSetBudget_calm : AnswersCalmly handleSetBudget := onFields_calm State.setBudget_calm

@[simp] theorem handleClaim_calm : AnswersCalmly handleClaim := onMotors_calm fun _ _ _ => Motors.claim_quieter _ _ _ _

@[simp] theorem handleRelease_calm : AnswersCalmly handleRelease :=
  onMotors_calm fun _ _ _ => Motors.release_quieter _ _ _ _

@[simp] theorem handleQueueSegment_calm : AnswersCalmly handleQueueSegment :=
  onMotors_calm fun _ _ _ => Motors.queueSegment_quieter _ _ _ _

@[simp] theorem handleFlush_calm : AnswersCalmly handleFlush := onMotors_calm fun _ _ _ => Motors.flush_quieter _ _ _

@[simp] theorem handleSetGains_calm : AnswersCalmly handleSetGains :=
  onMotors_calm fun _ _ _ => Motors.setGains_quieter _ _ _

@[simp] theorem handleSetPolicy_calm : AnswersCalmly handleSetPolicy :=
  onMotors_calm fun _ _ _ => Motors.setPolicy_quieter _ _ _

@[simp] theorem handleZeroCount_calm : AnswersCalmly handleZeroCount := onFields_calm State.zeroCount_calm

@[simp] theorem handleMotorStatus_calm : AnswersCalmly handleMotorStatus :=
  onMotors_calm fun _ _ _ => Motors.motorStatus_quieter _ _

@[simp] theorem handleClearFault_calm : AnswersCalmly handleClearFault :=
  onMotors_calm fun _ _ _ => Motors.clearFault_quieter _ _ _ _

@[simp] theorem handleStopNow_calm : AnswersCalmly handleStopNow :=
  onMotors_calm fun _ _ _ => Motors.stopNow_quieter _ _ _ _

@[simp] theorem handleSensorStatus_calm : AnswersCalmly handleSensorStatus :=
  onFields_calm fun _ => State.sensorStatus_calm

@[simp] theorem handleSelectMode_calm : AnswersCalmly handleSelectMode := onFields_calm fun _ => State.selectMode_calm

@[simp] theorem handleReadSamples_calm : AnswersCalmly handleReadSamples :=
  onFields_calm fun _ => State.readSamples_calm

@[simp] theorem handleStreamOpen_calm : AnswersCalmly handleStreamOpen := onFields_calm State.streamOpen_calm

@[simp] theorem handleStreamClose_calm : AnswersCalmly handleStreamClose := onFields_calm State.streamClose_calm

@[simp] theorem handleCaptureStart_calm : AnswersCalmly handleCaptureStart :=
  unlessCompacting_calm (onFields_calm State.captureStart_calm)

@[simp] theorem handleCaptureStop_calm : AnswersCalmly handleCaptureStop := onFields_calm State.captureStop_calm

@[simp] theorem handleBankRestore_calm : AnswersCalmly handleBankRestore := by
  intro r s
  unfold handleBankRestore
  split
  · exact refused_calm s _
  · exact onFields_calm (fun _ => State.bankRestore_calm) r s

@[simp] theorem handleWatchSet_calm : AnswersCalmly handleWatchSet := onWatch_calm _

@[simp] theorem handleWatchClear_calm : AnswersCalmly handleWatchClear := onWatch_calm _

@[simp] theorem handleWatchRearm_calm : AnswersCalmly handleWatchRearm := onWatch_calm _

@[simp] theorem handleWatchStatus_calm : AnswersCalmly handleWatchStatus := onFields_calm fun _ _ s => .refl s

@[simp] theorem handleSetVirtual_calm : AnswersCalmly handleSetVirtual :=
  onFields_calm fun _ _ _ => State.withReach_calm (Reach.setVirtual_calm _ _ _)

@[simp] theorem handleWatchEnable_calm : AnswersCalmly handleWatchEnable := onWatch_calm _

@[simp] theorem handleDefineRegion_calm : AnswersCalmly handleDefineRegion :=
  onStore_calm fun _ _ _ => Store.defineRegion_calm _ _

@[simp] theorem handleDeleteRegion_calm : AnswersCalmly handleDeleteRegion :=
  onStore_calm fun _ _ _ => Store.deleteRegion_calm _ _ _

@[simp] theorem handleSetClip_calm : AnswersCalmly handleSetClip := onStore_calm fun _ _ _ => Store.setClip_calm _ _ _

@[simp] theorem handleWriteStart_calm : AnswersCalmly handleWriteStart :=
  onStore_calm fun _ _ _ => Store.writeStart_calm _ _ _ _

@[simp] theorem handleWriteData_calm : AnswersCalmly handleWriteData := by
  refine unlessCompacting_calm fun r s => ?_
  split
  · exact refused_calm s _
  · exact ⟨_, rfl, State.withStore_calm (Store.writeData_calm _ _ _)⟩

@[simp] theorem handleWriteEnd_calm : AnswersCalmly handleWriteEnd :=
  unlessCompacting_calm fun _ _ => ⟨_, rfl, State.withStore_calm (Store.writeEnd_calm _ _)⟩

@[simp] theorem handleReadRegion_calm : AnswersCalmly handleReadRegion :=
  onStore_calm fun _ _ _ => Store.readRegion_calm _ _

@[simp] theorem handlePlay_calm : AnswersCalmly handlePlay := onMixer_calm _

@[simp] theorem handlePlayTone_calm : AnswersCalmly handlePlayTone := onMixer_calm _

@[simp] theorem handleReleaseVoice_calm : AnswersCalmly handleReleaseVoice := onMixer_calm _

@[simp] theorem handleStopVoice_calm : AnswersCalmly handleStopVoice := onMixer_calm _

@[simp] theorem handleSetVolume_calm : AnswersCalmly handleSetVolume := onMixer_calm _

@[simp] theorem handleSetLoopStart_calm : AnswersCalmly handleSetLoopStart :=
  onStore_calm fun _ _ _ => Store.setLoopStart_calm _ _

@[simp] theorem handleSoundStatus_calm : AnswersCalmly handleSoundStatus := by
  refine unlessCompacting_calm fun r s => ⟨_, rfl, ?_⟩
  show s.Calm (if r.cls = .ask then { s with mixer := s.mixer.clearClipped } else s)
  split
  · exact s.onlyMixer_calm _
  · exact .refl s

@[simp] theorem handleSetWindow_calm : AnswersCalmly handleSetWindow := onFields_calm State.setWindow_calm

@[simp] theorem handleSetForward_calm : AnswersCalmly handleSetForward := onFields_calm State.setForward_calm

@[simp] theorem handleRouteStatus_calm : AnswersCalmly handleRouteStatus := by
  refine fun r s => ⟨_, rfl, ?_⟩
  show s.Calm (if r.cls = .ask then { s with router := s.router.clearOverflow } else s)
  split
  · exact State.withRouter_calm (Router.clearOverflow_calm _)
  · exact .refl s

@[simp] theorem handleRemotePolicy_calm : AnswersCalmly handleRemotePolicy := onFields_calm State.remotePolicy_calm

/-- A COMPACT is refused, or a compaction begins that answers later (R124, R125). -/
theorem handleCompact_cases (r : Req) (s : State) :
    (∃ y, handleCompact r s = refused s y) ∨
      (s.store.compaction = none ∧ ∃ asker, handleCompact r s = ({ s with store := s.store.beginCompaction asker }, none)) := by
  unfold handleCompact unlessCompacting
  cases hk : s.compacting with
  | true => exact .inl ⟨_, rfl⟩
  | false =>
    have hn : s.store.compaction = none := by simpa [State.compacting] using hk
    cases hr : s.store.compactRefusal s.uses s.supply.power with
    | some st => exact .inl ⟨Reply.refuse st, by simp [hr]⟩
    | none => exact .inr ⟨hn, _, by simp [hr]; rfl⟩

/-- Every request of the catalogue but COMPACT is calm and answered at once. -/
theorem handlerOf_calm {channel : Byte} {h : Handler} (hc : handlerOf channel = some h) :
    (channel = 0x47 ∧ h = handleCompact) ∨ AnswersCalmly h := by
  unfold handlerOf at hc
  split at hc
  case h_41 heq => exact .inl ⟨BitVec.eq_of_toNat_eq heq, (Option.some.inj hc).symm⟩
  case h_53 => cases hc
  all_goals exact .inr (Option.some.inj hc ▸ by simp)

/-! ### One reply for an ASK, none for a TELL -/

theorem State.replied_replies_other (s : State) (c : Byte) (r : Req) (y : Reply) :
    ((s.replied c r y).router.link r.link.other).replies = (s.router.link r.link.other).replies := by
  have hne : r.link.other ≠ r.link := by cases r.link <;> decide
  unfold State.replied State.answer Router.placeReply
  split
  · simp [Router.link_setLink, hne]
  · rfl

/-- A calm request that the router admits: an ASK has its one reply, and a TELL none. -/
theorem takeRequest_replies {channel : Byte} {h : Handler} {r : Req} {s : State} {y : Reply}
    (ha : s.admits r.link channel = true) (hy : (h r (s.entered channel r)).2 = some y)
    (hc : (s.entered channel r).Calm (h r (s.entered channel r)).1) :
    (r.cls = .ask → ((s.takeRequest channel h r).router.link r.link).replies =
        (s.router.link r.link).replies ++ [replyFrame channel r.tag y.payload] ∧
      ((s.takeRequest channel h r).router.link r.link.other).replies = (s.router.link r.link.other).replies) ∧
    (r.cls = .tell → ∀ k, ((s.takeRequest channel h r).router.link k).replies = (s.router.link k).replies) := by
  have hkeep : ∀ k, ((h r (s.entered channel r)).1.router.link k).replies = (s.router.link k).replies := fun k => by
    rw [hc.router.replies k, State.entered_replies]
  have hf : s.takeRequest channel h r = (h r (s.entered channel r)).1.replied channel r y := by
    rw [takeRequest_of_admits h ha]
    generalize h r (s.entered channel r) = x at hy
    obtain ⟨t, o⟩ := x
    obtain rfl : o = some y := hy
    rfl
  rw [hf]
  refine ⟨fun hask => ⟨?_, ?_⟩, fun htell k => ?_⟩
  · rw [State.replied_replies _ _ _ _ hask, hkeep]
  · rw [State.replied_replies_other, hkeep]
  · simp [State.replied, htell, hkeep]

/-- Settles O4: the handler's reply is placed once, its work placing none. -/
theorem requestGetsOneReply : Obligations.RequestGetsOneReply := by
  unfold Obligations.RequestGetsOneReply
  intro channel h r s hh ha
  have calm : ∀ y, (h r (s.entered channel r)).2 = some y → (s.entered channel r).Calm (h r (s.entered channel r)).1 →
      _ := fun y hy hc => takeRequest_replies (y := y) ha hy hc
  rcases handlerOf_calm hh with ⟨rfl, rfl⟩ | hcalm
  · rcases handleCompact_cases r (s.entered 0x47 r) with ⟨y, hy⟩ | ⟨hn, a, ha'⟩
    · have hp := calm y (by rw [hy]; rfl) (by rw [hy]; exact .refl _)
      exact ⟨fun hask _ => ⟨_, hp.1 hask⟩, hp.2⟩
    · refine ⟨fun _ hor => ?_, fun _ k => ?_⟩
      · rw [State.entered_store] at hn
        exact absurd hn (hor.resolve_left (fun hne => hne rfl))
      · rw [takeRequest_of_admits _ ha, ha']
        exact State.entered_replies s 0x47 r k
  · obtain ⟨y, hy, hc⟩ := hcalm r (s.entered channel r)
    have hp := calm y hy hc
    exact ⟨fun hask _ => ⟨_, hp.1 hask⟩, hp.2⟩

end Sys2Proof.Machine
end

section
/-! What every command leaves: the queue of commands, the form of the store's bytes, and the ranges of the supply monitor
and the outputs (R114, R160, R164, R26). -/

namespace Sys2Proof.Machine

/-- What every command keeps, whatever it does to the router. -/
structure State.Kept (s t : State) : Prop where
  pending : t.pending = s.pending
  mem : Memory.wf s.store.mem = true → Memory.wf t.store.mem = true
  ranges : s.supplyInRange = true → s.drivesInRange = true → t.supplyInRange = true ∧ t.drivesInRange = true

theorem State.Kept.refl (s : State) : s.Kept s := ⟨rfl, id, fun hs hd => ⟨hs, hd⟩⟩

theorem State.Kept.trans {a b c : State} (h : a.Kept b) (g : b.Kept c) : a.Kept c :=
  ⟨g.pending.trans h.pending, fun w => g.mem (h.mem w), fun hs hd => have ⟨hs', hd'⟩ := h.ranges hs hd; g.ranges hs' hd'⟩

theorem State.Calm.kept {s t : State} (h : s.Calm t) : s.Kept t := ⟨h.pending, h.store.mem, h.ranges⟩

/-- Writing only the router keeps all of it. -/
theorem State.withRouter_kept (s : State) (r : Router) : s.Kept { s with router := r } :=
  ⟨rfl, id, fun hs hd => ⟨hs, hd⟩⟩

theorem State.whenAwake_kept {f : State → State} {s : State} (h : s.Calm (f s)) : s.Kept (s.whenAwake f) :=
  (State.whenAwake_calm h).kept

/-! ### Taking a frame -/

/-- A handler whose work keeps what every command keeps. -/
def Keeps (h : Handler) : Prop := ∀ r s, State.Kept s (h r s).1

theorem AnswersCalmly.keeps {h : Handler} (hc : AnswersCalmly h) : Keeps h := fun r s =>
  have ⟨_, _, hk⟩ := hc r s
  hk.kept

theorem handleCompact_keeps : Keeps handleCompact := by
  intro r s
  rcases handleCompact_cases r s with ⟨y, hy⟩ | ⟨-, a, ha⟩
  · rw [hy]; exact .refl s
  · rw [ha]; exact ⟨rfl, id, fun hs hd => ⟨hs, hd⟩⟩

theorem handlerOf_keeps {channel : Byte} {h : Handler} (hc : handlerOf channel = some h) : Keeps h := by
  rcases handlerOf_calm hc with ⟨-, rfl⟩ | hcalm
  · exact handleCompact_keeps
  · exact hcalm.keeps

theorem State.handToBlock_kept {h : Option Handler} (hk : ∀ act ∈ h, Keeps act) (l : Link) (f : Frame) (s : State) :
    s.Kept (s.handToBlock h l f) := by
  unfold State.handToBlock
  split
  · rename_i act _
    have ha := hk act rfl { link := l, cls := .ask, tag := f.tag, payload := f.payload } s
    split <;> (rename_i heq; rw [heq] at ha)
    · exact ha.trans (State.withRouter_kept _ _)
    · exact ha
  · exact s.withRouter_kept _
  · rename_i act _
    exact hk act rfl _ s
  · exact .refl s

theorem State.route_kept {h : Option Handler} (hk : ∀ act ∈ h, Keeps act) (l : Link) (f : Frame) (s : State) :
    s.Kept (State.route h l f s) := by
  have hr : ∀ t : State, t.Kept (t.handFromRemote h f) := by
    intro t
    unfold State.handFromRemote
    split
    · split
      · exact t.withRouter_kept _
      · exact .refl t
    · exact t.handToBlock_kept hk _ f
  cases l with
  | primary =>
    show s.Kept (s.routePrimary h f)
    unfold State.routePrimary
    split
    · exact s.handToBlock_kept hk _ f
    · split
      · exact s.withRouter_kept _
      · split
        · exact s.withRouter_kept _
        · exact .refl s
  | remote =>
    show s.Kept (s.routeRemote h f)
    unfold State.routeRemote
    split
    · exact hr s
    · exact (s.withRouter_kept _).trans (hr _)
    · exact s.withRouter_kept _

theorem State.takeFrame_kept {h : Option Handler} (hk : ∀ act ∈ h, Keeps act) (l : Link) (f : Frame) (s : State) :
    s.Kept (s.takeFrame h l f) := by
  have h1 : s.Kept (s.setRx l Receiver.hunting) := s.withRouter_kept _
  unfold State.takeFrame
  dsimp only
  split
  · split
    · exact (h1.trans (State.withRouter_kept _ _)).trans (State.route_kept hk _ _ _)
    · exact h1.trans (State.route_kept hk _ _ _)
    · exact h1.trans (State.withRouter_kept _ _)
    · exact h1
  · exact h1

theorem State.takeAny_kept (l : Link) (f : Frame) (s : State) : s.Kept (s.takeAny l f) :=
  s.takeFrame_kept (fun _ h => handlerOf_keeps h) l f

theorem State.takeRequest_kept (channel : Byte) {h : Handler} (hk : Keeps h) (r : Req) (s : State) :
    s.Kept (s.takeRequest channel h r) :=
  s.takeFrame_kept (fun _ ha => Option.mem_some_iff.mp ha ▸ hk) _ _

/-! ### The receivers and the router's events -/

theorem State.receive_kept (l : Link) (bytes : List Byte) (s : State) : s.Kept (s.receive l bytes) := by
  have hb : ∀ (b : Byte) (t : State), t.Kept (t.receiveByte l b) := by
    intro b t
    unfold State.receiveByte
    dsimp only
    split
    · exact t.withRouter_kept _
    · exact (t.withRouter_kept _).trans (State.takeAny_kept _ _ _)
  have hf : ∀ (bs : List Byte) (t : State), t.Kept (bs.foldl (State.receiveByte l) t) := by
    intro bs
    induction bs with
    | nil => exact .refl
    | cons b bs ih => exact fun t => (hb b t).trans (ih _)
  unfold State.receive
  split
  · exact hf bytes s
  · exact .refl s

theorem State.badStopBit_kept (l : Link) (bytes : List Byte) (s : State) : s.Kept (s.badStopBit l bytes) := by
  unfold State.badStopBit
  dsimp only
  split
  · exact (s.receive_kept l bytes).trans (State.withRouter_kept _ _)
  · exact s.receive_kept l bytes

theorem State.receiverTimeout_kept (l : Link) (s : State) : s.Kept (s.receiverTimeout l) := by
  unfold State.receiverTimeout
  split
  · exact s.withRouter_kept _
  · exact .refl s

theorem State.transmit_kept (s : State) (l : Link) (farReady : Bool) : s.Kept (s.transmit l farReady) := by
  unfold State.transmit
  dsimp only
  split
  · split
    · exact s.withRouter_kept _
    · split
      · exact s.withRouter_kept _
      · refine ⟨rfl, id, fun hs hd => ?_⟩
        rw [State.supplyInRange_iff] at hs ⊢
        rw [State.drivesInRange_iff] at hd ⊢
        dsimp only
        split <;> exact ⟨hs, hd⟩
  · exact .refl s

theorem State.forwardAgeLimit_kept (s : State) (l : Link) : s.Kept (s.forwardAgeLimit l) := by
  unfold State.forwardAgeLimit
  dsimp only
  split
  · exact .refl s
  · split
    · split
      · exact s.withRouter_kept _
      · exact s.withRouter_kept _
    · exact .refl s

theorem State.forwardWaitExpiry_kept (s : State) (k : Link) : s.Kept (s.forwardWaitExpiry k) := by
  unfold State.forwardWaitExpiry
  split
  · exact .refl s
  · split
    · exact s.withRouter_kept _
    · exact .refl s

/-! ### The link events -/

theorem State.loseRemote_kept (s : State) : s.Kept s.loseRemote := by
  have hst : s.store.Calm (s.store.remoteLost.forgetAsker .remote) := s.store.remoteLost_calm.trans (Store.forgetAsker_calm _ _)
  have h1 : s.Kept { s with router := s.router.loseRemote, sensors := s.sensors.closeRemoteStreams,
                            store := s.store.remoteLost.forgetAsker .remote } :=
    ⟨rfl, hst.mem, fun hs hd => ⟨hs, hd⟩⟩
  exact h1.trans (State.withMotors_calm (Motors.remoteLost_quieter _ _ _)).kept

theorem State.linkedRise_kept (s : State) : s.Kept s.linkedRise := by
  unfold State.linkedRise
  split
  · exact .refl s
  · split <;> exact s.withRouter_kept _

theorem State.linkedFall_kept (s : State) : s.Kept s.linkedFall := by
  unfold State.linkedFall
  split
  · split
    · exact (s.withRouter_kept _).trans (State.loseRemote_kept _)
    · exact s.withRouter_kept _
  · exact .refl s

theorem State.remoteBreak_kept (s : State) : s.Kept s.remoteBreak := by
  unfold State.remoteBreak
  split
  · split
    · exact s.loseRemote_kept
    · exact s.withRouter_kept _
  · exact .refl s

theorem State.linkReset_kept (s : State) : s.Kept s.linkReset := by
  unfold State.linkReset
  split
  · refine .trans (b := { s with router := s.router.resetPrimary, store := s.store.forgetAsker .primary,
                                 supply := s.supply.replyLost }) ⟨rfl, (Store.forgetAsker_calm _ _).mem, ?_⟩
      (State.notify_calm _ _ _).kept
    exact fun hs hd => ⟨hs, hd⟩
  · exact .refl s

theorem State.compactComplete_kept (s : State) : s.Kept s.compactComplete := by
  have hmem : ∀ x : Store × Option (Link × Byte × Reply), s.store.compactComplete = x → x.1.mem = s.store.mem := by
    rintro x rfl
    unfold Store.compactComplete
    split
    · rfl
    · split <;> rfl
  have hst : ∀ x, s.store.compactComplete = x → s.Kept { s with store := x.1 } := fun x hx =>
    ⟨rfl, fun w => (hmem x hx).symm ▸ w, fun hs hd => ⟨hs, hd⟩⟩
  unfold State.compactComplete
  split
  · exact hst _ ‹_›
  · exact (hst _ ‹_›).trans (State.withRouter_kept _ _)

/-! ### The resets -/

/-- A motor with neither output nor drive is safe in every power state. -/
theorem Channel.safe_of_off {c : Channel} (ha : c.applied = 0) (hd : c.drive = .off) (live : Bool) : c.Safe live := by
  rw [Channel.safe_iff, ha, hd]
  exact ⟨by decide, by decide, .inr rfl, .inr (by decide)⟩

theorem Motors.reset_safe (p : MotorPort) (live : Bool) : (Motors.reset.ch.get p).Safe live := by
  have h : Motors.reset.ch.get p = Channel.reset := by cases p <;> rfl
  exact h ▸ Channel.safe_of_off rfl rfl live

/-- What a part has after a reset that fills the history and takes the outputs away. -/
theorem State.Kept.of_reset {s t : State} (hp : t.pending = s.pending)
    (hm : Memory.wf s.store.mem = true → Memory.wf t.store.mem = true)
    (hs : (1 ≤ t.supply.lambda ∧ t.supply.lambda ≤ 1000) ∧ (5000 ≤ t.supply.vb ∧ t.supply.vb ≤ 9000) ∧
      t.supply.history.length = 8 ∧ (1000 ≤ t.supply.limit ∧ t.supply.limit ≤ 4000))
    (hd : ∀ p, (t.motors.ch.get p).Safe t.live) : s.Kept t :=
  ⟨hp, hm, fun _ _ => ⟨(State.supplyInRange_iff t).mpr hs, (State.drivesInRange_iff t).mpr hd⟩⟩

theorem Supply.filled_ranges (mv : Nat) :
    (1 ≤ (Supply.reset.filled mv).lambda ∧ (Supply.reset.filled mv).lambda ≤ 1000) ∧
      (5000 ≤ (Supply.reset.filled mv).vb ∧ (Supply.reset.filled mv).vb ≤ 9000) ∧
      (Supply.reset.filled mv).history.length = 8 ∧
      (1000 ≤ (Supply.reset.filled mv).limit ∧ (Supply.reset.filled mv).limit ≤ 4000) := by
  simp [Supply.filled, Supply.reset, averageOf_mem]

theorem State.powerOn_kept (s : State) (mv : Nat) (linked : Bool) : s.Kept (s.powerOn mv linked) :=
  .of_reset rfl (fun _ => rfl) (by simpa only [State.powerOn] using Supply.filled_ranges mv)
    (fun p => Motors.reset_safe p _)

theorem State.woken_kept (s : State) (mv : Nat) : s.Kept (s.woken mv) :=
  .of_reset rfl (fun _ => rfl) (by simpa only [State.woken] using Supply.filled_ranges mv)
    (fun p => Motors.reset_safe p _)

theorem State.asleep_kept (s : State) : s.Kept s.asleep :=
  .of_reset rfl (fun _ => rfl) (by simp [State.asleep, Supply.reset]) (fun p => Motors.reset_safe p _)

theorem softStore_mem (captures : List Capture) (st : Store) : (softStore captures st).mem = st.mem := by
  unfold softStore
  have h : ∀ (cs : List Capture) (x : Store),
      (cs.foldl (fun acc c => acc.update c.region (fun r => { r with ready := true })) x).mem = x.mem := by
    intro cs
    induction cs with
    | nil => exact fun _ => rfl
    | cons c cs ih => exact fun x => ih _
  exact h captures st.soft

theorem State.soft_kept (s : State) (mv : Nat) : s.Kept (s.soft mv) := by
  refine .trans (b := { pending := s.pending, motors := s.motors.soft, sensors := s.sensors.soft,
                        watch := WatchUnit.reset, store := softStore s.sensors.captures s.store, mixer := Mixer.reset,
                        router := s.router.soft, supply := s.supply.soft mv }) ?_ (State.notify_calm _ _ _).kept
  refine .of_reset rfl (fun w => (softStore_mem _ _).symm ▸ w)
    (by simpa only [Supply.soft] using Supply.filled_ranges mv) (fun p => ?_)
  show ((s.motors.ch.map Channel.soft).get p).Safe _
  rw [Six.get_map]
  exact Channel.safe_of_off rfl rfl _

/-! ### Every command -/

/-- A command answers a next state that keeps what every command keeps. -/
theorem exec_kept (c : Instr) (s : State) : ∃ t, exec c s = .next t ∧ s.Kept t := by
  cases c
  case forwardFrame | forwardedReply | inboundNotice | systemFrameDenied | unknownChannel | readyLowDrop =>
    exact ⟨_, rfl, s.takeAny_kept _ _⟩
  case checkMismatch l bs => exact ⟨_, rfl, s.receive_kept l bs⟩
  case headerFieldOutOfRange l bs => exact ⟨_, rfl, s.receive_kept l bs⟩
  case badStopBit l bs => exact ⟨_, rfl, s.badStopBit_kept l bs⟩
  case receiverTimeout l => exact ⟨_, rfl, s.receiverTimeout_kept l⟩
  case transmitFrame l b => exact ⟨_, rfl, s.transmit_kept l b⟩
  case forwardAgeLimit l =>
    refine ⟨_, rfl, ?_⟩
    unfold State.whenAwake
    split
    · exact s.forwardAgeLimit_kept l
    · exact .refl s
  case forwardWaitExpiry k =>
    refine ⟨_, rfl, ?_⟩
    unfold State.whenAwake
    split
    · exact s.forwardWaitExpiry_kept k
    · exact .refl s
  case linkedRise => exact ⟨_, rfl, s.linkedRise_kept⟩
  case linkedFall => exact ⟨_, rfl, s.linkedFall_kept⟩
  case remoteBreak => exact ⟨_, rfl, s.remoteBreak_kept⟩
  case linkReset => exact ⟨_, rfl, s.linkReset_kept⟩
  case wake mv =>
    refine ⟨_, rfl, ?_⟩
    split
    · exact .refl s
    · exact s.woken_kept mv
  case powerOn mv b => exact ⟨_, rfl, s.powerOn_kept mv b⟩
  case softReset mv | resetTimeout mv =>
    refine ⟨_, rfl, ?_⟩
    split
    · exact s.soft_kept mv
    · exact .refl s
  case sleepEntry | sleepTimeout =>
    refine ⟨_, rfl, ?_⟩
    split
    · exact s.asleep_kept
    · exact .refl s
  case identNoticeDue => exact ⟨_, rfl, s.identNoticeDue_calm.kept⟩
  case bankRPowerUp => exact ⟨_, rfl, s.bankRPowerUp_calm.kept⟩
  case controlExpiry r => exact ⟨_, rfl, State.whenAwake_kept (s.controlExpiry_calm r)⟩
  case durationEnd p => exact ⟨_, rfl, State.whenAwake_kept (State.withMotors_calm (Motors.durationEnd_quieter _ p _))⟩
  case segmentSettled p =>
    exact ⟨_, rfl, State.whenAwake_kept (State.withMotors_calm (Motors.segmentSettled_quieter _ p _))⟩
  case settleLimitReached p =>
    exact ⟨_, rfl, State.whenAwake_kept (State.withMotors_calm (Motors.settleLimit_quieter _ p _))⟩
  case stall p => exact ⟨_, rfl, State.whenAwake_kept (State.withMotors_calm (Motors.stall_quieter _ p _))⟩
  case overcurrentFault p =>
    exact ⟨_, rfl, State.whenAwake_kept (State.withMotors_calm (Motors.overcurrentFault_quieter p _))⟩
  case motorIdSample k => exact ⟨_, rfl, State.whenAwake_kept (State.withMotors_calm (Motors.idSample_quieter k _))⟩
  case bankCurrentMeasure b mA => exact ⟨_, rfl, State.whenAwake_kept (s.measureBank_calm b mA)⟩
  case bankTrip b => exact ⟨_, rfl, State.whenAwake_kept (s.bankTrip_calm b)⟩
  case retryEnd b => exact ⟨_, rfl, State.whenAwake_kept (s.retryEnd_calm b)⟩
  case cleanTimeReached b => exact ⟨_, rfl, State.whenAwake_kept (s.cleanTimeReached_calm b)⟩
  case portIdMeasure p k => exact ⟨_, rfl, State.whenAwake_kept (s.measureId_calm p k)⟩
  case passiveSample p v => exact ⟨_, rfl, State.whenAwake_kept (s.passiveSample_calm p v)⟩
  case describeRecord p k n b => exact ⟨_, rfl, State.whenAwake_kept (s.describeRecord_calm p k n b)⟩
  case modeRecord p m => exact ⟨_, rfl, State.whenAwake_kept (s.modeRecord_calm p m)⟩
  case endRecord p => exact ⟨_, rfl, State.whenAwake_kept (s.endRecord_calm p)⟩
  case acceptSent p => exact ⟨_, rfl, State.whenAwake_kept (s.acceptSent_calm p)⟩
  case handshakeTimeout p => exact ⟨_, rfl, State.whenAwake_kept (s.handshakeTimeout_calm p)⟩
  case dataRecord p m vs => exact ⟨_, rfl, State.whenAwake_kept (s.dataRecord_calm p m vs)⟩
  case silenceTimeout p => exact ⟨_, rfl, State.whenAwake_kept (s.silenceTimeout_calm p)⟩
  case errorTimeEnd p => exact ⟨_, rfl, State.whenAwake_kept (s.errorTimeEnd_calm p)⟩
  case malformedRecord p => exact ⟨_, rfl, State.whenAwake_kept (s.otherRecord_calm p)⟩
  case streamExpiry i => exact ⟨_, rfl, State.whenAwake_kept (s.streamExpiry_calm i)⟩
  case watchScan => exact ⟨_, rfl, State.whenAwake_kept (State.withReach_calm (Reach.scan_calm _ _ _))⟩
  case watchFire i v => exact ⟨_, rfl, State.whenAwake_kept (State.withReach_calm (Reach.fireNow_calm _ i v _))⟩
  case compactRegionCopied =>
    exact ⟨_, rfl, State.whenAwake_kept (State.withStore_calm (Store.regionCopied_calm _))⟩
  case compactComplete =>
    refine ⟨_, rfl, ?_⟩
    unfold State.whenAwake
    split
    · exact s.compactComplete_kept
    · exact .refl s
  case outputEvent => exact ⟨_, rfl, State.whenAwake_kept s.outputEvent_calm⟩
  case toneEnd v => exact ⟨_, rfl, State.whenAwake_kept (s.withMixer_calm _)⟩
  case volumeRampStep => exact ⟨_, rfl, State.whenAwake_kept (s.onlyMixer_calm _)⟩
  case supplyUpdate mv => exact ⟨_, rfl, (s.supplyUpdate_calm mv).kept⟩
  case powerStateChange => exact ⟨_, rfl, State.whenAwake_kept s.powerStateChange_calm⟩
  case compact r => exact ⟨_, rfl, s.takeRequest_kept 0x47 handleCompact_keeps r⟩
  all_goals exact ⟨_, rfl, s.takeRequest_kept _ (AnswersCalmly.keeps (by simp)) _⟩

/-- A step keeps the store's form and the ranges: it runs one command or lets a millisecond pass. -/
theorem step_keeps {s t : State} (h : step s = .next t) :
    (Memory.wf s.store.mem = true → Memory.wf t.store.mem = true) ∧
      (s.supplyInRange = true → s.drivesInRange = true → t.supplyInRange = true ∧ t.drivesInRange = true) := by
  have run : ∀ (c : Instr) (x : State), exec c x = .next t → x.Kept t := by
    intro c x hx
    obtain ⟨y, hy, hk⟩ := exec_kept c x
    rw [hy] at hx
    cases hx
    exact hk
  unfold step at h
  split at h
  · rename_i c rest _
    have hk := run c { s with pending := rest } h
    exact ⟨hk.mem, hk.ranges⟩
  · split at h
    · have hk := run _ s h
      exact ⟨hk.mem, hk.ranges⟩
    · cases h
      exact ⟨s.tick_calm.kept.mem, s.tick_calm.kept.ranges⟩

/-- Settles O3. -/
theorem everyCommandCompletesAndKeepsTheQueue : Obligations.EveryCommandCompletesAndKeepsTheQueue := by
  unfold Obligations.EveryCommandCompletesAndKeepsTheQueue
  intro c s
  obtain ⟨t, ht, hk⟩ := exec_kept c s
  exact ⟨t, ht, hk.pending⟩

/-- Settles O57. -/
theorem storeFormIsKept : Obligations.StoreFormIsKept := by
  unfold Obligations.StoreFormIsKept
  exact fun s t hw h => (step_keeps h).1 hw

/-- Settles O59. -/
theorem supplyAndDrivesStayInRange : Obligations.SupplyAndDrivesStayInRange := by
  unfold Obligations.SupplyAndDrivesStayInRange
  exact fun s t hs hd h => (step_keeps h).2 hs hd

/-! ### The bounds of the queues -/

/-- A part in SLEEP whose remote link still counts as UP, with nothing in its queues, about to see LINKED fall. In
SLEEP that event writes only the line (R155), so the link would be UP with the line low. -/
def State.asleepLinkUp : State :=
  { State.reset with pending := [.linkedFall], supply := { Supply.reset with power := .sleep },
                     router := Router.reset true }

/-- Refutes O58: the premise allows a part in SLEEP with its remote link UP, and LINKED_FALL breaks the third bound
there (`State.asleepLinkUp`). No command leads to such a part, since SLEEP is entered with the link DOWN. -/
theorem not_queueBoundsAreKept : ¬ Obligations.QueueBoundsAreKept := by
  unfold Obligations.QueueBoundsAreKept
  intro h
  exact absurd (h State.asleepLinkUp _ (by decide) rfl) (by decide)

end Sys2Proof.Machine
end

section
/-! The queue of commands and the passing of a millisecond (log entry 1), and the values of POWER_ON (R24, R66, R97,
R128, R159, R167). -/

namespace Sys2Proof.Machine

/-- Settles O1. -/
theorem stepRunsFrontCommand : Obligations.StepRunsFrontCommand := by
  unfold Obligations.StepRunsFrontCommand
  intro c rest s h
  simp [step, h]

/-! ### One millisecond (R81, R64, R71, R74, R75, R170) -/

theorem Bank.tick_eq (k : Bank) :
    k.tick = { k with clean := if k.state = .on then min 10000 (k.clean + 1) else k.clean,
                      retry := if k.state = .tripped then min 1000 (k.retry + 1) else k.retry } := by
  obtain ⟨state, _, _, _, _⟩ := k
  cases state <;> rfl

theorem Handshake.tick_eq (h : Handshake) :
    h.tick = { h with wait := if h.stage = .accepting then h.wait else h.wait + 1 } := by
  unfold Handshake.tick
  split <;> rfl

theorem Port.tick_eq (q : Port) :
    q.tick = { q with silence := if (q.state = .ready ∨ q.state = .switching) ∧ q.smart = true then q.silence + 1
                        else q.silence,
                      errTime := if q.state = .error then min 500 (q.errTime + 1) else q.errTime,
                      hs := if q.state = .handshake
                        then q.hs.map (fun h => { h with wait := if h.stage = .accepting then h.wait else h.wait + 1 })
                        else q.hs } := by
  have hmap : q.hs.map Handshake.tick =
      q.hs.map (fun h => { h with wait := if h.stage = .accepting then h.wait else h.wait + 1 }) :=
    congrArg q.hs.map (funext Handshake.tick_eq)
  unfold Port.tick
  rw [hmap]
  obtain ⟨state, _⟩ := q
  cases state
  case ready | switching => dsimp only; split <;> simp_all
  all_goals simp

theorem Mixer.tick_eq (x : Mixer) :
    x.tick = { x with rampTimer := if x.ramping = true then min 4 (x.rampTimer + 1) else x.rampTimer } := by
  unfold Mixer.tick
  split <;> rfl

theorem Receiver.tick_eq (x : Receiver) :
    x.tick = { x with idle := if x.phase = .hunt then x.idle else x.idle + 1 } := by
  unfold Receiver.tick
  split <;> rfl

/-- The time base returns to 0 after its greatest value (R81). -/
theorem toNat_succ (x : Word32) : (x + 1).toNat = if x.toNat = 4294967295 then 0 else x.toNat + 1 := by
  have hx := x.isLt
  rw [BitVec.toNat_add]
  split <;> simp <;> omega

theorem State.tick_asleep {s : State} (h : s.supply.power = .sleep) : s.tick = s := by
  simp [State.tick, State.whenAwake, State.awake, h]

theorem State.tick_awake {s : State} (h : s.supply.power ≠ .sleep) :
    s.tick = { s with sensors := s.sensors.tick, store := s.store.tick, mixer := s.mixer.tick, router := s.router.tick,
                      supply := s.supply.tick } := by
  simp [State.tick, State.whenAwake, State.awake, h]

/-- Settles O2. -/
theorem emptyQueueTakesDueEventOrTick : Obligations.EmptyQueueTakesDueEventOrTick := by
  unfold Obligations.EmptyQueueTakesDueEventOrTick
  refine ⟨fun s h => ⟨fun c hc => by simp [step, h, hc], fun hn => by simp [step, h, hn]⟩,
    fun s => State.tick_asleep, fun s h => ?_⟩
  rw [State.tick_awake h]
  dsimp only
  refine ⟨toNat_succ _, fun b => ?bank, rfl, fun p => ?port, rfl, rfl, rfl, Mixer.tick_eq _, fun l => ?link,
    fun l => by cases l <;> rfl, rfl, rfl, rfl, rfl, rfl, rfl, rfl, rfl, rfl, rfl⟩
  case bank =>
    rw [← Bank.tick_eq]
    cases b <;> rfl
  case port =>
    rw [← Port.tick_eq]
    exact Eight.get_map _ _ p
  case link =>
    rw [← Receiver.tick_eq]
    cases l <;> rfl

end Sys2Proof.Machine
end

section
/-! What becomes of a frame that no block executes: forwarded, answered by the router itself, matched to the record of
its ASK, or discarded (R144, R146, R152, R153, R172). -/

namespace Sys2Proof.Machine

theorem Link.other_ne (l : Link) : l.other ≠ l := by cases l <;> decide

/-! ### A frame taken while the ready line is high -/

/-- The part as the router has taken an ASK: the receiver hunts, a place for the reply is reserved (R147). -/
def State.reserved (s : State) (l : Link) : State :=
  { s.setRx l Receiver.hunting with router := (s.setRx l Receiver.hunting).router.reserve l }

theorem takeFrame_ask {s : State} {l : Link} {f : Frame} (h : Option Handler) (hr : s.ready l = true)
    (hf : f.cls = .ask) : s.takeFrame h l f = State.route h l f (s.reserved l) := by
  simp [State.takeFrame, hr, hf, State.reserved]

theorem takeFrame_tell {s : State} {l : Link} {f : Frame} (h : Option Handler) (hr : s.ready l = true)
    (hf : f.cls = .tell) : s.takeFrame h l f = State.route h l f (s.setRx l Receiver.hunting) := by
  simp [State.takeFrame, hr, hf]

theorem takeFrame_reply {s : State} {l : Link} {f : Frame} (h : Option Handler) (hr : s.ready l = true)
    (hf : f.cls = .reply) :
    s.takeFrame h l f =
      { s.setRx l Receiver.hunting with router := (s.setRx l Receiver.hunting).router.matchReply l f } := by
  simp [State.takeFrame, hr, hf]

theorem takeFrame_notice {s : State} {l : Link} {f : Frame} (h : Option Handler) (hr : s.ready l = true)
    (hf : f.cls = .notice) : s.takeFrame h l f = s.setRx l Receiver.hunting := by
  simp [State.takeFrame, hr, hf]

theorem takeFrame_notReady {s : State} {l : Link} (h : Option Handler) (f : Frame) (hr : s.ready l = false) :
    s.takeFrame h l f = s.setRx l Receiver.hunting := by
  simp [State.takeFrame, hr]

@[simp] theorem State.reserved_replies (s : State) (l k : Link) :
    ((s.reserved l).router.link k).replies = (s.router.link k).replies := by cases l <;> cases k <;> rfl

@[simp] theorem State.reserved_forward (s : State) (l k : Link) :
    ((s.reserved l).router.link k).forward = (s.router.link k).forward := by cases l <;> cases k <;> rfl

@[simp] theorem State.reserved_record (s : State) (l k : Link) :
    (s.reserved l).router.record k = s.router.record k := by cases l <;> cases k <;> rfl

@[simp] theorem State.reserved_link_other (s : State) (l : Link) :
    (s.reserved l).router.link l.other = s.router.link l.other := by cases l <;> rfl

@[simp] theorem State.reserved_replyCount (s : State) (l : Link) :
    ((s.reserved l).router.link l).replyCount = (s.router.link l).replyCount + 1 := by cases l <;> rfl

@[simp] theorem State.reserved_wait (s : State) (l : Link) : (s.reserved l).router.wait = s.router.wait := by
  cases l <;> rfl

@[simp] theorem State.reserved_up (s : State) (l : Link) : (s.reserved l).router.up = s.router.up := by
  cases l <;> rfl

@[simp] theorem State.reserved_disposition (s : State) (l : Link) (c : Byte) :
    (s.reserved l).router.disposition c = s.router.disposition c := by cases l <;> rfl

theorem State.setRx_disposition (s : State) (l : Link) (x : Receiver) (c : Byte) :
    (s.setRx l x).router.disposition c = s.router.disposition c := by cases l <;> rfl

@[simp] theorem State.reserved_now (s : State) (l : Link) : (s.reserved l).now = s.now := rfl

/-- What taking and answering a frame at the router leaves of the blocks. -/
def State.SameBlocks (s t : State) : Prop :=
  t.motors = s.motors ∧ t.sensors = s.sensors ∧ t.watch = s.watch ∧ t.store = s.store ∧ t.mixer = s.mixer ∧
    t.supply = s.supply

/-! ### Forwarding (R146, R152) -/

/-- A frame to be forwarded is carried, whatever its channel's request is. -/
theorem route_forwards {s t : State} {l : Link} {f : Frame} (h : Option Handler) (hf : s.forwards l f.channel)
    (hd : t.router.disposition f.channel = s.router.disposition f.channel) (hu : t.router.up = s.router.up) :
    State.route h l f t = t.carry l f := by
  obtain ⟨-, hl⟩ := hf
  cases l with
  | primary =>
    obtain ⟨hch, hup⟩ := hl
    simp [State.route, State.routePrimary, Nat.not_lt.mpr hch, hu, hup]
  | remote => simp [State.route, State.routeRemote, hd, show s.router.disposition f.channel = .forward from hl]

theorem forwardFrame_ask {s : State} {l : Link} {f : Frame} (hf : s.forwards l f.channel) (ha : f.cls = .ask) :
    exec (.forwardFrame l f) s = .next ((s.reserved l).carry l f) := by
  show Host.Outcome.next (s.takeFrame (handlerOf f.channel) l f) = _
  rw [takeFrame_ask _ hf.1 ha, route_forwards _ hf (by simp) (by simp)]

theorem forwardFrame_tell {s : State} {l : Link} {f : Frame} (hf : s.forwards l f.channel) (ht : f.cls = .tell) :
    exec (.forwardFrame l f) s = .next ((s.setRx l Receiver.hunting).carry l f) := by
  show Host.Outcome.next (s.takeFrame (handlerOf f.channel) l f) = _
  rw [takeFrame_tell _ hf.1 ht, route_forwards _ hf (State.setRx_disposition _ _ _ _) (by simp [State.setRx])]

/-- R152: a TELL joins the far link's forward queue. -/
theorem Router.forwardFrame_tell {f : Frame} (r : Router) (l : Link) (now : Word32) (h : f.cls = .tell) :
    r.forwardFrame l f now =
      r.setLink l.other { r.link l.other with forward := (r.link l.other).forward ++ [{ frame := f, entered := now }] } := by
  simp [Router.forwardFrame, h]

/-- R152: an ASK joins it and opens the record of its direction. -/
theorem Router.forwardFrame_opens {f : Frame} {r : Router} {l : Link} (now : Word32) (h : f.cls = .ask)
    (hr : r.record l = none) :
    r.forwardFrame l f now =
      (r.setLink l.other { r.link l.other with forward := (r.link l.other).forward ++ [{ frame := f, entered := now }] }).setRecord l
        (some { channel := f.channel, tag := f.tag, start := now, timer := if r.wait = 0 then none else some r.wait }) := by
  simp [Router.forwardFrame, h, hr]

/-- R152: an ASK that finds the record open is answered BUSY. -/
theorem Router.forwardFrame_busy {f : Frame} {r : Router} {l : Link} {rec : InFlight} (now : Word32) (h : f.cls = .ask)
    (hr : r.record l = some rec) :
    r.forwardFrame l f now = r.placeReply l (replyFrame f.channel f.tag (Reply.refuse .busy).payload) := by
  simp [Router.forwardFrame, h, hr]

@[simp] theorem Router.placeReply_replies (r : Router) (l : Link) (f : Frame) :
    ((r.placeReply l f).link l).replies = (r.link l).replies ++ [f] := by simp [Router.placeReply]

@[simp] theorem Router.placeReply_replyCount (r : Router) (l : Link) (f : Frame) :
    ((r.placeReply l f).link l).replyCount = (r.link l).replyCount := by simp [Router.placeReply]

@[simp] theorem Router.placeReply_other (r : Router) (l : Link) (f : Frame) :
    (r.placeReply l f).link l.other = r.link l.other := by cases l <;> rfl

@[simp] theorem Router.placeReply_record (r : Router) (l k : Link) (f : Frame) :
    (r.placeReply l f).record k = r.record k := by simp [Router.placeReply]

/-- Settles O5. -/
theorem forwardedRequestJoinsFarQueue : Obligations.ForwardedRequestJoinsFarQueue := by
  unfold Obligations.ForwardedRequestJoinsFarQueue
  refine ⟨fun f s hr hch hup => ⟨fun ha => ?noAnswer, fun ht => ?dropped⟩,
    fun l f s hf => ⟨fun ht => ?joins, fun ha hn => ?opens, fun ha rec hrec => ?busy⟩⟩
  case noAnswer =>
    have hroute : State.route (handlerOf f.channel) .primary f (s.reserved .primary) =
        (s.reserved .primary).answer .primary f.channel f.tag (Reply.refuse .noAnswer) := by
      simp [State.route, State.routePrimary, Nat.not_lt.mpr hch, hup, ha]
    refine ⟨_, rfl, ?_⟩
    rw [State.takeAny, takeFrame_ask _ hr ha, hroute]
    exact ⟨rfl, rfl, rfl, fun k => by cases k <;> rfl, rfl, rfl, rfl, rfl, rfl, rfl⟩
  case dropped =>
    show Host.Outcome.next (s.takeFrame (handlerOf f.channel) .primary f) = _
    rw [takeFrame_tell _ hr ht]
    simp [State.route, State.routePrimary, Nat.not_lt.mpr hch, hup, ht, State.setRx]
  case joins =>
    refine ⟨_, forwardFrame_tell hf ht, ?_⟩
    simp only [State.carry, Router.forwardFrame_tell _ _ _ ht]
    cases l <;> exact ⟨rfl, fun k => by cases k <;> rfl, rfl⟩
  case opens =>
    refine ⟨_, forwardFrame_ask hf ha, ?_⟩
    simp only [State.carry, Router.forwardFrame_opens _ ha ((s.reserved_record l l).trans hn)]
    cases l <;> exact ⟨rfl, rfl, rfl, rfl, rfl⟩
  case busy =>
    refine ⟨_, forwardFrame_ask hf ha, ?_⟩
    simp only [State.carry, Router.forwardFrame_busy _ ha ((s.reserved_record l l).trans hrec)]
    simp [hrec]

/-! ### Replies and notices from outside (R153, R172) -/

/-- R153: the reply closes its record and goes to the origin's reply queue. -/
theorem Router.matchReply_matching {r : Router} {l : Link} {f : Frame} {rec : InFlight}
    (hr : r.record l.other = some rec) (hm : rec.channel = f.channel ∧ rec.tag = f.tag) :
    r.matchReply l f = (r.setRecord l.other none).placeReply l.other f := by
  simp [Router.matchReply, hr, hm]

/-- R153: any other reply is discarded. -/
theorem Router.matchReply_other {r : Router} {l : Link} {f : Frame}
    (h : ∀ rec, r.record l.other = some rec → ¬(rec.channel = f.channel ∧ rec.tag = f.tag)) : r.matchReply l f = r := by
  unfold Router.matchReply
  split
  · rfl
  · rename_i rec hrec
    exact if_neg (h rec hrec)

/-- Settles O6. -/
theorem forwardedReplyClosesMatchingRecord : Obligations.ForwardedReplyClosesMatchingRecord := by
  unfold Obligations.ForwardedReplyClosesMatchingRecord
  intro l channel tag payload s hr
  have hrec : ∀ k, (s.setRx l Receiver.hunting).router.record k = s.router.record k := fun k => by simp [State.setRx]
  have htaken : exec (.forwardedReply l channel tag payload) s =
      .next { s.setRx l Receiver.hunting with
        router := (s.setRx l Receiver.hunting).router.matchReply l (replyFrame channel tag payload) } :=
    congrArg Host.Outcome.next (takeFrame_reply _ hr rfl)
  refine ⟨fun rec hs hc ht => ⟨_, htaken, ?_⟩, fun hno => ?_, congrArg Host.Outcome.next (takeFrame_notice _ hr rfl)⟩
  · have hm := Router.matchReply_matching (f := replyFrame channel tag payload) ((hrec _).trans hs) ⟨hc, ht⟩
    dsimp only
    rw [hm]
    cases l <;> exact ⟨rfl, rfl, rfl⟩
  · rw [htaken, Router.matchReply_other (fun rec h => hno rec ((hrec _).symm.trans h))]

/-! ### Requests that the router answers itself (R144, R172) -/

theorem ReqClass.frame_ask {c : ReqClass} : ReqClass.frame c = .ask ↔ c = .ask := by cases c <;> decide

/-- A request frame of class `c`. -/
theorem takeFrame_request {s : State} {l : Link} {f : Frame} {c : ReqClass} (h : Option Handler) (hr : s.ready l = true)
    (hf : f.cls = ReqClass.frame c) :
    s.takeFrame h l f =
      State.route h l f (if c = .ask then s.reserved l else s.setRx l Receiver.hunting) := by
  cases c
  · exact takeFrame_ask h hr hf
  · exact takeFrame_tell h hr hf

/-- The part as a request of class `c` finds its block, no notice mirrored yet: its blocks and replies as before. -/
theorem taken_frame (s : State) (l : Link) (c : ReqClass) :
    let t := if c = .ask then s.reserved l else s.setRx l Receiver.hunting
    s.SameBlocks t ∧ (t.router.link l).replies = (s.router.link l).replies ∧
      ∀ ch, t.router.disposition ch = s.router.disposition ch := by
  dsimp only
  split
  · exact ⟨⟨rfl, rfl, rfl, rfl, rfl, rfl⟩, by simp, by simp⟩
  · exact ⟨⟨rfl, rfl, rfl, rfl, rfl, rfl⟩, by simp [State.setRx], State.setRx_disposition _ _ _⟩

/-- An answer of the router itself. -/
theorem answer_frame (s : State) (l : Link) (channel tag : Byte) (y : Reply) :
    s.SameBlocks (s.answer l channel tag y) ∧
      ((s.answer l channel tag y).router.link l).replies =
        (s.router.link l).replies ++ [replyFrame channel tag y.payload] :=
  ⟨⟨rfl, rfl, rfl, rfl, rfl, rfl⟩, Router.placeReply_replies _ _ _⟩

theorem State.SameBlocks.trans {a b c : State} (h : a.SameBlocks b) (g : b.SameBlocks c) : a.SameBlocks c := by
  obtain ⟨h1, h2, h3, h4, h5, h6⟩ := h
  obtain ⟨g1, g2, g3, g4, g5, g6⟩ := g
  exact ⟨g1.trans h1, g2.trans h2, g3.trans h3, g4.trans h4, g5.trans h5, g6.trans h6⟩

/-- R144: from the remote link a system or routing request is DENIED. -/
theorem handFromRemote_denied (h : Option Handler) (t : State) {f : Frame} {c : ReqClass}
    (hf : f.cls = ReqClass.frame c) (hs : systemChannel f.channel = true) :
    t.SameBlocks (t.handFromRemote h f) ∧ ((t.handFromRemote h f).router.link .remote).replies =
      (t.router.link .remote).replies ++
        (if c = .ask then [replyFrame f.channel f.tag (Reply.refuse .denied).payload] else []) := by
  have hi : f.cls = .ask ↔ c = .ask := hf ▸ ReqClass.frame_ask
  simp only [State.handFromRemote, hs, if_true, hi]
  split
  · exact answer_frame _ _ _ _ _
  · exact ⟨⟨rfl, rfl, rfl, rfl, rfl, rfl⟩, (List.append_nil _).symm⟩

/-- R172: a request no block knows is answered UNKNOWN. -/
theorem handToBlock_unknown (t : State) (l : Link) {f : Frame} {c : ReqClass} (hf : f.cls = ReqClass.frame c) :
    t.SameBlocks (t.handToBlock none l f) ∧ ((t.handToBlock none l f).router.link l).replies =
      (t.router.link l).replies ++
        (if c = .ask then [replyFrame f.channel f.tag (Reply.refuse .unknown).payload] else []) := by
  cases c with
  | ask =>
    have h : t.handToBlock none l f = t.answer l f.channel f.tag (Reply.refuse .unknown) := by
      simp [State.handToBlock, hf, ReqClass.frame]
    rw [h]
    exact answer_frame _ _ _ _ _
  | tell =>
    have h : t.handToBlock none l f = t := by simp [State.handToBlock, hf, ReqClass.frame]
    rw [h]
    exact ⟨⟨rfl, rfl, rfl, rfl, rfl, rfl⟩, by simp⟩

theorem notify_frame (s : State) (k : Link) (n : Notice) (l : Link) :
    s.SameBlocks (s.notify k n) ∧ ((s.notify k n).router.link l).replies = (s.router.link l).replies :=
  ⟨⟨rfl, rfl, rfl, rfl, rfl, rfl⟩, (Router.place_calm _ _ _).replies l⟩

/-- A local request of the remote link, mirrored where its window says so. -/
theorem routeRemote_local {t : State} {f : Frame} (h : Option Handler) (hd : t.router.disposition f.channel ≠ .forward) :
    ∃ u, t.SameBlocks u ∧ (u.router.link .remote).replies = (t.router.link .remote).replies ∧
      State.route h .remote f t = u.handFromRemote h f := by
  show ∃ u, _ ∧ _ ∧ t.routeRemote h f = _
  unfold State.routeRemote
  split
  · exact ⟨t, ⟨rfl, rfl, rfl, rfl, rfl, rfl⟩, rfl, rfl⟩
  · exact ⟨_, (notify_frame t .primary _ .remote).1, (notify_frame t .primary _ .remote).2, rfl⟩
  · contradiction

/-- R144: a system or routing request that a window makes local on the remote link. -/
theorem takeAny_denied {s : State} {f : Frame} {c : ReqClass} (hr : s.ready .remote = true)
    (hf : f.cls = ReqClass.frame c) (hs : systemChannel f.channel = true)
    (hd : s.router.disposition f.channel ≠ .forward) :
    s.SameBlocks (s.takeAny .remote f) ∧ ((s.takeAny .remote f).router.link .remote).replies =
      (s.router.link .remote).replies ++
        (if c = .ask then [replyFrame f.channel f.tag (Reply.refuse .denied).payload] else []) := by
  obtain ⟨hb, hq, hdisp⟩ := taken_frame s .remote c
  rw [State.takeAny, takeFrame_request _ hr hf]
  obtain ⟨u, hu, huq, he⟩ := routeRemote_local (handlerOf f.channel) ((hdisp _).symm ▸ hd)
  obtain ⟨hk, hkq⟩ := handFromRemote_denied (handlerOf f.channel) u hf hs
  rw [he]
  exact ⟨(hb.trans hu).trans hk, by rw [hkq, huq, hq]⟩

/-- R172: a request on a channel to which the catalogue assigns none. -/
theorem takeAny_unknown {s : State} {l : Link} {f : Frame} {c : ReqClass} (ha : s.admits l f.channel = true)
    (hf : f.cls = ReqClass.frame c) (hh : handlerOf f.channel = none) :
    s.SameBlocks (s.takeAny l f) ∧ ((s.takeAny l f).router.link l).replies =
      (s.router.link l).replies ++
        (if c = .ask then [replyFrame f.channel f.tag (Reply.refuse .unknown).payload] else []) := by
  obtain ⟨hr, hl⟩ := (Bool.and_eq_true _ _).mp ha
  obtain ⟨hb, hq, hdisp⟩ := taken_frame s l c
  rw [State.takeAny, takeFrame_request _ hr hf, hh]
  cases l with
  | primary =>
    have hlt : f.channel.toNat < 128 := by simpa using hl
    simp only [State.route, State.routePrimary, hlt, if_true]
    obtain ⟨hk, hkq⟩ := handToBlock_unknown _ .primary hf
    exact ⟨hb.trans hk, by rw [hkq, hq]⟩
  | remote =>
    obtain ⟨hsys, hd⟩ : systemChannel f.channel = false ∧ s.router.disposition f.channel ≠ .forward := by simpa using hl
    obtain ⟨u, hu, huq, he⟩ := routeRemote_local none ((hdisp _).symm ▸ hd)
    obtain ⟨hk, hkq⟩ := handToBlock_unknown u .remote hf
    have hto : u.handFromRemote none f = u.handToBlock none .remote f := by simp [State.handFromRemote, hsys]
    rw [he, hto]
    exact ⟨(hb.trans hu).trans hk, by rw [hkq, huq, hq]⟩

/-- Settles O7. -/
theorem deniedAndUnknownRequests : Obligations.DeniedAndUnknownRequests := by
  unfold Obligations.DeniedAndUnknownRequests
  refine ⟨fun c channel tag payload s hr hs hd => ⟨_, rfl, ?_⟩, fun l c channel tag payload s ha hh => ⟨_, rfl, ?_⟩⟩
  · obtain ⟨⟨h1, h2, h3, h4, h5, h6⟩, hq⟩ := takeAny_denied
      (f := { cls := ReqClass.frame c, channel := channel, tag := tag, payload := payload }) hr rfl hs hd
    exact ⟨h1, h2, h3, h4, h5, h6, hq⟩
  · obtain ⟨⟨h1, h2, h3, h4, h5, h6⟩, hq⟩ := takeAny_unknown
      (f := { cls := ReqClass.frame c, channel := channel, tag := tag, payload := payload }) ha rfl hh
    exact ⟨h1, h2, h3, h4, h5, h6, hq⟩

end Sys2Proof.Machine
end

section
/-! Notices handed to the router, the transmitter's choice, and the limits of a forwarded frame's wait (R148 to R151,
R154). -/

namespace Sys2Proof.Machine

/-! ### Notices (R148) -/

theorem LinkQueues.place_room {q : LinkQueues} (n : Notice) (h : q.notices.length < 16) : q.place n = q.joinNotice n := by
  simp [LinkQueues.place, h]

theorem LinkQueues.place_report {q : LinkQueues} (h : 16 ≤ q.notices.length) (layout : List Byte) :
    q.place (.report layout) = q := by
  simp [LinkQueues.place, Nat.not_lt.mpr h]

theorem LinkQueues.place_overReport {q : LinkQueues} {n : Notice} (h : 16 ≤ q.notices.length)
    (hn : ∀ layout, n ≠ .report layout) (hr : q.notices.any isReport = true) :
    q.place n = { q with notices := removeFirst isReport q.notices }.joinNotice n := by
  cases n <;> simp_all [LinkQueues.place, Nat.not_lt.mpr h]

theorem LinkQueues.place_full {q : LinkQueues} {n : Notice} (h : 16 ≤ q.notices.length)
    (hn : ∀ layout, n ≠ .report layout) (hr : q.notices.any isReport = false) :
    q.place n = { q with overflow := true } := by
  cases n <;> simp_all [LinkQueues.place, Nat.not_lt.mpr h]

theorem Router.reachable_of {r : Router} {l : Link} (h : l = .primary ∨ r.up = true) : r.reachable l = true := by
  rcases h with rfl | h
  · rfl
  · cases l
    · rfl
    · exact h

theorem Router.link_place {r : Router} {l : Link} (n : Notice) (h : l = .primary ∨ r.up = true) :
    (r.place l n).link l = (r.link l).place n := by
  simp [Router.place, Router.reachable_of h]

theorem Router.clearOverflow_overflow (r : Router) (k : Link) : (r.clearOverflow.link k).overflow = false := by
  cases k <;> rfl

theorem Router.placeReply_overflow (r : Router) (l k : Link) (f : Frame) :
    ((r.placeReply l f).link k).overflow = (r.link k).overflow := by
  cases l <;> cases k <;> rfl

/-- Settles O8. -/
theorem noticePlacement : Obligations.NoticePlacement := by
  unfold Obligations.NoticePlacement
  refine fun l n s => ⟨fun r hask ha => ⟨_, rfl, ?status, fun k => ?cleared⟩, fun hl hup => ?down, fun hl => ?queue⟩
  case status =>
    rw [takeRequest_of_admits _ ha]
    simp [handleRouteStatus, hask]
  case cleared =>
    rw [takeRequest_of_admits _ ha]
    simp [handleRouteStatus, hask, State.replied, State.answer, Router.placeReply_overflow,
      Router.clearOverflow_overflow]
  case down =>
    subst hl
    simp [State.notify, Router.place, Router.reachable, hup]
  case queue =>
    intro q t
    have ht : t = q.place n := Router.link_place n hl
    refine ⟨fun h => ?_, fun h ⟨layout, hn⟩ => ?_, fun h hn hr => ?_, fun h hn hr => ?_⟩
    · rw [ht, LinkQueues.place_room n h]; exact ⟨rfl, rfl, rfl⟩
    · rw [ht, hn, LinkQueues.place_report h]
    · rw [ht, LinkQueues.place_overReport h hn hr]; exact ⟨rfl, rfl, rfl⟩
    · rw [ht, LinkQueues.place_full h hn hr]; exact ⟨rfl, rfl, rfl⟩

/-! ### The transmitter (R150, R165) -/

/-- A part with an accepted RESET whose 100 ms are over, and in the primary forward queue a frame of class REPLY on the
channel of RESET. No frame that the router forwards is of that class (R152), but the queue's type allows it. -/
def State.replyInForward : State :=
  { State.reset with
      router := { State.reset.router with
        primary := { State.reset.router.primary with forward := [{ frame := replyFrame 0x02 0 [], entered := 0 }] } },
      supply := { State.reset.supply with shutdown := some { kind := .reset, elapsed := 100, begun := false } } }

/-- Refutes O9: its clause on the forward queue says nothing of a shutdown, and the transmitter takes the frame of
`State.replyInForward` for the reply that is lost, beginning none. -/
theorem not_transmitterChoosesTheFrame : ¬ Obligations.TransmitterChoosesTheFrame := by
  unfold Obligations.TransmitterChoosesTheFrame
  rintro ⟨-, h⟩
  obtain ⟨t, ht, -, -, -, -, -, -, -, -, hforward, -⟩ := h .primary State.replyInForward (by decide) (.inl rfl)
  have hs := (hforward _ _ rfl rfl (.inl rfl)).1
  cases ht
  exact absurd hs (by decide)

/-! ### The limits of the wait (R149, R154) -/

/-- The part once the oldest entry of a forward queue has left it, its origin told. -/
def State.aged (s : State) (l : Link) (e : Forward) (es : List Forward) : State :=
  { s with router := s.router.setLink l { s.router.link l with forward := es } }.notify l.other (.forwardDropped e.frame)

theorem State.aged_record (s : State) (l k : Link) (e : Forward) (es : List Forward) :
    (s.aged l e es).router.record k = s.router.record k := by simp [State.aged, State.notify]

theorem State.aged_replies (s : State) (l k : Link) (e : Forward) (es : List Forward) :
    ((s.aged l e es).router.link k).replies = (s.router.link k).replies := by
  simp only [State.aged, State.notify, (Router.place_calm _ _ _).replies k, Router.link_setLink]
  split
  · rename_i h; rw [h]
  · rfl

theorem State.aged_forward (s : State) (l : Link) (e : Forward) (es : List Forward) :
    ((s.aged l e es).router.link l).forward = es := by
  simp [State.aged, State.notify, (Router.place_calm _ _ _).forward l]

theorem State.aged_abortMode (s : State) (l : Link) (e : Forward) (es : List Forward) :
    (s.aged l e es).router.abortMode = s.router.abortMode := by simp [State.aged, State.notify]

theorem State.aged_notices {s : State} {l : Link} {e : Forward} {es : List Forward}
    (hr : l.other = .primary ∨ s.router.up = true) (hn : (s.router.link l.other).notices.length < 16) :
    ((s.aged l e es).router.link l.other).notices =
      (s.router.link l.other).notices ++ [Notice.frame (.forwardDropped e.frame) (s.router.link l.other).counter] := by
  have hl : ∀ q, (s.router.setLink l q).link l.other = s.router.link l.other := fun q =>
    Router.link_setLink_other _ _ _
  have hup : ∀ q, (s.router.setLink l q).up = s.router.up := fun q => by simp
  simp only [State.aged, State.notify]
  rw [Router.place_notices_room _ (Router.reachable_of (by rw [hup]; exact hr)) (by rw [hl]; exact hn), hl]

/-- R149: an entry whose 1000 ms are over. -/
theorem State.forwardAgeLimit_over {s : State} {l : Link} {e : Forward} {es : List Forward}
    (hf : (s.router.link l).forward = e :: es) (hm : 1000 ≤ msSince s.now e.entered) :
    s.forwardAgeLimit l =
      if entryRecord (s.aged l e es).router l.other e es then
        { s.aged l e es with router := (s.aged l e es).router.abort l.other true }
      else s.aged l e es := by
  simp only [State.forwardAgeLimit, hf, hm, if_true]
  rfl

theorem entryRecord_of_ask {r : Router} {k : Link} {e : Forward} {es : List Forward} {rec : InFlight}
    (h : r.record k = some rec) (he : isAskOf rec e = true) (hn : es.any (isAskOf rec) = false) :
    entryRecord r k e es = true := by
  simp [entryRecord, h, he, hn]

theorem entryRecord_of_not {r : Router} {k : Link} {e : Forward} {es : List Forward}
    (h : ∀ rec, r.record k = some rec → isAskOf rec e = false ∨ es.any (isAskOf rec) = true) :
    entryRecord r k e es = false := by
  unfold entryRecord
  cases hr : r.record k with
  | none => rfl
  | some rec =>
    rcases h rec hr with h' | h'
    · simp [h']
    · rw [Option.any_some, h']; simp

/-- Of the queue that the entry has left, the ASK of a record that the entry's limit closes is not another entry. -/
theorem removeLast_of_entryRecord {r : Router} {k : Link} {e : Forward} {es : List Forward} {rec : InFlight}
    (h : entryRecord r k e es = true) (hr : r.record k = some rec) : removeLast (isAskOf rec) es = es := by
  rw [entryRecord, hr, Option.any_some, Bool.and_eq_true, Bool.not_eq_true'] at h
  exact removeLast_none h.2

theorem State.forwardAgeLimit_early {s : State} {l : Link} {e : Forward} {es : List Forward}
    (hf : (s.router.link l).forward = e :: es) (hm : msSince s.now e.entered < 1000) : s.forwardAgeLimit l = s := by
  simp [State.forwardAgeLimit, hf, Nat.not_le.mpr hm]

/-- The queue of the entry, its link's record and its replies, whether or not the origin's record closes with it. -/
theorem State.forwardAgeLimit_frame {s : State} {l : Link} {e : Forward} {es : List Forward}
    (hf : (s.router.link l).forward = e :: es) (hm : 1000 ≤ msSince s.now e.entered) :
    let t := s.forwardAgeLimit l
    (t.router.link l).forward = es ∧ t.router.record l = s.router.record l ∧
      (t.router.link l).replies = (s.router.link l).replies ∧
      (t.router.link l.other).notices = ((s.aged l e es).router.link l.other).notices := by
  have hne : l ≠ l.other := (Link.other_ne l).symm
  dsimp only
  rw [State.forwardAgeLimit_over hf hm]
  split
  · rename_i he
    refine ⟨?_, ?_, ?_, Router.abort_notices _ _ _ _⟩
    · rw [Router.abort_forward]
      split
      · exact s.aged_forward l e es
      · rename_i rec hrec
        rw [if_pos (Link.other_other l).symm, s.aged_forward, removeLast_of_entryRecord he hrec]
    · rw [Router.abort_record, if_neg hne, s.aged_record]
    · rw [Router.abort_replies, s.aged_replies]
      split <;> simp [hne]
  · exact ⟨s.aged_forward l e es, s.aged_record l l e es, s.aged_replies l l e es, rfl⟩

/-- R154: the record closes, its ASK leaves the far queue, and its origin is answered. -/
theorem Router.abort_answers {r : Router} {o : Link} {rec : InFlight} (h : r.record o = some rec) :
    (r.abort o true).record o = none ∧ (r.abort o true).record o.other = r.record o.other ∧
      ((r.abort o true).link o).replies =
        (r.link o).replies ++ [replyFrame rec.channel rec.tag (Reply.refuse (abortStatus r.abortMode)).payload] ∧
      ((r.abort o true).link o.other).forward = removeLast (isAskOf rec) (r.link o.other).forward := by
  refine ⟨by simp [Router.abort_record], by simp [Router.abort_record, Link.other_ne], ?_, ?_⟩
  · rw [Router.abort_replies, h]; simp
  · rw [Router.abort_forward, h]; simp

theorem State.forwardWaitExpiry_over {s : State} {o : Link} {rec : InFlight} {T : Nat}
    (hr : s.router.record o = some rec) (ht : rec.timer = some T) (h : T ≤ msSince s.now rec.start) :
    s.forwardWaitExpiry o = { s with router := s.router.abort o true } := by
  simp [State.forwardWaitExpiry, hr, waitOver, ht, h]

theorem State.forwardWaitExpiry_early {s : State} {o : Link} {rec : InFlight} {T : Nat}
    (hr : s.router.record o = some rec) (ht : rec.timer = some T) (h : msSince s.now rec.start < T) :
    s.forwardWaitExpiry o = s := by
  simp [State.forwardWaitExpiry, hr, waitOver, ht, Nat.not_le.mpr h]

theorem State.whenAwake_of {s : State} (h : s.awake = true) (f : State → State) : s.whenAwake f = f s := by
  simp [State.whenAwake, h]

/-- Settles O10. -/
theorem forwardLimitsEndTheWait : Obligations.ForwardLimitsEndTheWait := by
  unfold Obligations.ForwardLimitsEndTheWait
  intro l s ha
  refine ⟨fun e es hf hm => ⟨s.forwardAgeLimit l, ?limit, ?aged⟩, fun e es hf hm => ?early,
    fun rec T hr ht hm => ⟨{ s with router := s.router.abort l true }, ?expiry, Router.abort_answers hr⟩, fun rec T hr ht hm => ?waits⟩
  case limit => exact congrArg Host.Outcome.next (State.whenAwake_of ha _)
  case aged =>
    obtain ⟨hq, hrec, hrep, hnot⟩ := State.forwardAgeLimit_frame hf hm
    refine ⟨hq, hrec, hrep, fun rec hr he hn => ?_, fun hno => ?_, fun hup hroom => hnot.trans (State.aged_notices hup hroom)⟩
    · have hr' := (s.aged_record l l.other e es).trans hr
      obtain ⟨h1, -, h3, -⟩ := Router.abort_answers hr'
      rw [State.forwardAgeLimit_over hf hm, if_pos (entryRecord_of_ask hr' he hn)]
      refine ⟨h1, ?_⟩
      dsimp only
      rw [h3, s.aged_replies, s.aged_abortMode]
      rfl
    · rw [State.forwardAgeLimit_over hf hm,
        entryRecord_of_not (fun rec hr => hno rec ((s.aged_record l l.other e es).symm.trans hr))]
      exact ⟨s.aged_record l l.other e es, s.aged_replies l l.other e es⟩
  case early =>
    exact congrArg Host.Outcome.next ((State.whenAwake_of ha _).trans (State.forwardAgeLimit_early hf hm))
  case expiry =>
    exact congrArg Host.Outcome.next ((State.whenAwake_of ha _).trans (State.forwardWaitExpiry_over hr ht hm))
  case waits =>
    exact congrArg Host.Outcome.next ((State.whenAwake_of ha _).trans (State.forwardWaitExpiry_early hr ht hm))

/-! ### A request on its way to its block (R144, R145, R147) -/

/-- The part as the router has taken a request, no notice mirrored yet. -/
theorem State.entered_eq (s : State) (channel : Byte) (r : Req) :
    s.entered channel r =
      let t := if r.cls = .ask then s.reserved r.link else s.setRx r.link Receiver.hunting
      if s.mirrors r.link channel then t.notify .primary (.mirror (requestFrame channel r)) else t := rfl

/-- The queues as the request is taken: the receiver hunts and an ASK has its place; the notices are as before. -/
theorem taken_queues (s : State) (l : Link) (c : ReqClass) :
    let t := if c = .ask then s.reserved l else s.setRx l Receiver.hunting
    (t.router.link l).rx = Receiver.hunting ∧
      (t.router.link l).replyCount = (s.router.link l).replyCount + (if c = .ask then 1 else 0) ∧
      (t.router.link l.other).replyCount = (s.router.link l.other).replyCount ∧
      ∀ k, (t.router.link k).notices = (s.router.link k).notices ∧ (t.router.link k).counter = (s.router.link k).counter := by
  cases l <;> cases c <;> exact ⟨rfl, rfl, rfl, fun k => by cases k <;> exact ⟨rfl, rfl⟩⟩

/-- Settles O14. -/
theorem admittedRequestIsEnteredAndReplied : Obligations.AdmittedRequestIsEnteredAndReplied := by
  unfold Obligations.AdmittedRequestIsEnteredAndReplied
  intro channel r s y
  obtain ⟨hrx, hcount, hother, hnotices⟩ := taken_queues s r.link r.cls
  have he := s.entered_eq channel r
  generalize (if r.cls = .ask then s.reserved r.link else s.setRx r.link Receiver.hunting) = t at *
  have hframe : ∀ k, ((s.entered channel r).router.link k).rx = (t.router.link k).rx ∧
      ((s.entered channel r).router.link k).replyCount = (t.router.link k).replyCount := by
    intro k
    rw [he]
    dsimp only
    split
    · simp [State.notify]
    · exact ⟨rfl, rfl⟩
  refine ⟨(hframe _).1.trans hrx, (hframe _).2.trans hcount, (hframe _).2.trans hother,
    fun k => ⟨by simp, by simp, by simp⟩, fun hm k => ?kept, fun hm hn => ?mirrored,
    ⟨by simp, by simp, by simp, by simp, by simp, by simp, by simp⟩, fun h => ?ask, fun h => ?tell⟩
  case kept =>
    rw [he, hm]
    exact (hnotices k).1
  case mirrored =>
    obtain ⟨hn', hc'⟩ := hnotices .primary
    rw [he, if_pos hm]
    have hp := Router.place_notices_room t.router (l := .primary) rfl (by rw [hn']; exact hn)
      (.mirror (requestFrame channel r))
    rwa [hn', hc'] at hp
  case ask => simp [State.replied, h, State.answer]
  case tell => simp [State.replied, h]

end Sys2Proof.Machine
end

section
/-! Frames on the wire: the frame delivered and the frames dropped (R147, R169, R170). -/

namespace Sys2Proof.Machine

theorem State.setRx_hunting {s : State} {l : Link} (h : s.rx l = Receiver.hunting) : s.setRx l Receiver.hunting = s := by
  rw [← h, State.setRx_self]

theorem State.receive_awake {s : State} (h : s.awake = true) (l : Link) (bs : List Byte) :
    s.receive l bs = bs.foldl (State.receiveByte l) s := by
  simp [State.receive, h]

/-- The bytes of a frame with a check handed over, from HUNT. -/
theorem receive_checked {s : State} {l : Link} {f : Frame} (ha : s.awake = true) (hr : s.rx l = Receiver.hunting)
    (hl : f.payload.length ≤ 240) (a b : Byte) :
    s.receive l (0x5C :: (checkedBytes f ++ [a, b])) =
      if leNat [a, b] = (crc16 (checkedBytes f)).toNat then s.takeAny l f else s := by
  have happ : (0x5C : Byte) :: (checkedBytes f ++ [a, b]) = (0x5C :: checkedBytes f) ++ [a, b] := rfl
  rw [State.receive_awake ha, happ, List.foldl_append, receive_toCheck s l f hr hl, receive_check s l f hl,
    frameOf_checkedBytes f hl, State.setRx_hunting hr]
  split <;> rename_i h <;> split at h <;> simp_all

/-- Settles O12. -/
theorem receiverDeliversTheFrameSent : Obligations.ReceiverDeliversTheFrameSent := by
  unfold Obligations.ReceiverDeliversTheFrameSent
  intro l f s ha hr hl
  have hcheck : leBytes 2 (crc16 (checkedBytes f)).toNat =
      [byte (crc16 (checkedBytes f)).toNat, byte ((crc16 (checkedBytes f)).toNat / 256)] := rfl
  have hn := leNat_leBytes_two (crc16 (checkedBytes f))
  rw [hcheck] at hn
  rw [wireBytes, hcheck, receive_checked ha hr hl, if_pos hn]

/-! ### Frames dropped (R147, R170) -/

/-- From HUNT the start marker carries the receiver to the header. -/
theorem byte_marker : Receiver.hunting.byte 0x5C = ({ phase := .header, kept := [], idle := 0 }, none) := rfl

theorem byte_longLength {n : Byte} (h : 240 < n.toNat) :
    Receiver.byte { phase := .header, kept := [], idle := 0 } n = (Receiver.hunting, none) := by
  simp [Receiver.byte, Receiver.headerByte, h]

theorem byte_length {n : Byte} (h : n.toNat ≤ 240) :
    Receiver.byte { phase := .header, kept := [], idle := 0 } n = ({ phase := .header, kept := [n], idle := 0 }, none) := by
  simp [Receiver.byte, Receiver.headerByte, Nat.not_lt.mpr h, Receiver.keep]

theorem byte_badClass {n c : Byte} (h : 3 < c.toNat) :
    Receiver.byte { phase := .header, kept := [n], idle := 0 } c = (Receiver.hunting, none) := by
  simp [Receiver.byte, Receiver.headerByte, h]

/-- Settles O13. -/
theorem framesAreDropped : Obligations.FramesAreDropped := by
  unfold Obligations.FramesAreDropped
  refine ⟨fun l f s hr => ⟨?_, ?_, ?_⟩, fun l s ha => ⟨?mismatch, ?length, ?cls, ?stopBit, ?timeout, ?early⟩⟩
  · exact congrArg Host.Outcome.next (takeFrame_notReady _ f hr)
  · exact congrArg Host.Outcome.next (takeFrame_notReady _ f hr)
  · rintro r rfl
    exact congrArg Host.Outcome.next (takeFrame_notReady _ _ hr)
  case mismatch =>
    intro f a b hr hl hne
    have hno : leNat [a, b] ≠ (crc16 (checkedBytes f)).toNat := fun h => hne (leBytes_two_of_leNat h).symm
    show Host.Outcome.next (s.receive l _) = _
    rw [receive_checked ha hr hl, if_neg hno]
  case length =>
    intro n hr hn
    show Host.Outcome.next (s.receive l _) = _
    rw [State.receive_awake ha, ← State.setRx_hunting hr, List.foldl_cons, List.foldl_cons, List.foldl_nil,
      receiveByte_quiet byte_marker, receiveByte_quiet (byte_longLength hn)]
  case cls =>
    intro n c hr hn hc
    show Host.Outcome.next (s.receive l _) = _
    rw [State.receive_awake ha, ← State.setRx_hunting hr, List.foldl_cons, List.foldl_cons, List.foldl_cons,
      List.foldl_nil, receiveByte_quiet byte_marker, receiveByte_quiet (byte_length hn), receiveByte_quiet (byte_badClass hc)]
  case stopBit =>
    show Host.Outcome.next (s.badStopBit l []) = _
    simp [State.badStopBit, State.receive, ha]
  case timeout =>
    intro hp hi
    show Host.Outcome.next (s.receiverTimeout l) = _
    simp [State.receiverTimeout, Receiver.overdue, hp, hi]
  case early =>
    intro h
    show Host.Outcome.next (s.receiverTimeout l) = _
    have hno : (s.rx l).overdue = false := by
      rcases h with h | h
      · simp [Receiver.overdue, h]
      · simp [Receiver.overdue, Nat.not_le.mpr h]
    simp [State.receiverTimeout, hno]

end Sys2Proof.Machine
end

section
/-! The link events: LINKED rising and falling, a break on the remote link, and a LINK reset (R155, R156, R22, R23). -/

namespace Sys2Proof.Machine

/-! ### A link's queues taken away, and both records closed -/

/-- The queues of a link are reset; the record of its own asks closes without an answer, the other's with one. -/
def Router.cutLink (r : Router) (l : Link) : Router :=
  ((r.setLink l (r.link l).linkReset).abort l false).abort l.other true

theorem Router.loseRemote_eq (r : Router) : r.loseRemote = r.cutLink .remote := rfl

/-- An abort answers no link but the origin, and that only when told to. -/
theorem Router.abort_replies_kept {r : Router} {o k : Link} {b : Bool} (h : k ≠ o ∨ b = false) :
    ((r.abort o b).link k).replies = (r.link k).replies := by
  have hno : ¬(k = o ∧ b = true) := by
    rintro ⟨hk, hb⟩
    rcases h with h | h
    · exact h hk
    · exact absurd (hb.symm.trans h) (by decide)
  rw [Router.abort_replies]
  split <;> simp [hno]

theorem Router.abort_forward_nil {r : Router} {o k : Link} {b : Bool} (h : (r.link k).forward = []) :
    ((r.abort o b).link k).forward = [] := by
  rw [Router.abort_forward, h]
  split
  · rfl
  · split <;> rfl

theorem Router.cutLink_link (r : Router) (l : Link) :
    let q := (r.cutLink l).link l
    q.replies = [] ∧ q.replyCount = 0 ∧ q.notices = [] ∧ q.counter = 0 ∧ q.overflow = false ∧ q.forward = [] ∧
      q.sending = none ∧ q.rx = Receiver.hunting := by
  have hq : (r.setLink l (r.link l).linkReset).link l = (r.link l).linkReset := Router.link_setLink_same _ _ _
  refine ⟨?replies, ?_, ?_, ?_, ?_, ?forward, ?_, ?_⟩
  case replies =>
    unfold Router.cutLink
    rw [Router.abort_replies_kept (.inl (Link.other_ne l).symm), Router.abort_replies_kept (.inr rfl), hq]
    rfl
  case forward => exact Router.abort_forward_nil (Router.abort_forward_nil (by rw [hq]; rfl))
  all_goals simp [Router.cutLink, LinkQueues.linkReset]

theorem Router.cutLink_record (r : Router) (l k : Link) : (r.cutLink l).record k = none := by
  cases l <;> cases k <;> simp [Router.cutLink, Router.abort_record, Link.other]

theorem Router.cutLink_answers {r : Router} {l : Link} {rec : InFlight} (h : r.record l.other = some rec) :
    ((r.cutLink l).link l.other).replies = (r.link l.other).replies ++
      [replyFrame rec.channel rec.tag (Reply.refuse (abortStatus r.abortMode)).payload] := by
  have hne := Link.other_ne l
  have hr : ((r.setLink l (r.link l).linkReset).abort l false).record l.other = some rec := by
    simp [Router.abort_record, hne, h]
  unfold Router.cutLink
  rw [(Router.abort_answers hr).2.2.1, Router.abort_replies_kept (.inr rfl)]
  simp

/-! ### Notices to the remote link -/

theorem mem_of_mem_removeFirst {α : Type} {t : α → Bool} {x : α} {xs : List α} (h : x ∈ removeFirst t xs) : x ∈ xs := by
  induction xs with
  | nil => cases h
  | cons y ys ih =>
    unfold removeFirst at h
    split at h
    · exact List.mem_cons_of_mem y h
    · rcases List.mem_cons.mp h with rfl | h
      · exact List.mem_cons_self
      · exact List.mem_cons_of_mem y (ih h)

theorem LinkQueues.mem_place {q : LinkQueues} {n : Notice} {f : Frame} (h : f ∈ (q.place n).notices) :
    f ∈ q.notices ∨ f = n.frame q.counter := by
  unfold LinkQueues.place LinkQueues.joinNotice at h
  split at h
  · simpa using h
  · split at h
    · exact .inl h
    · split at h
      · rcases List.mem_append.mp h with h | h
        · exact .inl (mem_of_mem_removeFirst h)
        · exact .inr (by simpa using h)
      · exact .inl h

/-- Notices of one channel keep a queue of that channel. -/
theorem Router.placeAll_channel {c : Byte} {l : Link} {ns : List Sent} {r : Router}
    (h : ∀ n ∈ ns, n.link = l → n.notice.channel = c) (hq : ∀ f ∈ (r.link l).notices, f.channel = c) :
    ∀ f ∈ ((r.placeAll ns).link l).notices, f.channel = c := by
  induction ns generalizing r with
  | nil => exact hq
  | cons n ns ih =>
    refine ih (r := r.place n.link n.notice) (fun m hm => h m (List.mem_cons_of_mem n hm)) fun f hf => ?_
    unfold Router.place at hf
    split at hf
    · rw [Router.link_setLink] at hf
      split at hf
      · rename_i hl
        rcases LinkQueues.mem_place hf with hf | rfl
        · exact hq f (hl ▸ hf)
        · exact h n List.mem_cons_self hl.symm
      · exact hq f hf
    · exact hq f hf

/-- R148: while the remote link is DOWN its queues take no notice. -/
theorem Router.placeAll_down {r : Router} (h : r.up = false) (ns : List Sent) :
    (r.placeAll ns).link .remote = r.link .remote ∧ (r.placeAll ns).up = false := by
  refine Router.placeAll_keeps (P := fun x => x.link .remote = r.link .remote ∧ x.up = false) ?_ ns ⟨rfl, h⟩
  rintro x l n ⟨hx, hu⟩
  unfold Router.place
  cases l with
  | primary => exact ⟨hx, hu⟩
  | remote => simp [Router.reachable, hu, hx]

/-! ### The motors at the loss (R22, R23) -/

theorem MotorPort.filter_flatMap {α : Type} (t : MotorPort → Bool) (f : MotorPort → List α) (ps : List MotorPort) :
    (ps.filter t).flatMap f = ps.flatMap (fun p => if t p = true then f p else []) := by
  induction ps with
  | nil => rfl
  | cons p ps ih =>
    rw [List.filter_cons, List.flatMap_cons, ← ih]
    split <;> simp

theorem Motors.remotePorts_nodup (m : Motors) : m.remotePorts.Nodup := MotorPort.all_nodup.filter _

theorem Motors.mem_remotePorts {m : Motors} {p : MotorPort} :
    p ∈ m.remotePorts ↔ (m.ch.get p).holder = some .remote := by
  simp [Motors.remotePorts, MotorPort.mem_all]

/-- R45: the SEGMENT_ENDs of a loss under STOP, from A to F. -/
def Motors.lossNotices (m : Motors) (policy : LossPolicy) : List Sent :=
  MotorPort.all.flatMap (fun p =>
    if policy = .stop ∧ (m.ch.get p).holder = some .remote then (m.ch.get p).endNotices p .linkLost .linkLost else [])

/-- The conclusion of a loss. -/
def Motors.afterLoss (live : Bool) (m : Motors) : LossPolicy → Motors × List Sent
  | .stop => (Motors.onPorts (Channel.linkLost live) m.remotePorts m).1.conclude m.remotePorts
  | .finish => (Motors.onPorts Channel.markLost m.remotePorts m).1.conclude []

theorem Motors.remoteLost_eq (live : Bool) (policy : LossPolicy) (m : Motors) :
    m.remoteLost live policy =
      ((m.afterLoss live policy).1, m.lossNotices policy ++ (m.afterLoss live policy).2) := by
  have hn := m.remotePorts_nodup
  cases policy with
  | stop =>
    simp only [Motors.remoteLost, Motors.event, Motors.afterLoss, Motors.onPorts_sent hn]
    simp [Motors.remotePorts, MotorPort.filter_flatMap, Motors.lossNotices, Channel.linkLost]
  | finish =>
    simp only [Motors.remoteLost, Motors.afterLoss, Motors.onPorts_sent hn]
    simp [Motors.lossNotices, Channel.markLost, List.flatMap]

/-- What follows from an event on the channels goes to the remote link as SEGMENT_ENDs only. -/
theorem Motors.conclude_remote (ps : List MotorPort) (m : Motors) :
    ∀ n ∈ (m.conclude ps).2, n.link = .remote → n.notice.channel = 0x61 := by
  intro n hn hl
  simp only [Motors.conclude] at hn
  rcases List.mem_append.mp hn with hn | hn
  · exact Motors.breakAll_endsOnly _ _ n hn
  · unfold Motors.pauseTest at hn
    split at hn
    · rw [List.mem_singleton.mp hn] at hl
      cases hl
    · cases hn

theorem Motors.afterLoss_remote (live : Bool) (policy : LossPolicy) (m : Motors) :
    ∀ n ∈ (m.afterLoss live policy).2, n.link = .remote → n.notice.channel = 0x61 := by
  cases policy <;> exact Motors.conclude_remote _ _

theorem Motors.lossNotices_endsOnly (m : Motors) (policy : LossPolicy) : EndsOnly (m.lossNotices policy) :=
  EndsOnly.flat fun p => by split; exacts [Channel.endNotices_endsOnly _ _ _ _, EndsOnly.nil]

theorem Channel.stopKeeping_frame (live : Bool) (a : Rest) (c : Channel) :
    (c.stopKeeping live a).current = none ∧ (c.stopKeeping live a).queue = [] ∧ (c.stopKeeping live a).enc = c.enc ∧
      (c.stopKeeping live a).kind = c.kind ∧ (c.stopKeeping live a).gains = c.gains ∧
      (c.stopKeeping live a).policy = c.policy := by
  have hd : c.dropCurrent.enc = c.enc ∧ c.dropCurrent.kind = c.kind ∧ c.dropCurrent.gains = c.gains ∧
      c.dropCurrent.policy = c.policy ∧ c.dropCurrent.current = none := by
    unfold Channel.dropCurrent
    split <;> simp_all
  obtain ⟨h1, h2, h3, h4, h5⟩ := hd
  unfold Channel.stopKeeping Channel.stopWith
  cases a <;> (dsimp only; split) <;> exact ⟨h5, rfl, h1, h2, h3, h4⟩

/-- R22: OFF and FAULT outlast the stop (log entry 17). -/
theorem Channel.stopKeeping_state {live : Bool} {a : Rest} {c : Channel} (h : c.state = .off ∨ c.state = .fault) :
    (c.stopKeeping live a).state = c.state := by
  have hd : c.emptied.state = c.state := by unfold Channel.emptied Channel.dropCurrent; split <;> rfl
  rcases h with h | h <;> simp only [Channel.stopKeeping, h]
  · exact hd.trans h
  · cases a <;> exact hd.trans h

/-- R22: elsewhere BRAKE takes hold, in IDLE. -/
theorem Channel.stopKeeping_brake {live : Bool} {c : Channel} (ho : c.state ≠ .off) (hf : c.state ≠ .fault) :
    (c.stopKeeping live .brake).state = .idle ∧ (c.stopKeeping live .brake).rest = .brake ∧
      (c.stopKeeping live .brake).applied = 0 ∧ (c.stopKeeping live .brake).spd = 0 ∧
      (c.stopKeeping live .brake).lastTarget = none := by
  unfold Channel.stopKeeping
  split
  · contradiction
  · contradiction
  · exact ⟨rfl, rfl, rfl, rfl, rfl⟩

theorem Channel.finishRelease_unmarked {c : Channel} (h : c.lostLink = false) : c.finishRelease = c := by
  simp [Channel.finishRelease, h]

/-- R23: the release changes nothing but the holder and the mark. -/
theorem Channel.finishRelease_rest (c : Channel) :
    c.finishRelease.current = c.current ∧ c.finishRelease.queue = c.queue ∧ c.finishRelease.enc = c.enc ∧
      c.finishRelease.kind = c.kind ∧ c.finishRelease.applied = c.applied ∧ c.finishRelease.drive = c.drive := by
  unfold Channel.finishRelease
  split <;> exact ⟨rfl, rfl, rfl, rfl, rfl, rfl⟩

/-- Stopping the tablet's channels opens no group. -/
theorem Motors.stopped_noGroup (live : Bool) {m : Motors} (hg : m.groups = [])
    (hs : ∀ q, (m.ch.get q).state ≠ .syncWait) :
    (Motors.onPorts (Channel.linkLost live) m.remotePorts m).1.noteGroups.groups = [] := by
  refine Motors.event_quiet m.remotePorts_nodup (fun q _ => ?_) hg hs
  show ((m.ch.get q).stopKeeping live .brake).state ≠ .syncWait
  by_cases hq : (m.ch.get q).state = .off ∨ (m.ch.get q).state = .fault
  · rw [Channel.stopKeeping_state hq]
    exact hs q
  · rw [(Channel.stopKeeping_brake (fun h => hq (.inl h)) (fun h => hq (.inr h))).1]
    decide

/-- R22: a channel of the tablet under STOP. -/
theorem Motors.afterLoss_stopped {live : Bool} {m : Motors} {p : MotorPort}
    (h : (m.ch.get p).holder = some .remote) :
    (m.afterLoss live .stop).1.ch.get p = ((m.ch.get p).linkLost live p).1 := by
  have hq : ((m.ch.get p).linkLost live p).1.queue = [] :=
    ((m.ch.get p).stopKeeping_frame live .brake).2.1
  simp only [Motors.afterLoss, Motors.conclude_get, Motors.onPorts_get m.remotePorts_nodup,
    Motors.mem_remotePorts.mpr h, if_true, Channel.breakGroups_empty _ _ hq]
  exact Channel.finishRelease_unmarked rfl

/-- R22: any other channel under STOP. -/
theorem Motors.afterLoss_spared {live : Bool} {m : Motors} {p : MotorPort}
    (h : (m.ch.get p).holder ≠ some .remote) :
    ∃ gs, (m.afterLoss live .stop).1.ch.get p = ((m.ch.get p).breakGroups gs p).1.finishRelease ∧
      (m.groups = [] → (∀ q, (m.ch.get q).state ≠ .syncWait) → gs = []) := by
  have hmem : p ∉ m.remotePorts := fun hp => h (Motors.mem_remotePorts.mp hp)
  refine ⟨groupsOf p ((Motors.onPorts (Channel.linkLost live) m.remotePorts m).1.noteGroups.groupsOn m.remotePorts), ?_, ?_⟩
  · simp only [Motors.afterLoss, Motors.conclude_get, Motors.onPorts_get m.remotePorts_nodup, hmem, if_false]
  · intro hg hs
    simp [Motors.groupsOn, Motors.stopped_noGroup live hg hs, groupsOf]

/-- R23: under FINISH no group breaks. -/
theorem Motors.afterLoss_finish (live : Bool) (m : Motors) (p : MotorPort) :
    (m.afterLoss live .finish).1.ch.get p =
      (if (m.ch.get p).holder = some .remote then { m.ch.get p with lostLink := true } else m.ch.get p).finishRelease := by
  have hno : ∀ n : Motors, n.groupsOn [] = [] := fun n => by simp [Motors.groupsOn]
  simp only [Motors.afterLoss, Motors.conclude_get, hno, groupsOf, List.filter_nil, Channel.breakGroups_nil,
    Motors.onPorts_get m.remotePorts_nodup, Motors.mem_remotePorts]
  rfl

/-- The conclusion of an event that breaks no group while no pause begins sends nothing. -/
theorem Motors.conclude_silent {ps : List MotorPort} {m : Motors} (hg : m.noteGroups.groupsOn ps = [])
    (hp : m.pause ≠ .pausing) : (m.conclude ps).2 = [] := by
  rw [Motors.conclude_sent hp, hg]
  simp [groupsOf, Channel.breakGroups_nil]

/-- Where no group is open and no pause begins, a loss ends nothing but the tablet's segments. -/
theorem Motors.afterLoss_quiet {live : Bool} {m : Motors} (policy : LossPolicy) (hg : m.groups = [])
    (hs : ∀ q, (m.ch.get q).state ≠ .syncWait) (hp : m.pause ≠ .pausing) : (m.afterLoss live policy).2 = [] := by
  cases policy with
  | stop =>
    refine Motors.conclude_silent ?_ (by rw [(Motors.onPorts_rest _ _ m).1]; exact hp)
    simp [Motors.groupsOn, Motors.stopped_noGroup live hg hs]
  | finish =>
    exact Motors.conclude_silent (by simp [Motors.groupsOn]) (by rw [(Motors.onPorts_rest _ _ m).1]; exact hp)

/-! ### The whole part -/

theorem Router.cutLink_settings (r : Router) (l : Link) :
    (r.cutLink l).lossPolicy = r.lossPolicy ∧ (r.cutLink l).up = r.up ∧ (r.cutLink l).linked = r.linked ∧
      (r.cutLink l).windows = r.windows ∧ (r.cutLink l).wait = r.wait ∧ (r.cutLink l).abortMode = r.abortMode := by
  simp [Router.cutLink, Router.windows]

/-- What the loss of the remote link comes to, the LINKED line and the link's state being as they are. -/
theorem State.loseRemote_eq (s : State) :
    s.loseRemote =
      { s with motors := (s.motors.afterLoss s.live s.router.lossPolicy).1,
               sensors := s.sensors.closeRemoteStreams, store := s.store.remoteLost.forgetAsker .remote,
               router := s.router.loseRemote.placeAll
                 (s.motors.lossNotices s.router.lossPolicy ++ (s.motors.afterLoss s.live s.router.lossPolicy).2) } := by
  have hp : s.router.loseRemote.lossPolicy = s.router.lossPolicy := (s.router.cutLink_settings .remote).1
  simp only [State.loseRemote, State.withMotors, State.notifyAll, hp]
  rw [Motors.remoteLost_eq]
  rfl

theorem Store.remoteLost_frame (st : Store) :
    let x := st.remoteLost.forgetAsker .remote
    (∀ w, x.window = some w → w.owner = .primary) ∧ x.regions = st.regions ∧ x.mem = st.mem := by
  unfold Store.remoteLost
  split
  · exact ⟨fun w hw => by simp [Store.forgetAsker] at hw, rfl, rfl⟩
  · rename_i h
    refine ⟨fun w hw => ?_, rfl, rfl⟩
    have hw' : st.window = some w := hw
    rw [hw'] at h
    cases ho : w.owner with
    | primary => rfl
    | remote => simp [ho] at h

theorem Sensors.closeRemoteStreams_dest {x : Sensors} {i : StreamId} {r : Stream}
    (h : x.closeRemoteStreams.streams.get i = some r) : r.dest = .primary := by
  simp only [Sensors.closeRemoteStreams, Eight.get_map, Option.filter_eq_some_iff] at h
  cases hd : r.dest with
  | primary => rfl
  | remote => simp [hd] at h

/-- The channels after the loss of the remote link. -/
theorem Motors.afterLoss_channel (live : Bool) (policy : LossPolicy) (m : Motors) (p : MotorPort) :
    let e := m.ch.get p
    let d := (m.afterLoss live policy).1.ch.get p
    (policy = .stop → e.holder = some .remote →
      d.holder = none ∧ d.lostLink = false ∧ d.current = none ∧ d.queue = [] ∧ d.enc = e.enc ∧
        d.kind = e.kind ∧ d.gains = e.gains ∧ d.policy = e.policy ∧
        (e.state ≠ .off → e.state ≠ .fault →
          d.state = .idle ∧ d.rest = .brake ∧ d.applied = 0 ∧ d.spd = 0 ∧ d.lastTarget = none) ∧
        (e.state = .off ∨ e.state = .fault → d.state = e.state)) ∧
    (policy = .stop → e.holder ≠ some .remote →
      d.current = e.current ∧ d.enc = e.enc ∧ d.kind = e.kind ∧ d.applied = e.applied ∧ d.drive = e.drive ∧
        d.queue.Sublist e.queue ∧
        (m.groups = [] → (∀ q, (m.ch.get q).state ≠ .syncWait) → e.lostLink = false → d = e)) ∧
    (policy = .finish → e.holder = some .remote →
      d = (if e.current = none ∧ e.queue = [] then { e with holder := none, lostLink := false }
        else { e with lostLink := true })) ∧
    (policy = .finish → e.holder ≠ some .remote → e.lostLink = false → d = e) := by
  intro e d
  refine ⟨fun hpol hh => ?stopped, fun hpol hh => ?spared, fun hpol hh => ?marked, fun hpol hh hl => ?kept⟩ <;> subst hpol
  case stopped =>
    have hd : d = ((m.ch.get p).linkLost live p).1 := Motors.afterLoss_stopped hh
    obtain ⟨h1, h2, h3, h4, h5, h6⟩ := e.stopKeeping_frame live .brake
    rw [hd]
    exact ⟨rfl, rfl, h1, h2, h3, h4, h5, h6, Channel.stopKeeping_brake, Channel.stopKeeping_state⟩
  case spared =>
    obtain ⟨gs, hd, hgs⟩ := Motors.afterLoss_spared (live := live) hh
    obtain ⟨b1, b2, b3, b4, b5, -, -, b8⟩ := e.breakGroups_frame gs p
    obtain ⟨f1, f2, f3, f4, f5, f6⟩ := (e.breakGroups gs p).1.finishRelease_rest
    have hd' : d = (e.breakGroups gs p).1.finishRelease := hd
    refine ⟨?_, ?_, ?_, ?_, ?_, ?_, fun hg hs hl => ?_⟩
    · rw [hd', f1, b1]
    · rw [hd', f3, b2]
    · rw [hd', f4, b3]
    · rw [hd', f5, b4]
    · rw [hd', f6, b5]
    · rw [hd', f2, b8]
      exact takeBroken_sublist gs e.queue
    · rw [hd', hgs hg hs, Channel.breakGroups_nil]
      exact Channel.finishRelease_unmarked hl
  case marked =>
    have hd : d = ({ e with lostLink := true } : Channel).finishRelease := by
      show (m.afterLoss live .finish).1.ch.get p = _
      rw [Motors.afterLoss_finish, if_pos hh]
    rw [hd]
    simp [Channel.finishRelease]
  case kept =>
    show (m.afterLoss live .finish).1.ch.get p = _
    rw [Motors.afterLoss_finish, if_neg hh, Channel.finishRelease_unmarked hl]

/-- The remote link's queues after its loss: only SEGMENT_ENDs, and those only while the link counts as UP. -/
theorem State.loseRemote_remote (s : State) :
    let q := s.loseRemote.router.link .remote
    q.replies = [] ∧ q.replyCount = 0 ∧ q.forward = [] ∧ q.rx = Receiver.hunting ∧
      (∀ f ∈ q.notices, f.channel = 0x61) ∧
      (s.router.up = false → q.notices = [] ∧ q.counter = 0 ∧ q.overflow = false) := by
  obtain ⟨h1, h2, h3, h4, h5, h6, -, h8⟩ := s.router.cutLink_link .remote
  have hup : s.router.loseRemote.up = s.router.up := (s.router.cutLink_settings .remote).2.1
  rw [State.loseRemote_eq]
  dsimp only
  refine ⟨?_, ?_, ?_, ?_, Router.placeAll_channel (fun n hn hl => ?_) (fun f hf => ?_), fun hd => ?_⟩
  · rw [Router.placeAll_replies]; exact h1
  · rw [Router.placeAll_replyCount]; exact h2
  · rw [Router.placeAll_forward]; exact h6
  · rw [Router.placeAll_rx]; exact h8
  · rcases List.mem_append.mp hn with hn | hn
    · exact Motors.lossNotices_endsOnly _ _ n hn
    · exact Motors.afterLoss_remote _ _ _ n hn hl
  · rw [Router.loseRemote_eq, h3] at hf
    cases hf
  · rw [(Router.placeAll_down (hup.trans hd) _).1]
    exact ⟨h3, h4, h5⟩

/-- What the loss of the remote link leaves, of the link and of the blocks, with the line and the link as they are. -/
theorem State.loseRemote_spec (s : State) :
    let t := s.loseRemote
    (∃ ns, t.router = s.router.loseRemote.placeAll (s.motors.lossNotices s.router.lossPolicy ++ ns) ∧
      (s.motors.groups = [] → (∀ p, (s.motors.ch.get p).state ≠ .syncWait) → s.motors.pause ≠ .pausing → ns = [])) ∧
    (t.router.up = s.router.up ∧ t.router.linked = s.router.linked) ∧
    (∀ k, t.router.record k = none) ∧
    (∀ rec, s.router.record .primary = some rec → (t.router.link .primary).replies =
      (s.router.link .primary).replies ++
        [replyFrame rec.channel rec.tag (Reply.refuse (abortStatus s.router.abortMode)).payload]) ∧
    (∀ i x, t.sensors.streams.get i = some x → x.dest = .primary) ∧
    ((∀ w, t.store.window = some w → w.owner = .primary) ∧ t.store.regions = s.store.regions ∧
      t.store.mem = s.store.mem) ∧
    (t.watch = s.watch ∧ t.mixer = s.mixer ∧ t.supply = s.supply) := by
  obtain ⟨-, hup, hlinked, -, -, -⟩ := s.router.cutLink_settings .remote
  dsimp only
  rw [State.loseRemote_eq]
  refine ⟨⟨_, rfl, Motors.afterLoss_quiet _⟩, ⟨?_, ?_⟩, fun k => ?_, fun rec hrec => ?_,
    fun i x => Sensors.closeRemoteStreams_dest, s.store.remoteLost_frame, rfl, rfl, rfl⟩
  · rw [Router.placeAll_up]; exact hup
  · rw [Router.placeAll_linked]; exact hlinked
  · rw [Router.placeAll_record]; exact s.router.cutLink_record .remote k
  · rw [Router.placeAll_replies]; exact Router.cutLink_answers hrec

/-- The part in which a loss takes place: LINKED_FALL has written the line and the link, REMOTE_BREAK nothing. -/
def State.beforeLoss (s : State) (c : Instr) : State :=
  { s with router := if c = Instr.linkedFall then { s.router with linked := false, up := false } else s.router }

theorem State.beforeLoss_router (s : State) (c : Instr) :
    (s.beforeLoss c).router.lossPolicy = s.router.lossPolicy ∧ (s.beforeLoss c).router.abortMode = s.router.abortMode ∧
      (s.beforeLoss c).router.record .primary = s.router.record .primary ∧
      (s.beforeLoss c).router.link .primary = s.router.link .primary := by
  unfold State.beforeLoss
  dsimp only
  split <;> exact ⟨rfl, rfl, rfl, rfl⟩

theorem exec_loss {s : State} {c : Instr} (ha : s.awake = true)
    (hc : (c = Instr.linkedFall ∧ s.router.linked = true) ∨ (c = Instr.remoteBreak ∧ s.router.up = true)) :
    exec c s = .next (s.beforeLoss c).loseRemote := by
  rcases hc with ⟨rfl, hl⟩ | ⟨rfl, hu⟩
  · show Host.Outcome.next s.linkedFall = _
    simp [State.linkedFall, hl, ha, State.beforeLoss]
  · show Host.Outcome.next s.remoteBreak = _
    simp [State.remoteBreak, ha, hu, State.beforeLoss]

/-- A LINK reset leaves its IDENT_NOTICE as the only primary notice (R156, R169). -/
theorem State.linkReset_eq {s : State} (ha : s.awake = true) :
    s.linkReset =
      { s with router := (s.router.cutLink .primary).place .primary (.ident (s.identLayout .link)),
               store := s.store.forgetAsker .primary, supply := s.supply.replyLost } := by
  simp only [State.linkReset, ha, if_true]
  rfl

theorem State.linkReset_primary (s : State) :
    let q := ((s.router.cutLink .primary).place .primary (.ident (s.identLayout .link))).link .primary
    q.replies = [] ∧ q.replyCount = 0 ∧ q.forward = [] ∧ q.overflow = false ∧ q.rx = Receiver.hunting ∧
      q.sending = none ∧ q.notices = [Notice.frame (.ident (s.identLayout .link)) 0] := by
  obtain ⟨h1, h2, h3, h4, h5, h6, h7, h8⟩ := s.router.cutLink_link .primary
  dsimp only
  rw [Router.link_place _ (.inl rfl), LinkQueues.place_room _ (by rw [h3]; decide)]
  simp [LinkQueues.joinNotice, h1, h2, h3, h4, h5, h6, h7, h8]

/-- Settles O11. -/
theorem linkEvents : Obligations.LinkEvents := by
  unfold Obligations.LinkEvents
  refine ⟨fun s ha => ⟨fun hl => ?rise, fun hl => ?high, fun hl => ?low, fun hu => ?down, fun c hc => ?lost⟩,
    fun s ha => ?reset⟩
  case rise =>
    have h : s.linkedRise =
        { s with router := { s.router with linked := true, up := true, remote := s.router.remote.linkReset } } := by
      simp [State.linkedRise, hl, ha]
    exact ⟨_, congrArg Host.Outcome.next h, rfl, rfl, rfl, rfl, rfl, rfl, rfl, rfl, rfl, rfl, rfl,
      fun k => by cases k <;> rfl, rfl, rfl, rfl, rfl, rfl, rfl⟩
  case high => exact congrArg Host.Outcome.next (by simp [State.linkedRise, hl])
  case low => exact congrArg Host.Outcome.next (by simp [State.linkedFall, hl])
  case down => exact congrArg Host.Outcome.next (by simp [State.remoteBreak, ha, hu])
  case lost =>
    obtain ⟨hpol, hmode, hrec, hlink⟩ := s.beforeLoss_router c
    obtain ⟨hrouter, ⟨hup, hlinked⟩, hnone, hanswer, hstreams, ⟨hwin, hreg, hmem⟩, hwatch, hmixer, hsupply⟩ :=
      (s.beforeLoss c).loseRemote_spec
    obtain ⟨r1, r2, r3, r4, hends, hdown⟩ := (s.beforeLoss c).loseRemote_remote
    refine ⟨_, exec_loss ha hc, fun hf => ?fall, fun hb => ?brk, ?placed, r1, r2, r3, r4, hnone _, hnone _,
      fun rec h => ?answered, hstreams, hwin, hwatch, hmixer, hsupply, hreg, hmem, fun p => ?channel⟩
    case fall =>
      have hd : (s.beforeLoss c).router.up = false ∧ (s.beforeLoss c).router.linked = false := by
        simp [State.beforeLoss, hf]
      exact ⟨hup.trans hd.1, hlinked.trans hd.2, hdown hd.1⟩
    case brk =>
      have hb' : (s.beforeLoss c).router = s.router := by simp [State.beforeLoss, hb]
      have hu : s.router.up = true := by
        rcases hc with ⟨h, -⟩ | ⟨-, h⟩
        · exact absurd (hb.symm.trans h) (by simp)
        · exact h
      exact ⟨by rw [hup, hb', hu], by rw [hlinked, hb'], hends⟩
    case placed =>
      rw [hpol] at hrouter
      exact hrouter
    case answered => rw [hanswer rec (hrec.trans h), hlink, hmode]; rfl
    case channel =>
      have hm : (s.beforeLoss c).loseRemote.motors = (s.motors.afterLoss s.live s.router.lossPolicy).1 := by
        rw [State.loseRemote_eq]
        dsimp only
        rw [hpol]
        rfl
      rw [hm]
      exact Motors.afterLoss_channel _ _ _ p
  case reset =>
    have hexec : exec .linkReset s = .next _ := congrArg Host.Outcome.next (State.linkReset_eq ha)
    obtain ⟨h1, h2, h3, h4, h5, h6, h7⟩ := s.linkReset_primary
    obtain ⟨hloss, hup, -, hwindows, hwait, hmode⟩ := s.router.cutLink_settings .primary
    have hne : ∀ n, ((s.router.cutLink .primary).place .primary n).link .remote = (s.router.cutLink .primary).link .remote :=
      fun n => Router.place_link_ne _ (by decide) n
    refine ⟨_, hexec, h1, h2, h3, h4, h5, h6, h7, ?_, ?_, fun rec h => ?answered, ?notices, ?_, ?_, ?_, ?_, ?_, rfl, rfl,
      rfl, rfl, rfl, rfl⟩
    case answered =>
      dsimp only
      rw [hne]
      exact Router.cutLink_answers (l := .primary) h
    case notices =>
      dsimp only
      rw [hne]
      simp only [Router.cutLink, Router.abort_notices]
      rfl
    · simp [Router.cutLink_record]
    · simp [Router.cutLink_record]
    · simpa [Router.windows] using hwindows
    · simpa using hwait
    · simpa using hmode
    · simpa using hloss
    · simpa using hup

end Sys2Proof.Machine
end

section
/-! How a request of tagged fields is answered, with the requests that only answer or write a setting (R143, R148, R157,
R158, R164, R165, R167, R168, R176). -/

namespace Sys2Proof.Machine

/-! ### A request of tagged fields -/

theorem takeRequest_answered {s t : State} {channel : Byte} {r : Req} {h : Handler} {y : Reply}
    (ha : s.admits r.link channel = true) (hx : h r (s.entered channel r) = answered (t, y)) :
    s.takeRequest channel h r = t.replied channel r y := by
  rw [takeRequest_of_admits h ha, hx]; rfl

theorem takeRequest_onFields {s t : State} {channel : Byte} {r : Req} {fs : Fields}
    {act : Link → Fields → State → Outcome} {y : Reply} (ha : s.admits r.link channel = true)
    (hf : decodeFields r.payload = some fs) (hx : act r.link fs (s.entered channel r) = (t, y)) :
    s.takeRequest channel (onFields act) r = t.replied channel r y :=
  takeRequest_answered ha (by rw [onFields_some _ _ hf, hx])

/-- R125: while a compaction runs every request it bars is BUSY. -/
theorem takeRequest_compacting {s : State} {channel : Byte} {r : Req} (h : Handler)
    (ha : s.admits r.link channel = true) (hc : s.store.compaction ≠ none) :
    s.takeRequest channel (unlessCompacting h) r = (s.entered channel r).replied channel r (Reply.refuse .busy) := by
  have hk : (s.entered channel r).compacting = true := by
    simpa [State.compacting, Option.isSome_iff_ne_none] using hc
  rw [takeRequest_of_admits _ ha, unlessCompacting, if_pos hk]
  rfl

/-- Without a compaction a request it would bar is handled as any other. -/
theorem takeRequest_idle {s : State} {channel : Byte} {r : Req} (h : Handler) (ha : s.admits r.link channel = true)
    (hc : s.store.compaction = none) : s.takeRequest channel (unlessCompacting h) r = s.takeRequest channel h r := by
  have hk : (s.entered channel r).compacting = false := by simp [State.compacting, hc]
  rw [takeRequest_of_admits _ ha, takeRequest_of_admits _ ha, unlessCompacting_idle h r hk]

theorem takeRequest_idle_onFields {s t : State} {channel : Byte} {r : Req} {fs : Fields}
    {act : Link → Fields → State → Outcome} {y : Reply} (ha : s.admits r.link channel = true)
    (hc : s.store.compaction = none) (hf : decodeFields r.payload = some fs)
    (hx : act r.link fs (s.entered channel r) = (t, y)) :
    s.takeRequest channel (unlessCompacting (onFields act)) r = t.replied channel r y :=
  (takeRequest_idle _ ha hc).trans (takeRequest_onFields ha hf hx)

@[simp] theorem Val.check_val {α β : Type} (c : Check) (g : α → Option β) (a : α) :
    (Val.val a).check c g = (match g a with | none => .bad c | some b => .val b) := rfl

theorem Val.check_val_some {α β : Type} {g : α → Option β} {a : α} {b : β} (c : Check) (h : g a = some b) :
    (Val.val a).check c g = .val b := by rw [Val.check_val, h]

theorem Val.check_val_none {α β : Type} {g : α → Option β} {a : α} (c : Check) (h : g a = none) :
    (Val.val a).check c g = .bad c := by rw [Val.check_val, h]

theorem outsideNat_false {lo hi n : Nat} (h : lo ≤ n ∧ n ≤ hi) : outsideNat lo hi n = false := by
  simp [outsideNat, h]

theorem outsideNat_true {lo hi n : Nat} (h : n < lo ∨ hi < n) : outsideNat lo hi n = true := by
  simpa [outsideNat] using h

/-! ### System requests (R164, R165, R167, R168, R176) -/

theorem State.entered_identLayout (s : State) (channel : Byte) (r : Req) (k : ResetKind) :
    (s.entered channel r).identLayout k = s.identLayout k := by
  simp [State.identLayout]

theorem leNat_leBytes_four {n : Nat} (h : n < 4294967296) : leNat (leBytes 4 n) = n := by
  simp [leBytes, leNat]
  omega

/-- Settles O15. -/
theorem systemRequestsAnswer : Obligations.SystemRequestsAnswer := by
  unfold Obligations.SystemRequestsAnswer
  refine ⟨fun r s ha => ⟨fun hl => ?tag, fun hl => ?tagLength⟩,
    fun r s => ⟨fun ha => ?ident, fun ha => ?power, fun k => ⟨?_, ?_, ?_, ?_, ?_⟩⟩,
    fun r fs n s ha hf hn => ⟨fun hlo hhi => ?budget, fun ho => ?budgetLimit⟩⟩
  case tag =>
    exact congrArg Host.Outcome.next
      ((takeRequest_answered ha (by rw [handleSetTag, if_pos hl])).trans (by rw [State.entered_supply]))
  case tagLength =>
    exact congrArg Host.Outcome.next
      (takeRequest_answered ha (by rw [handleSetTag, if_neg hl]; rfl))
  case ident =>
    exact congrArg Host.Outcome.next
      ((takeRequest_answered ha rfl).trans (by rw [State.entered_identLayout, State.entered_supply]))
  case power =>
    exact congrArg Host.Outcome.next ((takeRequest_answered ha rfl).trans (by rw [State.entered_supply]))
  case budget =>
    have hb : (natField 1 fs).check .limit (fun n => if outsideNat 1000 4000 n then none else some n) = .val n := by
      rw [hn, Val.check_val, outsideNat_false ⟨hlo, hhi⟩]; rfl
    refine congrArg Host.Outcome.next ((takeRequest_onFields ha hf rfl).trans ?_)
    simp only [hb, State.entered_supply]
  case budgetLimit =>
    have hb : (natField 1 fs).check .limit (fun n => if outsideNat 1000 4000 n then none else some n) = .bad .limit := by
      rw [hn, Val.check_val, outsideNat_true ho]; rfl
    refine congrArg Host.Outcome.next ((takeRequest_onFields ha hf rfl).trans ?_)
    simp only [hb, Val.need]
  · simp [State.identLayout, leBytes, MotorPort.all, Num8.all]
  · rfl
  · exact leNat_leBytes_four s.supply.brickTag.isLt
  · rfl
  · rfl

theorem State.replied_ready (s : State) (channel : Byte) (r : Req) (y : Reply) (k : Shutdown) (l : Link) :
    ({ s with supply := { s.supply with shutdown := some k } }.replied channel r y).ready l = false := by
  simp [State.ready]

/-- Settles O16. -/
theorem resetAndSleepLowerTheReadyLines : Obligations.ResetAndSleepLowerTheReadyLines := by
  unfold Obligations.ResetAndSleepLowerTheReadyLines
  refine fun r s l => ⟨fun ha => ⟨_, congrArg Host.Outcome.next (takeRequest_answered ha rfl), ?_, ?_⟩,
    fun ha => ⟨_, congrArg Host.Outcome.next (takeRequest_answered ha rfl), ?_, ?_⟩⟩
  · rw [State.shutDown, State.entered_supply]
  · exact State.replied_ready _ _ _ _ _ _
  · rw [State.shutDown, State.entered_supply]
  · exact State.replied_ready _ _ _ _ _ _

/-! ### Requests that only answer (R79, R83, R111, R143, R158) -/

@[simp] theorem State.entered_sensorData (s : State) (channel : Byte) (r : Req) (p : SensorPort) :
    (s.entered channel r).sensorData p = s.sensorData p := by
  unfold State.sensorData State.port
  rw [State.entered_sensors]

theorem Num16.ofNum_zero : Num16.ofNum 0 = none := by decide

/-- Settles O40. -/
theorem statusRequestsAnswer : Obligations.StatusRequestsAnswer := by
  unfold Obligations.StatusRequestsAnswer
  refine fun r fs s => ⟨fun p ha hf hp => ?sensor, fun p n ha hf hp hn hlo hhi => ?samples,
    fun n i ha hf hn hi => ?entry, fun ha hf hn => ?summary, fun ha hc hask => ?sound, fun ha hc => ?busy,
    fun ha hask => ?route⟩
  case sensor =>
    exact congrArg Host.Outcome.next
      ((takeRequest_onFields ha hf (by simp [State.sensorStatus, hp])))
  case samples =>
    have hcount : (natField 2 fs).check .count (fun n => if 1 ≤ n ∧ n ≤ 16 then some n else none) = .val n := by
      rw [hn]; exact Val.check_val_some _ (if_pos ⟨hlo, hhi⟩)
    exact congrArg Host.Outcome.next
      (takeRequest_onFields ha hf
        (by simp only [State.readSamples, hp, hcount, State.entered_port]))
  case entry =>
    have hz : n ≠ 0 := fun h => by rw [h, Num16.ofNum_zero] at hi; cases hi
    exact congrArg Host.Outcome.next
      (takeRequest_onFields ha hf
        (by simp [WatchUnit.status, hn, hz, hi]))
  case summary =>
    exact congrArg Host.Outcome.next
      (takeRequest_onFields ha hf (by simp [WatchUnit.status, hn]))
  case sound =>
    refine congrArg Host.Outcome.next ((takeRequest_idle _ ha hc).trans ((takeRequest_answered ha rfl).trans ?_))
    simp only [if_pos hask, State.entered_store, State.entered_uses, State.entered_mixer, State.entered_supply,
      Mixer.clearClipped]
  case busy => exact congrArg Host.Outcome.next (takeRequest_compacting _ ha hc)
  case route =>
    refine ⟨_, congrArg Host.Outcome.next (takeRequest_answered ha rfl), by rw [if_pos hask], ?_⟩
    rw [if_pos hask]
    have hov : ∀ k, ((State.replied { s.entered 0x52 r with router := (s.entered 0x52 r).router.clearOverflow } 0x52 r
        (.plain .ok (s.entered 0x52 r).routeData)).router.link k).overflow = false := fun k => by
      simp [State.replied, hask, State.answer, Router.placeReply_overflow, Router.clearOverflow_overflow]
    exact ⟨hov .primary, hov .remote⟩

/-! ### Routing requests (R157, R158) -/

theorem Router.setWindow_windows (r : Router) {n : Nat} (hn : n ≤ 3) (w : RouteWindow) :
    (r.setWindow n w).windows.getD n RouteWindow.unused = w ∧
      ∀ k, k < 4 → k ≠ n →
        (r.setWindow n w).windows.getD k RouteWindow.unused = r.windows.getD k RouteWindow.unused := by
  interval_cases n <;> exact ⟨rfl, fun k hk hne => by interval_cases k <;> first | rfl | exact absurd rfl hne⟩

theorem State.entered_windows (s : State) (channel : Byte) (r : Req) :
    (s.entered channel r).router.windows = s.router.windows := by
  simp [Router.windows]

theorem byteField {k b : Nat} {fs : Fields} (h : natField k fs = .val b) (hb : b ≤ 255) :
    natFieldIn k 0 255 fs = .val b := by
  rw [natFieldIn, h]
  exact Val.check_val_some _ (if_pos ⟨Nat.zero_le b, hb⟩)

theorem badWait_false {w : Nat} (h : w = 0 ∨ (w % 10 = 0 ∧ 10 ≤ w ∧ w ≤ 2550)) : badWait w = false := by
  rcases h with rfl | ⟨h1, h2, h3⟩
  · decide
  · simp [badWait, h1, outsideNat_false ⟨h2, h3⟩]

theorem badWait_true {w : Nat} (h0 : w ≠ 0) (h : w % 10 ≠ 0 ∨ w < 10 ∨ 2550 < w) : badWait w = true := by
  rcases h with h | h
  · simp [badWait, h0, h]
  · simp [badWait, h0, outsideNat_true h]

/-- SET_FORWARD with its two fields decoded and its checks passed. -/
theorem State.setForward_ok {fs : Fields} {w : Val Nat} {a : Val AbortMode} (l : Link) (s : State)
    (hw : natField 1 fs = w) (ha : enumFieldAs .mode 2 abortOfCode fs = a)
    (hb : w.fails ++ a.fails ++ w.violates .wait badWait ++
      (if (fieldValue 1 fs).isNone ∧ (fieldValue 2 fs).isNone then [Check.missingField] else []) = []) :
    s.setForward l fs =
      ({ s with router := { s.router with wait := w.get?.getD s.router.wait, abortMode := a.get?.getD s.router.abortMode } },
        Reply.ok) := by
  simp only [State.setForward, hw, ha, hb, ne_eq, not_true_eq_false, if_false]

/-- SET_FORWARD refused. -/
theorem State.setForward_bad {fs : Fields} {w : Val Nat} {a : Val AbortMode} {bad : List Check} (l : Link) (s : State)
    (hw : natField 1 fs = w) (ha : enumFieldAs .mode 2 abortOfCode fs = a)
    (hb : w.fails ++ a.fails ++ w.violates .wait badWait ++
      (if (fieldValue 1 fs).isNone ∧ (fieldValue 2 fs).isNone then [Check.missingField] else []) = bad)
    (hne : bad ≠ []) : s.setForward l fs = (s, .invalid bad) := by
  simp only [State.setForward, hw, ha, hb, hne, ne_eq, not_false_eq_true, if_true]

theorem natField_absent {k : Nat} {fs : Fields} (h : fieldValue k fs = none) : natField k fs = .absent := by
  simp [natField, h]

theorem enumFieldAs_absent {α : Type} {c : Check} {k : Nat} {f : Nat → Option α} {fs : Fields}
    (h : fieldValue k fs = none) : enumFieldAs c k f fs = .absent := by
  simp [enumFieldAs, natField_absent h, Val.check]

/-- A field that decodes is there. -/
theorem fieldValue_of_natField {k n : Nat} {fs : Fields} (h : natField k fs = .val n) : (fieldValue k fs).isNone = false := by
  cases hv : fieldValue k fs with
  | none => rw [natField_absent hv] at h; cases h
  | some v => rfl

theorem fieldValue_of_enumFieldAs {α : Type} {c : Check} {k : Nat} {f : Nat → Option α} {fs : Fields} {a : α}
    (h : enumFieldAs c k f fs = .val a) : (fieldValue k fs).isNone = false := by
  cases hv : fieldValue k fs with
  | none => rw [enumFieldAs_absent hv] at h; cases h
  | some v => rfl

/-- Settles O56. -/
theorem routingRequestsWriteTheRouter : Obligations.RoutingRequestsWriteTheRouter := by
  unfold Obligations.RoutingRequestsWriteTheRouter
  refine fun r fs s hf => ⟨fun n b l d ha hn hb hl hd hb255 hl255 => ⟨fun h3 => ?outside, fun h3 => ⟨?window, ?_, ?_⟩⟩,
    fun ha => ⟨fun w hw hnone h0 hbad => ?waitOnly, fun w a hw hmode hok => ?both, fun w a hw hmode h0 hbad => ?waitBad,
      fun w hw hnone hok => ?wait, fun a hnone hmode => ?mode, fun h1 h2 => ?missing⟩, fun p ha hp => ?policy⟩
  case outside =>
    have hw : (natField 1 fs).check .window (fun n => if n ≤ 3 then some n else none) = .bad .window := by
      rw [hn]; exact Val.check_val_none _ (if_neg (Nat.not_le.mpr h3))
    exact congrArg Host.Outcome.next (takeRequest_onFields ha hf
      (by simp [State.setWindow, hw, byteField hb hb255, byteField hl hl255, hd, Val.need]))
  case window =>
    have hw : (natField 1 fs).check .window (fun n => if n ≤ 3 then some n else none) = .val n := by
      rw [hn]; exact Val.check_val_some _ (if_pos h3)
    exact congrArg Host.Outcome.next (takeRequest_onFields ha hf
      (by simp only [State.setWindow, hw, byteField hb hb255, byteField hl hl255, hd]; rfl))
  case waitOnly =>
    exact congrArg Host.Outcome.next (takeRequest_onFields ha hf
      (State.setForward_bad _ _ hw (enumFieldAs_absent hnone)
        (by simp [Val.fails, Val.violates, badWait_true h0 hbad, fieldValue_of_natField hw]) (by simp)))
  case waitBad =>
    exact congrArg Host.Outcome.next (takeRequest_onFields ha hf
      (State.setForward_bad _ _ hw hmode
        (by simp [Val.fails, Val.violates, badWait_true h0 hbad, fieldValue_of_natField hw]) (by simp)))
  case missing =>
    exact congrArg Host.Outcome.next (takeRequest_onFields ha hf
      (State.setForward_bad _ _ (natField_absent h1) (enumFieldAs_absent h2)
        (by simp [Val.fails, Val.violates, h1, h2]) (by simp)))
  case both =>
    exact congrArg Host.Outcome.next (takeRequest_onFields ha hf
      (State.setForward_ok _ _ hw hmode
        (by simp [Val.fails, Val.violates, badWait_false hok, fieldValue_of_natField hw])))
  case wait =>
    exact congrArg Host.Outcome.next (takeRequest_onFields ha hf
      (State.setForward_ok _ _ hw (enumFieldAs_absent hnone)
        (by simp [Val.fails, Val.violates, badWait_false hok, fieldValue_of_natField hw])))
  case mode =>
    exact congrArg Host.Outcome.next (takeRequest_onFields ha hf
      (State.setForward_ok _ _ (natField_absent hnone) hmode
        (by simp [Val.fails, Val.violates, fieldValue_of_enumFieldAs hmode])))
  case policy =>
    exact congrArg Host.Outcome.next (takeRequest_onFields ha hf (by simp only [State.remotePolicy, hp]))
  · exact (Router.setWindow_windows _ h3 _).1
  · intro k hk hne
    rw [(Router.setWindow_windows _ h3 _).2 k hk hne, State.entered_windows]

/-- Settles O60. -/
theorem invariantsHoldAtReset : Obligations.InvariantsHoldAtReset := by
  unfold Obligations.InvariantsHoldAtReset
  exact ⟨rfl, by decide, by decide, by decide⟩

end Sys2Proof.Machine
end

section
/-! The resets and SLEEP, and the two timers that run after them (R24, R43, R66, R80, R128, R159, R165 to R167, R176). -/

namespace Sys2Proof.Machine

/-- Settles O19. -/
theorem resetValues : Obligations.ResetValues := by
  unfold Obligations.ResetValues
  refine ⟨fun i => by cases i <;> rfl, fun i => by cases i <;> rfl, fun p => by cases p <;> rfl, rfl, rfl, rfl,
    fun a => rfl, fun v => by cases v <;> rfl, rfl, rfl, rfl, rfl, rfl, rfl,
    fun l => by cases l <;> exact ⟨rfl, rfl, rfl, rfl, rfl, rfl, rfl, rfl, rfl⟩, fun c => ?disposition, rfl, rfl, rfl, rfl,
    rfl, rfl, rfl, rfl, rfl, rfl, rfl, rfl, rfl, rfl,
    fun p => by cases p <;> exact ⟨rfl, rfl, rfl, rfl⟩, rfl, rfl, rfl, fun i => by cases i <;> rfl, rfl, rfl⟩
  case disposition =>
    have hunused : RouteWindow.unused.includes c = false := by
      simp [RouteWindow.includes, RouteWindow.unused]
      omega
    have hfirst : RouteWindow.includes { base := 0x10, limit := 0x4F, disp := .localMirror } c =
        decide (0x10 ≤ c.toNat ∧ c.toNat ≤ 0x4F) := by simp [RouteWindow.includes, Bool.decide_and]
    simp only [Router.disposition, State.reset, Router.reset, Router.windows, List.find?, hunused, hfirst]
    by_cases h : 0x10 ≤ c.toNat ∧ c.toNat ≤ 0x4F
    · rw [if_pos h, decide_eq_true h]
    · rw [if_neg h, decide_eq_false h]

/-! ### SOFT (R167) -/

theorem averageOf_replicate (mv : Nat) : averageOf (List.replicate 8 mv) = max 5000 (min 9000 mv) := by
  have hs : (List.replicate 8 mv).sum / 8 = mv := by simp only [List.sum_replicate_nat]; omega
  unfold averageOf clamp
  rw [hs]
  split <;> [skip; split] <;> omega

theorem map_replaceFirst {α β : Type} {t : α → Bool} {f : α → β} {g : α → α} (h : ∀ x, f (g x) = f x) (xs : List α) :
    (replaceFirst t g xs).map f = xs.map f := by
  induction xs with
  | nil => rfl
  | cons x xs ih =>
    unfold replaceFirst
    split <;> simp [h, ih]

/-- What SOFT leaves of a region: all but whether its content is ready (R94, R128). -/
theorem softStore_regions {α : Type} {f : Region → α} (h : ∀ r, f { r with ready := true } = f r) (cs : List Capture)
    (st : Store) : (softStore cs st).regions.map f = st.regions.map f := by
  have hf : ∀ (cs : List Capture) (x : Store),
      (cs.foldl (fun acc c => acc.update c.region (fun r => { r with ready := true })) x).regions.map f =
        x.regions.map f := by
    intro cs
    induction cs with
    | nil => exact fun _ => rfl
    | cons c cs ih => exact fun x => (ih _).trans (map_replaceFirst h _)
  exact hf cs st.soft

/-- Marking regions ready leaves the window and the compaction. -/
theorem softStore_rest (cs : List Capture) (st : Store) :
    (softStore cs st).window = none ∧ (softStore cs st).compaction = st.compaction.bind softCompaction := by
  have hf : ∀ (cs : List Capture) (x : Store),
      (cs.foldl (fun acc c => acc.update c.region (fun r => { r with ready := true })) x).window = x.window ∧
        (cs.foldl (fun acc c => acc.update c.region (fun r => { r with ready := true })) x).compaction = x.compaction := by
    intro cs
    induction cs with
    | nil => exact fun _ => ⟨rfl, rfl⟩
    | cons c cs ih => exact fun x => ih _
  exact hf cs st.soft

/-- A window that is off includes no channel. -/
theorem RouteWindow.unused_includes_none (c : Byte) : ¬(RouteWindow.unused.base ≤ c ∧ c ≤ RouteWindow.unused.limit) := by
  rintro ⟨h1, h2⟩
  simp only [RouteWindow.unused, BitVec.le_def] at h1 h2
  exact absurd (h1.trans h2) (by decide)

theorem Bank.soft_state (k : Bank) : k.soft.state = (if k.state = .locked then .on else k.state) ∧ k.soft.trips = 0 := by
  unfold Bank.soft
  split <;> exact ⟨rfl, rfl⟩

theorem Sensors.soft_bank (x : Sensors) (b : BankId) : x.soft.bank b = (x.bank b).soft := by cases b <;> rfl

theorem Sensors.soft_arrival (x : Sensors) (p : SensorPort) : (x.soft.ports.get p).arrival = 0 := by
  have h : x.soft.ports.get p = x.softPort p := Eight.get_ofFn _ _
  rw [h]
  unfold Sensors.softPort Port.soft
  split
  · rfl
  · dsimp only
    split <;> rfl

/-- Settles O17. -/
theorem softResetLeaves : Obligations.SoftResetLeaves := by
  unfold Obligations.SoftResetLeaves
  intro mv s
  refine ⟨fun h => ?_, fun h ho => ?_, fun h => ?_, ?_⟩
  · exact congrArg Host.Outcome.next (if_pos h)
  · exact congrArg Host.Outcome.next (if_pos (by rw [h, ho]; rfl))
  · exact congrArg Host.Outcome.next (if_neg (by rw [h]; decide))
  intro t
  have hch : ∀ p, t.motors.ch.get p = (s.motors.ch.get p).soft := fun p => Six.get_map _ _ p
  have hbank : ∀ b, t.sensors.bank b = (s.sensors.bank b).soft := s.sensors.soft_bank
  refine ⟨rfl, fun p => ?_, rfl, rfl, rfl, rfl, fun i => ?_, s.sensors.soft_arrival, fun b => ?_, rfl, rfl,
    softStore_mem _ _, (softStore_rest _ _).1, softStore_regions (fun _ => rfl) _ _, rfl, rfl, rfl, rfl, rfl, rfl, rfl,
    rfl, rfl, rfl, rfl, rfl, rfl, rfl, rfl, fun w hw c => ?_, rfl, rfl, rfl, rfl, fun k => ?_, ?_, rfl, rfl,
    rfl, fun b => ?_, fun h => ?_⟩
  · dsimp only
    rw [hch]
    exact ⟨rfl, rfl, rfl, rfl, rfl, rfl, rfl, rfl, rfl, rfl, rfl, rfl, rfl, rfl, rfl⟩
  · cases i <;> rfl
  · rw [hbank]; exact (Bank.soft_state _).2
  · have hun : w = RouteWindow.unused := by
      rcases List.mem_cons.mp hw with rfl | hw
      · rfl
      · rcases List.mem_cons.mp hw with rfl | hw
        · rfl
        · exact List.mem_singleton.mp hw
    rw [hun]
    exact RouteWindow.unused_includes_none c
  · cases k <;> exact ⟨rfl, rfl, rfl, rfl, rfl, rfl, rfl⟩
  · have hv : t.supply.vb = (s.supply.soft mv).vb := rfl
    rw [hv, ← averageOf_replicate]
    simp only [Supply.soft, Supply.filled]
  · rw [hbank]; exact (Bank.soft_state _).1
  · show (softStore s.sensors.captures s.store).compaction = none
    rw [(softStore_rest _ _).2, h]
    rfl

/-! ### SLEEP (R165) -/

/-- Settles O20. -/
theorem sleepIsEnteredAndStandsStill : Obligations.SleepIsEnteredAndStandsStill := by
  unfold Obligations.SleepIsEnteredAndStandsStill
  refine ⟨fun s => ⟨fun h => ?_, fun h ho => ?_, fun h => ?_, rfl, rfl, rfl, fun l => rfl, fun p => ?_, fun b => ?_,
    fun p => ?_, rfl, rfl⟩, fun s c h hc => ?still⟩
  · exact congrArg Host.Outcome.next (if_pos h)
  · exact congrArg Host.Outcome.next (if_pos (by rw [h, ho]; rfl))
  · exact congrArg Host.Outcome.next (if_neg (by rw [h]; decide))
  · cases p <;> exact ⟨rfl, rfl⟩
  · cases b <;> rfl
  · cases p <;> rfl
  case still =>
    have ha : s.awake = false := by simp [State.awake, h]
    have hstill : ∀ f : State → State, s.whenAwake f = s := fun f => by simp [State.whenAwake, ha]
    rcases hc with hc | ⟨r, rfl⟩ | ⟨k, rfl⟩ | ⟨mv, rfl⟩ | ⟨l, f, rfl⟩ | ⟨l, b, rfl⟩ | ⟨p, k, rfl⟩ | ⟨i, rfl⟩ | ⟨b, x, rfl⟩
    · simp only [List.mem_cons, List.not_mem_nil, or_false] at hc
      rcases hc with rfl | rfl | rfl | rfl | rfl | rfl | rfl
      · exact congrArg Host.Outcome.next (by simp [State.linkReset, ha])
      · exact congrArg Host.Outcome.next (by simp [State.remoteBreak, ha])
      all_goals exact congrArg Host.Outcome.next (hstill _)
    · exact congrArg Host.Outcome.next (hstill _)
    · exact congrArg Host.Outcome.next (hstill _)
    · exact congrArg Host.Outcome.next (by simp [State.supplyUpdate, ha])
    · exact congrArg Host.Outcome.next (by simp [State.transmit, ha])
    · exact congrArg Host.Outcome.next (by simp [State.receive, ha])
    · exact congrArg Host.Outcome.next (hstill _)
    · exact congrArg Host.Outcome.next (hstill _)
    · exact congrArg Host.Outcome.next (hstill _)

end Sys2Proof.Machine
end

section
/-! Sensor banks and ports: what a change of a port leaves (R63 to R78, R94, R95), and the timer that powers bank R up
(R66). -/

namespace Sys2Proof.Machine

/-! ### A change of one port -/

@[simp] theorem State.changePort_port (s : State) (p p' : SensorPort) (q : Port) (o : Option CaptureOutcome) :
    (s.changePort p q o).port p' = if p' = p then q else s.port p' := by
  obtain ⟨-, -, -, h⟩ := s.changePort_frame p q o
  unfold State.port
  rw [h, Eight.get_set]

/-- The end of a capture changes nothing but the captures, the region's flag and the notices. -/
theorem State.endCapture_frame (s : State) (p : SensorPort) (o : CaptureOutcome) :
    (s.endCapture p o).motors = s.motors ∧ (s.endCapture p o).mixer = s.mixer ∧
      (s.endCapture p o).supply = s.supply ∧ (s.endCapture p o).watch = s.watch ∧
      (s.endCapture p o).sensors.streams = s.sensors.streams ∧ (s.endCapture p o).sensors.bankRWait = s.sensors.bankRWait ∧
      (s.endCapture p o).store.mem = s.store.mem ∧
      ∀ x ∈ (s.endCapture p o).sensors.captures, x ∈ s.sensors.captures ∧ x.port ≠ p := by
  unfold State.endCapture
  split
  · rename_i h
    refine ⟨rfl, rfl, rfl, rfl, rfl, rfl, rfl, fun x hx => ⟨hx, ?_⟩⟩
    simpa using List.find?_eq_none.mp h x hx
  · rename_i c h
    have hc : c.port = p := by simpa using List.find?_some h
    refine ⟨rfl, rfl, rfl, rfl, rfl, rfl, rfl, fun x hx => ?_⟩
    have hx' : x ∈ s.sensors.captures.filter (fun d => d.port != c.port) := hx
    obtain ⟨h1, h2⟩ := List.mem_filter.mp hx'
    exact ⟨h1, by simpa [hc] using h2⟩

/-- The port written, its PORT_EVENT handed over, and the watch entries on it re-examined (R78, R99). -/
def State.portWritten (s : State) (p : SensorPort) (q : Port) : State :=
  let s1 := s.setPort p q
  let s2 := if reportedState q.state then s1.notify .primary (s1.portNotice p) else s1
  { s2 with watch := s2.watch.reexamine s2.sensors.ports p }

theorem State.changePort_quiet (s : State) (p : SensorPort) (q : Port) : s.changePort p q none = s.portWritten p q := rfl

theorem State.changePort_ending (s : State) (p : SensorPort) (q : Port) (o : CaptureOutcome) :
    s.changePort p q (some o) = (s.portWritten p q).endCapture p o := rfl

theorem State.portWritten_frame (s : State) (p : SensorPort) (q : Port) :
    let t := s.portWritten p q
    t.motors = s.motors ∧ t.mixer = s.mixer ∧ t.supply = s.supply ∧ t.store = s.store ∧
      t.sensors = { s.sensors with ports := s.sensors.ports.set p q } ∧
      t.watch = s.watch.reexamine (s.sensors.ports.set p q) p := by
  unfold State.portWritten
  dsimp only
  split <;> exact ⟨rfl, rfl, rfl, rfl, rfl, rfl⟩

/-- A change of a port, apart from its notices and the watch entries on it. -/
theorem State.changePort_rest (s : State) (p : SensorPort) (q : Port) (o : Option CaptureOutcome) :
    let t := s.changePort p q o
    t.motors = s.motors ∧ t.mixer = s.mixer ∧ t.supply = s.supply ∧ t.sensors.streams = s.sensors.streams ∧
      t.sensors.bankRWait = s.sensors.bankRWait ∧ t.store.mem = s.store.mem ∧
      (∀ x ∈ t.sensors.captures, x ∈ s.sensors.captures ∧ (o.isSome = true → x.port ≠ p)) := by
  obtain ⟨h1, h2, h3, h4, h5, -⟩ := s.portWritten_frame p q
  cases o with
  | none =>
    dsimp only
    rw [State.changePort_quiet, h1, h2, h3, h4, h5]
    exact ⟨rfl, rfl, rfl, rfl, rfl, rfl, fun x hx => ⟨hx, by simp⟩⟩
  | some o =>
    obtain ⟨e1, e2, e3, -, e4, e5, e6, e7⟩ := (s.portWritten p q).endCapture_frame p o
    dsimp only
    rw [State.changePort_ending, e1, e2, e3, e4, e5, e6, h1, h2, h3, h4, h5]
    refine ⟨rfl, rfl, rfl, rfl, rfl, rfl, fun x hx => ⟨?_, fun _ => (e7 x hx).2⟩⟩
    have hmem := (e7 x hx).1
    rwa [h5] at hmem

/-- A change that ends no capture leaves the store and the captures. -/
theorem State.changePort_none (s : State) (p : SensorPort) (q : Port) :
    (s.changePort p q none).store = s.store ∧ (s.changePort p q none).sensors.captures = s.sensors.captures := by
  unfold State.changePort
  dsimp only
  split <;> exact ⟨rfl, rfl⟩

/-! ### A change of several ports -/

theorem State.changePorts_port (f : Port → Port) (o : Option CaptureOutcome) {ps : List SensorPort} (hn : ps.Nodup)
    (s : State) (p : SensorPort) :
    (s.changePorts f o ps).port p = if p ∈ ps then f (s.port p) else s.port p := by
  induction ps generalizing s with
  | nil => rfl
  | cons q ps ih =>
    obtain ⟨hq, hn⟩ := List.nodup_cons.mp hn
    rw [State.changePorts, ih hn, State.changePort_port]
    by_cases h : p = q
    · subst h; simp [hq]
    · simp [h]

/-- Several ports changed, apart from their notices and the watch entries on them. -/
theorem State.changePorts_rest (f : Port → Port) (o : Option CaptureOutcome) (ps : List SensorPort) (s : State) :
    let t := s.changePorts f o ps
    (t.motors = s.motors ∧ t.mixer = s.mixer ∧ t.supply = s.supply) ∧
      (t.sensors.streams = s.sensors.streams ∧ t.sensors.bankRWait = s.sensors.bankRWait ∧
        t.sensors.bankL = s.sensors.bankL ∧ t.sensors.bankR = s.sensors.bankR) ∧ t.store.mem = s.store.mem ∧
      ∀ x ∈ t.sensors.captures, x ∈ s.sensors.captures ∧ (o.isSome = true → x.port ∉ ps) := by
  induction ps generalizing s with
  | nil => exact ⟨⟨rfl, rfl, rfl⟩, ⟨rfl, rfl, rfl, rfl⟩, rfl, fun x hx => ⟨hx, by simp⟩⟩
  | cons p ps ih =>
    obtain ⟨⟨i1, i2, i3⟩, ⟨i4, i5, i6, i7⟩, i8, i9⟩ := ih (s.changePort p (f (s.port p)) o)
    obtain ⟨r1, r2, r3, r4, r5, r6, r7⟩ := s.changePort_rest p (f (s.port p)) o
    obtain ⟨b1, b2, -, -⟩ := s.changePort_frame p (f (s.port p)) o
    refine ⟨⟨i1.trans r1, i2.trans r2, i3.trans r3⟩, ⟨i4.trans r4, i5.trans r5, i6.trans b1, i7.trans b2⟩, i8.trans r6,
      fun x hx => ?_⟩
    obtain ⟨hx1, hx2⟩ := i9 x hx
    obtain ⟨hx3, hx4⟩ := r7 x hx1
    exact ⟨hx3, fun ho => by simpa using ⟨hx4 ho, hx2 ho⟩⟩

/-- Ports of a bank that powers up: no notice, no capture, and the store as it was (R64). -/
theorem State.changePorts_powerUp (ps : List SensorPort) (s : State) :
    (s.changePorts Port.powerUp none ps).router = s.router ∧ (s.changePorts Port.powerUp none ps).store = s.store := by
  induction ps generalizing s with
  | nil => exact ⟨rfl, rfl⟩
  | cons p ps ih =>
    obtain ⟨h1, h2⟩ := ih (s.changePort p (s.port p).powerUp none)
    exact ⟨h1.trans (s.changePort_router _ _ _), h2.trans (s.changePort_none _ _).1⟩

/-! ### Banks (R63 to R67) -/

theorem BankId.ports_nodup (b : BankId) : b.ports.Nodup := by cases b <;> decide

theorem Sensors.setBank_other (x : Sensors) {b b' : BankId} (h : b' ≠ b) (k : Bank) :
    (x.setBank b k).bank b' = x.bank b' := by
  cases b <;> cases b' <;> first | rfl | exact absurd rfl h

theorem Sensors.setBank_same (x : Sensors) (b : BankId) (k : Bank) : (x.setBank b k).bank b = k := by cases b <;> rfl

/-- A bank with its ports changed. -/
theorem State.changeBank_bank (s : State) (b b' : BankId) (k : Bank) (f : Port → Port) (o : Option CaptureOutcome) :
    (State.changePorts (s.setBank b k) f o b.ports).sensors.bank b' = if b' = b then k else s.sensors.bank b' := by
  obtain ⟨-, ⟨-, -, hl, hr⟩, -, -⟩ := (s.setBank b k).changePorts_rest f o b.ports
  have hb : ∀ b', (State.changePorts (s.setBank b k) f o b.ports).sensors.bank b' = (s.sensors.setBank b k).bank b' := by
    intro b'
    cases b'
    · exact hl
    · exact hr
  rw [hb]
  split
  · rename_i h; rw [h, Sensors.setBank_same]
  · rename_i h; rw [Sensors.setBank_other _ h]

/-- A bank that powers up (R64, R66). -/
theorem State.powerUpBank_spec (s : State) (b : BankId) (n : Nat) :
    let u := s.powerUpBank b n
    ((u.sensors.bank b).state = .on ∧ (u.sensors.bank b).trips = n ∧ (u.sensors.bank b).clean = 0) ∧
      (∀ b', b' ≠ b → u.sensors.bank b' = s.sensors.bank b') ∧ u.sensors.bankRWait = s.sensors.bankRWait ∧
      (∀ p ∈ b.ports, (u.port p).state = .probing ∧ (u.port p).arrival = (s.port p).arrival) ∧
      (∀ p, p ∉ b.ports → u.port p = s.port p) ∧ u.motors = s.motors ∧ u.store = s.store ∧ u.mixer = s.mixer ∧
      u.supply = s.supply ∧ u.router = s.router := by
  obtain ⟨⟨h1, h2, h3⟩, ⟨-, h5, -, -⟩, -, -⟩ := State.changePorts_rest Port.powerUp none b.ports
    (s.setBank b { s.sensors.bank b with state := .on, trips := n, overTime := 0, clean := 0 })
  obtain ⟨hr, hst⟩ := State.changePorts_powerUp b.ports
    (s.setBank b { s.sensors.bank b with state := .on, trips := n, overTime := 0, clean := 0 })
  have hport : ∀ p, (s.powerUpBank b n).port p = if p ∈ b.ports then (s.port p).powerUp else s.port p := fun p => by
    rw [State.powerUpBank, State.changePorts_port _ _ (BankId.ports_nodup b)]
    cases b <;> rfl
  have hbank : ∀ b', (s.powerUpBank b n).sensors.bank b' =
      if b' = b then { s.sensors.bank b with state := .on, trips := n, overTime := 0, clean := 0 }
      else s.sensors.bank b' := fun b' => s.changeBank_bank b b' _ _ _
  have hwait : (s.setBank b { s.sensors.bank b with state := .on, trips := n, overTime := 0, clean := 0 }).sensors.bankRWait =
      s.sensors.bankRWait := by cases b <;> rfl
  refine ⟨?_, fun b' hb => by rw [hbank, if_neg hb], h5.trans hwait, fun p hp => ?_, fun p hp => by rw [hport, if_neg hp],
    h1, hst, h2, h3, hr⟩
  · rw [hbank, if_pos rfl]; exact ⟨rfl, rfl, rfl⟩
  · rw [hport, if_pos hp]; exact ⟨rfl, rfl⟩

/-! ### POWER_ON, WAKE, and their timers (R66, R166, R167, R176) -/

/-- Settles O18. -/
theorem powerOnWakeAndTheirTimers : Obligations.PowerOnWakeAndTheirTimers := by
  unfold Obligations.PowerOnWakeAndTheirTimers
  refine ⟨fun mv linked s => ⟨?on, fun h => ?wake, fun h => ?awake⟩,
    fun s => ⟨fun d hd he => ?ident, fun d hd he => ?early, fun n hn hw => ?power, fun n hn hw => ?waits⟩⟩
  case on => exact congrArg Host.Outcome.next (by simp only [State.powerOn, Supply.filled])
  case wake =>
    exact congrArg Host.Outcome.next ((if_neg (by simp [State.awake, h])).trans (by simp only [State.woken, Supply.filled]))
  case awake => exact congrArg Host.Outcome.next (if_pos (by simp [State.awake, h]))
  case ident => exact congrArg Host.Outcome.next (by simp only [State.identNoticeDue, hd, he, if_true]; rfl)
  case early => exact congrArg Host.Outcome.next (by simp only [State.identNoticeDue, hd, Nat.not_le.mpr he, if_false])
  case power =>
    have ht : s.bankRPowerUp =
        State.powerUpBank { s with sensors := { s.sensors with bankRWait := none } } .r s.sensors.bankR.trips := by
      simp only [State.bankRPowerUp, hn, hw, if_true]
    obtain ⟨⟨hon, -, -⟩, hother, hwait, hports, hrest, hm, hst, hx, hs, -⟩ :=
      State.powerUpBank_spec { s with sensors := { s.sensors with bankRWait := none } } .r s.sensors.bankR.trips
    refine ⟨_, congrArg Host.Outcome.next ht, hwait, hon, hother .l (by decide), fun p hp => (hports p hp).1,
      fun p hp => hrest p ?_, hm, hst, hx, hs⟩
    revert p
    decide
  case waits => exact congrArg Host.Outcome.next (by simp only [State.bankRPowerUp, hn, Nat.not_le.mpr hw, if_false])

end Sys2Proof.Machine
end

section
/-! Banks that trip and return, ports decided by their ID line, the records of a handshake, and what ends a port's work
(R63 to R78, R94, R95). -/

namespace Sys2Proof.Machine

theorem State.awake_of {s : State} (h : s.supply.power ≠ .sleep) : s.awake = true := by simp [State.awake, h]

/-- A clocked event of a part that is awake. -/
theorem next_whenAwake {s t : State} {f : State → State} (h : s.supply.power ≠ .sleep) (ht : f s = t) :
    Host.Outcome.next (s.whenAwake f) = (Host.Outcome.next t : Done) :=
  congrArg Host.Outcome.next ((State.whenAwake_of (State.awake_of h) f).trans ht)

theorem whenAwake_self {s : State} {f : State → State} (h : f s = s) : s.whenAwake f = s := by
  unfold State.whenAwake
  split
  · exact h
  · rfl

/-! ### Banks (R63 to R67) -/

theorem mem_ports_bankOf {p : SensorPort} {b : BankId} (h : p ∈ b.ports) : bankOf p = b := by
  revert h; cases b <;> cases p <;> decide

/-- A bank that trips (R63, R67, R78, R94). -/
theorem State.tripBank_spec (s : State) (b : BankId) :
    let t := s.tripBank b
    (t.sensors.bank b = (s.sensors.bank b).trip) ∧ (∀ b', b' ≠ b → t.sensors.bank b' = s.sensors.bank b') ∧
      (∀ p, t.port p = if p ∈ b.ports then (s.port p).unpower else s.port p) ∧
      (∀ c ∈ t.sensors.captures, c.port ∉ b.ports) ∧
      t.sensors.streams = s.sensors.streams ∧ t.motors = s.motors ∧ t.mixer = s.mixer ∧ t.supply = s.supply ∧
      t.store.mem = s.store.mem ∧
      t.router = s.router.placeAll (b.ports.flatMap (fun p =>
        { link := .primary, notice := .portEvent p .unpowered none none (some ((s.sensors.bank b).trip.state, (s.sensors.bank b).trip.trips)) s.now } ::
          s.captureEnds p .unpowered)) := by
  intro t
  obtain ⟨⟨h1, h2, h3⟩, ⟨h4, -, -, -⟩, h5, h6⟩ :=
    State.changePorts_rest Port.unpower (some .unpowered) b.ports (s.setBank b (s.sensors.bank b).trip)
  have hbank : ∀ b', t.sensors.bank b' = if b' = b then (s.sensors.bank b).trip else s.sensors.bank b' := fun b' =>
    s.changeBank_bank b b' _ _ _
  have hstreams : (s.setBank b (s.sensors.bank b).trip).sensors.streams = s.sensors.streams := by cases b <;> rfl
  have hport : ∀ p, (s.setBank b (s.sensors.bank b).trip).port p = s.port p := fun p => by cases b <;> rfl
  have hends : ∀ p, (s.setBank b (s.sensors.bank b).trip).captureEnds p .unpowered = s.captureEnds p .unpowered := fun p => by
    cases b <;> rfl
  have hnow : (s.setBank b (s.sensors.bank b).trip).now = s.now := by cases b <;> rfl
  refine ⟨by rw [hbank, if_pos rfl], fun b' hb => by rw [hbank, if_neg hb], fun p => ?_, fun c hc => (h6 c hc).2 rfl,
    h4.trans hstreams, h1, h2, h3, h5, ?_⟩
  · show (State.changePorts _ _ _ _).port p = _
    rw [State.changePorts_port _ _ (BankId.ports_nodup b), hport]
  · show (State.changePorts _ _ _ _).router = _
    rw [State.changePorts_router _ _ (BankId.ports_nodup b)]
    refine congrArg (Router.placeAll s.router) (List.flatMap_congr fun p hp => ?_)
    have hkp : (s.sensors.setBank b (s.sensors.bank b).trip).bank (bankOf p) = (s.sensors.bank b).trip := by
      rw [mem_ports_bankOf hp]; exact Sensors.setBank_same _ _ _
    have hun : (s.port p).unpower.state = .unpowered := rfl
    simp [State.portSent, State.portNotice_setPort, hkp, hends, hnow, hport, hun, reportedState]

theorem State.measureBank_on {s : State} {b : BankId} {mA : Nat} (h : (s.sensors.bank b).state = .on) :
    s.measureBank b mA =
      if 5 ≤ overTimeAfter (s.sensors.bank b) mA then s.tripBank b
      else s.setBank b { s.sensors.bank b with overTime := overTimeAfter (s.sensors.bank b) mA } := if_pos h

theorem enumFieldAs_eq {α : Type} {c : Check} {k n : Nat} {f : Nat → Option α} {fs : Fields} (h : natField k fs = .val n) :
    enumFieldAs c k f fs = (match f n with | none => .bad c | some b => .val b) := by
  rw [enumFieldAs, h]; rfl

theorem enumFieldAs_val {α : Type} {c : Check} {k n : Nat} {f : Nat → Option α} {fs : Fields} {a : α}
    (h : natField k fs = .val n) (hf : f n = some a) : enumFieldAs c k f fs = .val a := by
  rw [enumFieldAs_eq h, hf]

theorem enumFieldAs_bad {α : Type} {c : Check} {k n : Nat} {f : Nat → Option α} {fs : Fields}
    (h : natField k fs = .val n) (hf : f n = none) : enumFieldAs c k f fs = .bad c := by
  rw [enumFieldAs_eq h, hf]

theorem bankOfCode_bankIdCode (b : BankId) : bankOfCode (bankIdCode b) = some b := by cases b <;> rfl

theorem bankOfCode_none {n : Nat} (h : 1 < n) : bankOfCode n = none := by
  match n, h with
  | n + 2, _ => rfl

/-- A BANK_RESTORE of the host. -/
theorem handleBankRestore_primary {r : Req} {s : State} {fs : Fields} (hl : r.link = .primary)
    (hf : decodeFields r.payload = some fs) : handleBankRestore r s = answered (s.bankRestore fs) := by
  simp only [handleBankRestore, hl, onFields_some _ _ hf]

theorem State.entered_bank (s : State) (c : Byte) (r : Req) (b : BankId) :
    (s.entered c r).sensors.bank b = s.sensors.bank b := by rw [State.entered_sensors]

/-- A reply joins its queue behind those there. -/
theorem State.replied_router_replies {s t : State} {c : Byte} {r : Req} (y : Reply) (hask : r.cls = .ask)
    (hr : (t.router.link r.link).replies = (s.router.link r.link).replies) :
    ((t.replied c r y).router.link r.link).replies =
      (s.router.link r.link).replies ++ [replyFrame c r.tag y.payload] := by
  rw [State.replied_replies _ _ _ _ hask, hr]

theorem State.replied_congr {s t : State} (h : t.router = s.router) (c : Byte) (r : Req) (y : Reply) :
    (t.replied c r y).router = (s.replied c r y).router := by
  unfold State.replied
  split
  · simp only [State.answer, h]
  · exact h

theorem State.replied_port (s : State) (c : Byte) (r : Req) (y : Reply) (p : SensorPort) :
    (s.replied c r y).port p = s.port p := by
  simp [State.port]

/-- Settles O35. -/
theorem bankTripsAndReturns : Obligations.BankTripsAndReturns := by
  unfold Obligations.BankTripsAndReturns
  refine ⟨fun b mA s hs => ?events, fun r fs s ha => ⟨fun hl => ?denied, fun hl hf => ⟨fun n hn h1 => ?bad,
    fun b hb hk => ?answers, fun b hb hk => ?restores⟩⟩⟩
  case events =>
    intro k t
    obtain ⟨hb, hother, hports, hcap, hstreams, hm, hx, hsup, hmem, hr⟩ := s.tripBank_spec b
    refine ⟨fun hk => ⟨?_, ?_⟩, fun hk hmA => ?_, fun hk hmA ho => ?_, fun hk hmA ho => ?_, fun hk ho => ?_,
      ⟨?_, ?_, ?_, ?_, hother, fun p hp => ?_, fun p hp => ?_, hcap, hstreams, hm, hx, hsup, hmem, hr⟩,
      fun hk hw => ?_, fun hk hw => ?_, fun hk hc => ?_, fun h => ?_⟩
    · exact next_whenAwake hs (if_neg hk)
    · exact next_whenAwake hs (if_neg (fun h => hk h.1))
    · refine next_whenAwake hs ((State.measureBank_on hk).trans ?_)
      have h0 : overTimeAfter k mA = 0 := if_neg (Nat.not_lt.mpr hmA)
      rw [h0, if_neg (by decide)]
    · refine next_whenAwake hs ((State.measureBank_on hk).trans ?_)
      have h1 : overTimeAfter k mA = k.overTime + 1 := if_pos hmA
      rw [h1, if_neg (by omega)]
    · refine next_whenAwake hs ((State.measureBank_on hk).trans (if_pos ?_))
      have h1 : overTimeAfter k mA = k.overTime + 1 := if_pos hmA
      rw [h1]
      omega
    · exact next_whenAwake hs (if_pos ⟨hk, Nat.succ_le_succ ho⟩)
    · rw [hb]; rfl
    · rw [hb]; rfl
    · rw [hb]; rfl
    · rw [hb]; rfl
    · rw [hports, if_pos hp]; exact ⟨rfl, rfl, rfl, rfl⟩
    · rw [hports, if_neg hp]
    · exact next_whenAwake hs (if_neg (fun h => Nat.not_le.mpr hw h.2))
    · obtain ⟨⟨u1, u2, u3⟩, -, -, u4, u5, u6, u7, u8, u9, u10⟩ := s.powerUpBank_spec b k.trips
      exact ⟨_, next_whenAwake hs (if_pos ⟨hk, hw⟩), u1, u2, u3, u4, u5, u6, u7, u8, u9, u10⟩
    · exact next_whenAwake hs (if_pos ⟨hk, hc⟩)
    · exact next_whenAwake hs (if_neg (fun hc => h.elim (fun hn => hn hc.1) (fun hl => Nat.not_le.mpr hl hc.2)))
  case denied =>
    exact congrArg Host.Outcome.next (takeRequest_answered ha (by simp only [handleBankRestore, hl]; rfl))
  case bad =>
    refine congrArg Host.Outcome.next (takeRequest_answered ha ((handleBankRestore_primary hl hf).trans ?_))
    simp only [State.bankRestore, enumFieldAs_bad hn (bankOfCode_none h1), Val.need]
  case answers =>
    refine congrArg Host.Outcome.next (takeRequest_answered ha ((handleBankRestore_primary hl hf).trans ?_))
    simp only [State.bankRestore, enumFieldAs_val hb (bankOfCode_bankIdCode b), State.entered_bank, hk, if_false]
  case restores =>
    obtain ⟨⟨u1, u2, u3⟩, -, -, u4, u5, u6, u7, u8, u9, u10⟩ := (s.entered 0x27 r).powerUpBank_spec b 0
    have hk' : ((s.entered 0x27 r).sensors.bank b).state = .locked := (congrArg _ (s.entered_bank 0x27 r b)).trans hk
    have ht : exec (.bankRestore r) s = .next (((s.entered 0x27 r).powerUpBank b 0).replied 0x27 r
        (.plain .ok (fieldNat 1 1 0 ++ fieldNat 2 1 0))) := by
      refine congrArg Host.Outcome.next (takeRequest_answered ha ((handleBankRestore_primary hl hf).trans ?_))
      simp only [State.bankRestore, enumFieldAs_val hb (bankOfCode_bankIdCode b), hk', if_true, u1, u2]
      rfl
    refine ⟨_, ht, ?_, ?_, ?_, fun p hp => ?_, fun p hp => ?_, ?_, ?_, ?_, ?_, State.replied_congr u10 _ _ _,
      fun hask => ?_⟩
    · rw [State.replied_sensors]; exact u1
    · rw [State.replied_sensors]; exact u2
    · rw [State.replied_sensors]; exact u3
    · rw [State.replied_port]; exact (u4 p hp).1
    · rw [State.replied_port, u5 p hp, State.entered_port]
    · rw [State.replied_motors, u6, State.entered_motors]
    · rw [State.replied_store, u7, State.entered_store]
    · rw [State.replied_mixer, u8, State.entered_mixer]
    · rw [State.replied_supply, u9, State.entered_supply]
    · have hq := State.replied_router_replies (s := s) (t := (s.entered 0x27 r).powerUpBank b 0) (c := 0x27)
        (.plain .ok (fieldNat 1 1 0 ++ fieldNat 2 1 0)) hask (by rw [u10, State.entered_replies])
      rw [hl] at hq
      exact hq

end Sys2Proof.Machine
end

section
/-! A port decided by its ID line, described by its handshake, silent, in ERROR, or set to another mode (R68 to R78, R94,
R95). -/

namespace Sys2Proof.Machine

/-! ### The notices of a change -/

/-- The PORT_EVENT of a decision (R78). -/
def decidedNotices (p : SensorPort) (c : IdClass) (now : Word32) : List Sent :=
  match c with
  | .openLine => [{ link := .primary, notice := .portEvent p .empty none none none now }]
  | .short => [{ link := .primary, notice := .portEvent p .error (some .short) none none now }]
  | .band1 => [{ link := .primary, notice := .portEvent p .ready none (some (251, 1, 0)) none now }]
  | .band2 => [{ link := .primary, notice := .portEvent p .ready none (some (252, 1, 0)) none now }]
  | .band3 => [{ link := .primary, notice := .portEvent p .ready none (some (253, 1, 0)) none now }]
  | .band4 => [{ link := .primary, notice := .portEvent p .ready none (some (254, 1, 0)) none now }]
  | .serial => []

/-- The CAPTURE_END of a change that ends the capture on its port. -/
def State.endingSent (s : State) (p : SensorPort) (o : Option CaptureOutcome) : List Sent :=
  match o with
  | none => []
  | some x => s.captureEnds p x

theorem State.portSent_unreported (s : State) (p : SensorPort) {q : Port} (o : Option CaptureOutcome)
    (h : reportedState q.state = false) : s.portSent p q o = s.endingSent p o := by
  simp only [State.portSent, h, Bool.false_eq_true, if_false, List.nil_append]
  rfl

theorem State.portSent_reported (s : State) (p : SensorPort) {q : Port} (o : Option CaptureOutcome)
    (h : reportedState q.state = true) :
    s.portSent p q o = { link := .primary, notice := (s.setPort p q).portNotice p } :: s.endingSent p o := by
  simp only [State.portSent, h, if_true]
  rfl

theorem State.portSent_decided (s : State) (p : SensorPort) (q : Port) (c : IdClass) (o : Option CaptureOutcome) :
    s.portSent p (q.decidedBy c) o = decidedNotices p c s.now ++ s.endingSent p o := by
  cases c
  case serial => exact State.portSent_unreported _ _ _ rfl
  all_goals
    rw [State.portSent_reported _ _ _ rfl, State.portNotice_setPort]
    rfl

/-- ERROR tells its reason (R75, R78). -/
theorem State.portSent_error (s : State) (p : SensorPort) (q : Port) (x : ErrorReason) (o : Option CaptureOutcome) :
    s.portSent p (q.enterError x) o =
      { link := .primary, notice := .portEvent p .error (some x) none none s.now } :: s.endingSent p o := by
  rw [State.portSent_reported _ _ _ rfl, State.portNotice_setPort]
  rfl

/-! ### The ID line (R68, R69) -/

theorem State.measureId_probing {s : State} {p : SensorPort} (c : IdClass) (h : (s.port p).state = .probing) :
    s.measureId p c =
      if (s.port p).candidate = some c then s.changePort p ((s.port p).decidedBy c) none
      else s.setPort p { s.port p with candidate := some c } := by
  simp only [State.measureId, h]

theorem State.measureId_attached {s : State} {p : SensorPort} (c : IdClass)
    (h : (s.port p).state = .handshake ∨ (s.port p).state = .ready ∨ (s.port p).state = .switching) :
    s.measureId p c =
      if (s.port p).cls = some c then s.setPort p { s.port p with departing := none }
      else if (s.port p).departing = some c then s.changePort p ((s.port p).decidedBy c) (some .detached)
      else s.setPort p { s.port p with departing := some c } := by
  rcases h with h | h | h <;> simp only [State.measureId, h]

/-- R68: an unpowered port and one in ERROR read no line, and an empty one answers no open line. -/
theorem State.measureId_unread {s : State} {p : SensorPort} {c : IdClass}
    (h : (s.port p).state = .unpowered ∨ (s.port p).state = .error ∨ (s.port p).state = .empty ∧ c = .openLine) :
    s.measureId p c = s := by
  rcases h with h | h | ⟨h, hc⟩
  · simp only [State.measureId, h]
  · simp only [State.measureId, h]
  · simp only [State.measureId, h, hc, if_true]

/-- Settles O36. -/
theorem portIdIsDecidedByTwoReadings : Obligations.PortIdIsDecidedByTwoReadings := by
  unfold Obligations.PortIdIsDecidedByTwoReadings
  intro p c s hs q told
  have htold : told = decidedNotices p c s.now := by cases c <;> rfl
  refine ⟨fun h => ?unread, fun he hc => ?arrives, fun hp hc => ?first, fun hp hc => ?decided,
    fun h => ⟨fun hk => ?stays, fun hk hd => ?leaves, fun hk hd => ?gone⟩,
    rfl, rfl, rfl, rfl, rfl, rfl, rfl, rfl, rfl, rfl, rfl, rfl, rfl⟩
  case unread =>
    refine next_whenAwake hs (State.measureId_unread ?_)
    rcases h with h | h | ⟨h, rfl⟩
    · exact .inl h
    · exact .inr (.inl h)
    · exact .inr (.inr ⟨h, rfl⟩)
  case arrives =>
    have ht : s.measureId p c = s.changePort p { q with state := .probing, candidate := some c } none := by
      have he' : (s.port p).state = .empty := he
      simp only [State.measureId, he', hc, if_false]
      rfl
    refine ⟨_, next_whenAwake hs ht, by simp, fun p' hp' => by simp [hp'], ?_⟩
    rw [State.changePort_router, State.portSent_unreported _ _ _ rfl]
    rfl
  case first => exact next_whenAwake hs ((State.measureId_probing c hp).trans (if_neg hc))
  case decided =>
    obtain ⟨h1, h2, h3, -⟩ := s.changePort_rest p (q.decidedBy c) none
    obtain ⟨h4, h5⟩ := s.changePort_none p (q.decidedBy c)
    refine ⟨_, next_whenAwake hs ((State.measureId_probing c hp).trans (if_pos hc)), by simp [q],
      fun p' hp' => by simp [hp'], h1, h2, h4, h3, h5, ?_⟩
    rw [State.changePort_router, State.portSent_decided, htold]
    exact congrArg _ (List.append_nil _)
  case stays => exact next_whenAwake hs ((State.measureId_attached c h).trans (if_pos hk))
  case leaves => exact next_whenAwake hs ((State.measureId_attached c h).trans ((if_neg hk).trans (if_neg hd)))
  case gone =>
    obtain ⟨-, -, -, -, -, -, hx⟩ := s.changePort_rest p (q.decidedBy c) (some .detached)
    refine ⟨_, next_whenAwake hs ((State.measureId_attached c h).trans ((if_neg hk).trans (if_pos hd))), by simp [q],
      fun p' hp' => by simp [hp'], fun x h => (hx x h).2 rfl, ?_⟩
    rw [State.changePort_router, State.portSent_decided, htold]
    rfl

/-! ### The handshake (R71 to R73) -/

theorem Port.handshake_of {q : Port} {h : Handshake} (hs : q.state = .handshake) (hq : q.hs = some h) :
    q.handshake = some h := by simp [Port.handshake, hs, hq]

theorem describeOk_iff {kind count speed : Nat} :
    describeOk kind count speed = true ↔
      1 ≤ kind ∧ kind ≤ 250 ∧ 1 ≤ count ∧ count ≤ 8 ∧ (speed = 57600 ∨ speed = 115200) := by
  simp [describeOk, and_assoc]

theorem modeOk_iff (d : PendingDesc) (m : ModeDesc) :
    modeOk d m = true ↔
      d.modes.length < d.count ∧ m.number = d.modes.length ∧ 1 ≤ m.valueCount ∧ m.valueCount ≤ 4 ∧
      10 ≤ m.interval ∧ m.interval ≤ 1000 ∧ m.min ≤ m.max ∧
      (match m.format with
        | .int8 => -128 ≤ m.min ∧ m.max ≤ 127
        | .int16 => -32768 ≤ m.min ∧ m.max ≤ 32767
        | .int32 => -2147483648 ≤ m.min ∧ m.max ≤ 2147483647) := by
  cases hf : m.format <;> simp [modeOk, formatRange, hf, and_assoc]

/-- R72: a failed attempt that is not the third begins again. -/
theorem State.failAttempt_again {s : State} {p : SensorPort} {h : Handshake} (ha : h.attempts < 2) :
    s.failAttempt p h = s.setPort p { s.port p with
      hs := some { stage := .describe, pending := none, attempts := h.attempts + 1, wait := 0 } } :=
  if_pos (by omega)

/-- R72: the third takes the port to ERROR. -/
theorem State.failAttempt_third {s : State} {p : SensorPort} {h : Handshake} (ha : 2 ≤ h.attempts) :
    s.failAttempt p h = s.changePort p ((s.port p).enterError .noHandshake) (some .portError) :=
  if_neg (by omega)

/-- Settles O38. -/
theorem handshakeRecords : Obligations.HandshakeRecords := by
  unfold Obligations.HandshakeRecords
  intro p h s hs q hq hh
  have hk : (s.port p).handshake = some h := Port.handshake_of hq hh
  refine ⟨fun kind count speed hst h1 h2 h3 h4 h5 => ?_, fun kind count speed hst hbad => ?_, fun d m hst hd hm => ?_,
    fun d m hst hd hm => ?_, fun d hst hd hl => ?_, fun d hst hd hl => ?_, fun d hst hd => ?_, modeOk_iff,
    fun hst => ?_, fun hst => ?_, fun hst hw => ?_, fun hor => ?_, State.failAttempt_again, fun ha => ?_⟩
  · refine next_whenAwake hs ?_
    simp only [State.describeRecord, hk, hst, describeOk_iff.mpr ⟨h1, h2, h3, h4, h5⟩, if_true]
    rfl
  · have hno : describeOk kind count speed = false := by
      rw [← Bool.not_eq_true, describeOk_iff]
      omega
    refine next_whenAwake hs ?_
    simp only [State.describeRecord, hk, hst, hno, Bool.false_eq_true, if_false]
  · refine next_whenAwake hs ?_
    simp only [State.modeRecord, hk, hst, hd, hm, if_true]
    rfl
  · refine next_whenAwake hs ?_
    simp only [State.modeRecord, hk, hst, hd, hm, Bool.false_eq_true, if_false]
  · refine next_whenAwake hs ?_
    simp only [State.endRecord, hk, hst, hd, hl, if_true]
    rfl
  · refine next_whenAwake hs ?_
    simp only [State.endRecord, hk, hst, hd, hl, if_false]
  · have ht : s.acceptSent p = s.changePort p (q.accepted d) none := by
      simp only [State.acceptSent, hk, hst, hd]
      rfl
    obtain ⟨h1, h2, h3, -⟩ := s.changePort_rest p (q.accepted d) none
    obtain ⟨h4, -⟩ := s.changePort_none p (q.accepted d)
    refine ⟨_, next_whenAwake hs ht, by simp [Port.accepted, Port.install], fun p' hp' => by simp [hp'], h1, h4, h2, h3, ?_⟩
    rw [State.changePort_router, State.portSent_reported _ _ _ rfl, State.portNotice_setPort]
    rfl
  · refine next_whenAwake hs ?_
    simp only [State.otherRecord, hk, hst, if_true]
  · refine next_whenAwake hs ?_
    simp [State.otherRecord, hk, hst]
  · exact next_whenAwake hs (by simp only [State.handshakeTimeout, hk]; exact if_pos ⟨hst, hw⟩)
  · have hno : ¬(h.stage ≠ .accepting ∧ 100 ≤ h.wait) := fun hc => hor.elim hc.1 fun hl => Nat.not_le.mpr hl hc.2
    refine next_whenAwake hs ?_
    simp only [State.handshakeTimeout, hk]
    exact if_neg hno
  · rw [State.failAttempt_third ha]
    refine ⟨by simp [Port.enterError], by simp [Port.enterError], by simp [Port.enterError], ?_, fun p' hp' => by simp [hp']⟩
    rw [State.changePort_router, State.portSent_error]
    rfl

/-! ### Silence, ERROR and SELECT_MODE (R74 to R76) -/

theorem Port.silent_iff {q : Port} {m : ModeDesc} (hq : q.state = .ready ∨ q.state = .switching) (hs : q.smart = true)
    (hm : q.modeDesc = some m) : q.silent = true ↔ max 300 (3 * m.interval) ≤ q.silence := by
  have hd : q.described = true := by rcases hq with h | h <;> simp [Port.described, h]
  simp [Port.silent, hd, hs, hm, silenceLimit]

theorem Port.described_iff {q : Port} : q.described = true ↔ q.state = .ready ∨ q.state = .switching := by
  simp [Port.described]

theorem State.entered_captureEnds (s : State) (c : Byte) (r : Req) (p : SensorPort) (o : CaptureOutcome) :
    (s.entered c r).captureEnds p o = s.captureEnds p o := by
  unfold State.captureEnds
  rw [State.entered_sensors, State.entered_store, State.entered_now]

/-- Settles O39. -/
theorem silenceErrorAndSelectMode : Obligations.SilenceErrorAndSelectMode := by
  unfold Obligations.SilenceErrorAndSelectMode
  intro p s hs q
  refine ⟨fun m hq hsm hm => ⟨fun hl => ?silent, fun hl => ?heard⟩, fun hq he => ?reprobed, fun he => ?waits,
    fun r fs n ha hf hp hn => ⟨fun h1 h2 => ?noDevice, fun d hq hd hno => ?noMode, fun d m hq hd hm hnum => ?selected⟩⟩
  case silent =>
    obtain ⟨-, -, -, -, -, -, hx⟩ := s.changePort_rest p (q.enterError .silent) (some .portError)
    refine ⟨_, next_whenAwake hs (if_pos ((Port.silent_iff hq hsm hm).mpr hl)), by simp [Port.enterError],
      by simp [Port.enterError], by simp [Port.enterError], fun p' hp' => by simp [hp'], fun x h => (hx x h).2 rfl, ?_⟩
    rw [State.changePort_router, State.portSent_error]
    rfl
  case heard =>
    exact next_whenAwake hs (if_neg (fun h => Nat.not_le.mpr hl ((Port.silent_iff hq hsm hm).mp h)))
  case reprobed =>
    obtain ⟨h1, -⟩ := s.changePort_rest p q.reprobe none
    obtain ⟨h2, h3⟩ := s.changePort_none p q.reprobe
    refine ⟨_, next_whenAwake hs (if_pos ⟨hq, he⟩), by simp [Port.reprobe, q], fun p' hp' => by simp [hp'], h2, h1, h3, ?_⟩
    rw [State.changePort_router, State.portSent_unreported _ _ _ rfl]
    rfl
  case waits => exact next_whenAwake hs (if_neg (fun h => Nat.not_le.mpr he h.2))
  case noDevice =>
    have hdesc : (s.port p).described = false := by
      rw [← Bool.not_eq_true, Port.described_iff]
      exact fun h => h.elim h1 h2
    refine congrArg Host.Outcome.next (takeRequest_onFields ha hf ?_)
    simp only [State.selectMode, hp, hn, State.entered_port, hdesc, Bool.not_false, if_true]
  case noMode =>
    have hdesc : (s.port p).described = true := Port.described_iff.mpr hq
    have hfind : ((s.port p).desc.bind (fun d => d.find n)).isNone = true := by
      have hd' : (s.port p).desc = some d := hd
      simpa [hd', Descriptor.find] using hno
    refine congrArg Host.Outcome.next (takeRequest_onFields ha hf ?_)
    simp only [State.selectMode, hp, hn, State.entered_port, hdesc, hfind, Bool.not_true, Bool.false_eq_true, if_false,
      if_true]
  case selected =>
    have hdesc : (s.port p).described = true := Port.described_iff.mpr hq
    have hfind : ((s.port p).desc.bind (fun d => d.find n)).isNone = false := by
      have hd' : (s.port p).desc = some d := hd
      simp only [hd', Option.bind_some, Descriptor.find, Option.isNone_eq_false_iff, List.find?_isSome]
      exact ⟨m, hm, by simp [hnum]⟩
    have ht : exec (.selectMode r) s =
        .next (((s.entered 0x21 r).changePort p (q.select n) (some .modeChanged)).replied 0x21 r Reply.ok) := by
      refine congrArg Host.Outcome.next (takeRequest_onFields ha hf ?_)
      simp only [State.selectMode, hp, hn, State.entered_port, hdesc, hfind, Bool.not_true, Bool.false_eq_true, if_false]
      rfl
    obtain ⟨h1, h2, h3, -, -, -, hx⟩ := (s.entered 0x21 r).changePort_rest p (q.select n) (some .modeChanged)
    have hport : ∀ p', (((s.entered 0x21 r).changePort p (q.select n) (some .modeChanged)).replied 0x21 r Reply.ok).port p' =
        if p' = p then q.select n else s.port p' := fun p' => by
      rw [State.replied_port, State.changePort_port, State.entered_port]
    refine ⟨_, ht, ?_⟩
    simp only [hport, if_true]
    refine ⟨rfl, rfl, rfl, rfl, rfl, rfl, fun hsm => ?_, fun p' hp' => by simp [hp'], fun x h => ?_, ?_, ?_, ?_, ?_⟩
    · simp [Port.select, hsm]
    · rw [State.replied_sensors] at h
      exact (hx x h).2 rfl
    · rw [State.replied_motors, h1, State.entered_motors]
    · rw [State.replied_mixer, h2, State.entered_mixer]
    · rw [State.replied_supply, h3, State.entered_supply]
    · refine State.replied_congr ?_ _ _ _
      rw [State.changePort_router, State.portSent_unreported _ _ _ rfl, State.endingSent, State.entered_captureEnds]
      rfl

end Sys2Proof.Machine
end

section
/-! Streams: which one STREAM_OPEN takes, what it records, when an expiry reports and which marks it moves (R85 to
R89). -/

namespace Sys2Proof.Machine

/-! ### The fields of STREAM_OPEN (R85) -/

/-- The lowest number a test accepts is the one found. -/
theorem Num8.find_lowest {f : Num8 → Bool} {i : Num8} (hi : f i = true) (low : ∀ j, j.num < i.num → f j = false) :
    Num8.all.find? f = some i := by
  have hlow (j : Num8) (h : (decide (j.num < i.num)) = true) : f j = false := low j (of_decide_eq_true h)
  cases i <;> simp [Num8.all, hi, hlow, Num8.num]

theorem Sensors.freeStream_lowest {x : Sensors} {i : StreamId} (hi : x.streams.get i = none)
    (low : ∀ j, j.num < i.num → x.streams.get j ≠ none) : x.freeStream = some i :=
  Num8.find_lowest (by simp [hi]) fun j hj => by simpa [Option.isSome_iff_ne_none] using low j hj

theorem Sensors.freeStream_none {x : Sensors} (h : ∀ j, x.streams.get j ≠ none) : x.freeStream = none := by
  rw [Sensors.freeStream, List.find?_eq_none]
  intro j _
  simpa using h j

@[simp] theorem Num8.ofNum_num (i : Num8) : Num8.ofNum i.num = some i := by cases i <;> rfl

theorem Num8.num_of_ofNum {n : Nat} {i : Num8} (h : Num8.ofNum n = some i) : i.num = n := by
  unfold Num8.ofNum at h
  split at h <;> simp_all <;> subst h <;> rfl

theorem Num8.ofNum_of_range {n : Nat} (h : 1 ≤ n ∧ n ≤ 8) : ∃ i, Num8.ofNum n = some i ∧ i.num = n := by
  obtain ⟨h1, h8⟩ := h
  interval_cases n <;> exact ⟨_, rfl, rfl⟩

theorem Num8.num_inj {i j : Num8} (h : i.num = j.num) : i = j :=
  Option.some.inj (by rw [← Num8.ofNum_num i, h, Num8.ofNum_num])

/-- Bytes from 1 to 8 name sensor ports. -/
theorem sensorPorts_of_range {w : List Byte} (h : ∀ y ∈ w, 1 ≤ y.toNat ∧ y.toNat ≤ 8) :
    ∃ ps, sensorPorts w = some ps ∧ ps.length = w.length ∧
      ∀ p, ps.contains p = w.any (fun y => y.toNat == p.num) := by
  induction w with
  | nil => exact ⟨[], rfl, rfl, fun _ => rfl⟩
  | cons y w ih =>
    obtain ⟨ps, hps, hlen, hmem⟩ := ih fun z hz => h z (List.mem_cons_of_mem _ hz)
    obtain ⟨i, hi, hnum⟩ := Num8.ofNum_of_range (h y List.mem_cons_self)
    refine ⟨i :: ps, by simp [sensorPorts, hi, hps], by simp [hlen], fun p => ?_⟩
    have head : (p == i) = (y.toNat == p.num) := by
      rw [Bool.eq_iff_iff, beq_iff_eq, beq_iff_eq, ← hnum]
      exact ⟨fun e => by rw [e], fun e => (Num8.num_inj e).symm⟩
    simp only [List.contains_cons, List.any_cons, head, hmem]

theorem streamPorts_of {fs : Fields} {w : List Byte} (hw : fieldValue 1 fs = some w) (hne : w ≠ [])
    (h : ∀ y ∈ w, 1 ≤ y.toNat ∧ y.toNat ≤ 8) :
    streamPorts fs = .val (Num8.all.filter (fun p => w.any (fun y => y.toNat == p.num))) := by
  obtain ⟨ps, hps, hlen, hmem⟩ := sensorPorts_of_range h
  have hps' : ps ≠ [] := fun e => hne (List.length_eq_zero_iff.mp (by rw [← hlen, e]; rfl))
  simp only [streamPorts, hw, hps, hps', if_false, hmem]

theorem intervalField_of {fs : Fields} {n : Nat} (hn : natField 2 fs = .val n) (h : n ≤ 10000) :
    intervalField fs = .val n := by simp [intervalField, hn, h]

theorem burstField_of {fs : Fields} {b : Nat} (hb : natField 3 fs = .val b) (h : 1 ≤ b ∧ b ≤ 16) :
    burstField fs = .val b := by simp [burstField, hb, h]

/-- R85: without a destination the samples go to the requester. -/
theorem destinationField_absent {up : Bool} {fs : Fields} (h : fieldValue 4 fs = none) :
    destinationField up fs = .absent := by
  rw [destinationField, enumFieldAs_absent h]
  rfl

theorem linkOfCode_linkCode (l : Link) : linkOfCode (linkCode l) = some l := by cases l <;> rfl

theorem destinationField_of {up : Bool} {fs : Fields} {d : Link} (hd : natField 4 fs = .val (linkCode d))
    (h : d = .primary ∨ up = true) : destinationField up fs = .val d := by
  have hok : ¬(d = .remote ∧ up = false) := by
    rintro ⟨rfl, hup⟩
    simp [hup] at h
  rw [destinationField, enumFieldAs_val hd (linkOfCode_linkCode d), Val.check_val, if_neg hok]

theorem destinationField_down {fs : Fields} (hd : natField 4 fs = .val (linkCode .remote)) :
    destinationField false fs = .bad .destination := by
  rw [destinationField, enumFieldAs_val hd (linkOfCode_linkCode .remote), Val.check_val, if_pos ⟨rfl, rfl⟩]

/-! ### The marks a report moves (R89) -/

theorem State.reportSections_length (s : State) (x : Stream) : (s.reportSections x).length = x.marks.length :=
  sections_length _ _ _ _

theorem State.movedMarks_length (s : State) (x : Stream) : (s.movedMarks x).length = x.marks.length := by
  simp [State.movedMarks, State.reportSections_length]

theorem State.movedMarks_get {s : State} {x : Stream} {n : Nat} {p : SensorPort} {mark : Word32} {z : Section}
    (hm : x.marks[n]? = some (p, mark)) (hz : (s.reportSections x)[n]? = some z) :
    (s.movedMarks x)[n]? = some (if z.carried then (p, (s.port p).newestMark mark) else (p, mark)) := by
  have hzip : (x.marks.zip (s.reportSections x))[n]? = some ((p, mark), z) :=
    List.getElem?_zip_eq_some.mpr ⟨hm, hz⟩
  rw [State.movedMarks, List.getElem?_map, hzip]
  rfl

theorem Port.newestMark_last {q : Port} {mark : Word32} {older : List Sample} {newest : Sample}
    (h : q.newSamples mark = older ++ [newest]) : q.newestMark mark = newest.arrival := by
  simp [Port.newestMark, h]

/-- R87: a section carries samples only of a port with a new one. -/
theorem portSection_carried {p : SensorPort} {q : Port} {mark : Word32} {burst room : Nat}
    (h : (portSection p q mark burst room).carried = true) : q.newSamples mark ≠ [] := by
  intro e
  unfold portSection at h
  split at h
  · simp [e] at h
  · simp [plainSection] at h

/-! ### STREAM_OPEN, STREAM_CLOSE and STREAM_EXPIRY -/

theorem State.streamOpen_full {l : Link} {fs : Fields} {s : State} (h : ∀ j, s.sensors.streams.get j ≠ none) :
    s.streamOpen l fs = (s, Reply.refuse .full) := by
  simp only [State.streamOpen, Sensors.freeStream_none h]

/-- The stream that an accepted STREAM_OPEN records (R85). -/
def State.openedStream (s : State) (l d : Link) (n b : Nat) (ps : List SensorPort) : Stream :=
  { opener := l, dest := d, interval := max 10 n, burst := b, next := s.now + BitVec.ofNat 32 (max 10 n),
    marks := ps.map (fun p => (p, (s.port p).arrival)) }

theorem State.streamOpen_opens {l d : Link} {fs : Fields} {s : State} {i : StreamId} {ps : List SensorPort} {n b : Nat}
    (hi : s.sensors.freeStream = some i) (hps : streamPorts fs = .val ps) (hn : intervalField fs = .val n)
    (hb : burstField fs = .val b) (hd : (destinationField s.router.up fs).fails = [])
    (hl : (destinationField s.router.up fs).get?.getD l = d) :
    s.streamOpen l fs =
      ({ s with sensors := s.sensors.setStream i (some (s.openedStream l d n b ps)) },
        if n < 10 then .clamped [2] (fieldNat 1 1 i.num ++ fieldNat 2 2 (max 10 n))
        else .plain .ok (fieldNat 1 1 i.num ++ fieldNat 2 2 (max 10 n))) := by
  simp only [State.streamOpen, hi, hps, hn, hb, hd, hl]
  rfl

theorem State.streamClose_of {l : Link} {fs : Fields} {s : State} {i : StreamId} (h : natField 1 fs = .val i.num) :
    s.streamClose l fs =
      (match s.sensors.streams.get i with
        | none => (s, .invalid [.id])
        | some r =>
          if l = .remote ∧ r.opener = .primary then (s, Reply.refuse .denied)
          else ({ s with sensors := s.sensors.setStream i none }, Reply.ok)) := by
  have hc : (natField 1 fs).check .id Num8.ofNum = .val i := by rw [h]; exact Val.check_val_some _ (Num8.ofNum_num i)
  simp only [State.streamClose, hc] <;> rfl

theorem State.streamExpiry_due {s : State} {i : StreamId} {x : Stream} (hx : s.sensors.streams.get i = some x)
    (hn : s.now = x.next) :
    s.streamExpiry i =
      if (s.router.link x.dest).notices.length < 16 then
        State.notify
          { s with sensors := s.sensors.setStream i (some
              { x with next := x.next + BitVec.ofNat 32 x.interval, marks := s.movedMarks x }) }
          x.dest (.report (s.reportLayout i x))
      else { s with sensors := s.sensors.setStream i (some { x with next := x.next + BitVec.ofNat 32 x.interval }) } := by
  simp only [State.streamExpiry, hx, if_pos hn, State.reportRoom, decide_eq_true_eq]

theorem State.streamExpiry_early {s : State} {i : StreamId} {x : Stream} (hx : s.sensors.streams.get i = some x)
    (hn : s.now ≠ x.next) : s.streamExpiry i = s := by
  simp only [State.streamExpiry, hx, if_neg hn]

/-- Settles O42. -/
theorem streamsOpenExpireAndClose : Obligations.StreamsOpenExpireAndClose := by
  unfold Obligations.StreamsOpenExpireAndClose
  intro r fs i s
  refine ⟨fun ha hf h => ?full, fun w n b d ha hf hi hlow hw hne hrange hn hnle hb hb1 hb16 hd =>
    ⟨fun hup => ?opens, fun h4 hrem hdown => ?down⟩, fun x ha hf hn hx => ⟨fun hl => ?closes, fun hl ho => ?denied⟩,
    fun ha hf hn hx => ?unknown, fun x hs hx hnow => ⟨fun hroom => ?reports, fun hroom => ?noRoom⟩,
    fun x hx hnow => ?early, fun x => ⟨s.movedMarks_length x, fun k p mark z hm hz => ?marks⟩⟩
  case full =>
    exact congrArg Host.Outcome.next (takeRequest_onFields ha hf (State.streamOpen_full (by rwa [State.entered_sensors])))
  case opens =>
    have hdest : (destinationField s.router.up fs).fails = [] ∧ (destinationField s.router.up fs).get?.getD r.link = d := by
      rcases hd with ⟨h4, rfl⟩ | h4
      · rw [destinationField_absent h4]; exact ⟨rfl, rfl⟩
      · have hok : d = .primary ∨ s.router.up = true :=
          hup.resolve_left fun h => by rw [natField_absent h] at h4; cases h4
        rw [destinationField_of h4 hok]; exact ⟨rfl, rfl⟩
    have hfree : (s.entered 0x23 r).sensors.freeStream = some i := by
      rw [State.entered_sensors]; exact Sensors.freeStream_lowest hi hlow
    have hmarks : (s.entered 0x23 r).openedStream r.link d n b (Num8.all.filter (fun p => w.any (fun y => y.toNat == p.num)))
        = s.openedStream r.link d n b (Num8.all.filter (fun p => w.any (fun y => y.toNat == p.num))) := by
      simp only [State.openedStream, State.entered_port, State.entered_now]
    refine congrArg Host.Outcome.next ((takeRequest_onFields ha hf (State.streamOpen_opens (d := d) hfree
      (streamPorts_of hw hne hrange) (intervalField_of hn hnle) (burstField_of hb ⟨hb1, hb16⟩)
      (by rw [State.entered_up]; exact hdest.1) (by rw [State.entered_up]; exact hdest.2))).trans ?_)
    rw [hmarks, State.entered_sensors]
    by_cases h10 : n < 10
    · simp only [if_pos h10, Nat.max_eq_left (Nat.le_of_lt h10), State.openedStream]
    · simp only [if_neg h10, Nat.max_eq_right (Nat.not_lt.mp h10), State.openedStream]
  case down =>
    subst hrem
    have h4' : natField 4 fs = .val (linkCode .remote) := hd.resolve_left fun h => h4 h.1
    have hfree : (s.entered 0x23 r).sensors.freeStream = some i := by
      rw [State.entered_sensors]; exact Sensors.freeStream_lowest hi hlow
    refine congrArg Host.Outcome.next (takeRequest_onFields ha hf ?_)
    simp only [State.streamOpen, hfree, State.entered_up, hdown, streamPorts_of hw hne hrange, intervalField_of hn hnle,
      burstField_of hb ⟨hb1, hb16⟩, destinationField_down h4']
    rfl
  case closes =>
    have hok : ¬(r.link = .remote ∧ x.opener = .primary) := by
      rintro ⟨h1, h2⟩
      simp [h1, h2] at hl
    refine congrArg Host.Outcome.next (takeRequest_onFields ha hf ?_)
    simp only [State.streamClose_of hn, State.entered_sensors, hx, if_neg hok]
  case denied =>
    refine congrArg Host.Outcome.next (takeRequest_onFields ha hf ?_)
    simp only [State.streamClose_of hn, State.entered_sensors, hx, if_pos (And.intro hl ho)]
  case unknown =>
    refine congrArg Host.Outcome.next (takeRequest_onFields ha hf ?_)
    simp only [State.streamClose_of hn, State.entered_sensors, hx]
  case reports => exact next_whenAwake hs ((State.streamExpiry_due hx hnow).trans (if_pos hroom))
  case noRoom => exact next_whenAwake hs ((State.streamExpiry_due hx hnow).trans (if_neg (Nat.not_lt.mpr hroom)))
  case early => exact congrArg Host.Outcome.next (whenAwake_self (State.streamExpiry_early hx hnow))
  case marks =>
    have hmoved := State.movedMarks_get hm hz
    refine ⟨fun hc => ?_, fun older newest hc hfresh => ?_, fun hc => ?_⟩
    · rw [hmoved, hc]; rfl
    · rw [hmoved, hc, Port.newestMark_last hfresh]; rfl
    · rw [sections_get hm hz] at hc
      exact portSection_carried hc

/-! ### The layout of a REPORT (R87, R88) -/

theorem portSection_ready {p : SensorPort} {q : Port} {m : ModeDesc} (mark : Word32) (burst room : Nat)
    (hq : q.state = .ready) (hm : q.modeDesc = some m) :
    let k := min (min (q.newSamples mark).length burst) (room / sampleSize m.format m.valueCount)
    portSection p q mark burst room =
      { bytes := [byte p.num, byte (portStateCode q.state), byte 255, byte q.mode,
                  byte (m.valueCount + 16 * formatCode m.format),
                  byte (k + (if k < q.newTotal mark then 128 else 0))] ++
          (newest k (q.newSamples mark)).flatMap (sampleBytes m.format),
        carried := decide (0 < k) } := by
  simp only [portSection, hq, hm]

theorem portSection_plain {p : SensorPort} {q : Port} (mark : Word32) (burst room : Nat) (hq : q.state ≠ .ready) :
    portSection p q mark burst room = plainSection p q := by
  unfold portSection
  split
  · contradiction
  · rfl

/-- R87: six bytes head every section. -/
theorem portSection_header (p : SensorPort) (q : Port) (mark : Word32) (burst room : Nat) :
    6 ≤ (portSection p q mark burst room).bytes.length := by
  unfold portSection
  split <;> simp [plainSection]

theorem leBytes_length (n v : Nat) : (leBytes n v).length = n := by
  induction n generalizing v with
  | zero => rfl
  | succ n ih => simp [leBytes, ih]

theorem valueBytes_length (f : ValueFormat) (v : Int) : (valueBytes f v).length = formatBytes f := by
  simp [valueBytes, leInt, leBytes_length]

theorem sampleBytes_length (f : ValueFormat) (x : Sample) : (sampleBytes f x).length = sampleSize f x.values.length := by
  have hv : ∀ v ∈ x.values, (valueBytes f v).length = formatBytes f := fun v _ => valueBytes_length f v
  simp [sampleBytes, timeBytes, leBytes_length, sampleSize, List.length_flatMap, List.map_congr_left hv]
  omega

/-- R88: a section takes no more than the room left for its samples. -/
theorem portSection_fits {p : SensorPort} {q : Port} (mark : Word32) (burst room : Nat)
    (hv : ∀ z ∈ q.ring, ∀ y, q.modeDesc = some y → z.values.length = y.valueCount) :
    (portSection p q mark burst room).bytes.length ≤ 6 + room := by
  unfold portSection
  split
  next m hq hm =>
    have hsize : ∀ z ∈ newest (min (min (q.newSamples mark).length burst) (room / sampleSize m.format m.valueCount))
        (q.newSamples mark), (sampleBytes m.format z).length = sampleSize m.format m.valueCount := by
      intro z hz
      have hring : z ∈ q.ring := List.mem_of_mem_filter (List.mem_reverse.mp (List.mem_of_mem_take hz))
      rw [sampleBytes_length, hv z hring m hm]
    have hdiv : room / sampleSize m.format m.valueCount * sampleSize m.format m.valueCount ≤ room := Nat.div_mul_le_self _ _
    have hk := Nat.mul_le_mul_right (sampleSize m.format m.valueCount)
      (Nat.min_le_right (min (q.newSamples mark).length burst) (room / sampleSize m.format m.valueCount))
    have htaken := Nat.mul_le_mul_right (sampleSize m.format m.valueCount)
      (List.length_take_le (min (min (q.newSamples mark).length burst) (room / sampleSize m.format m.valueCount))
        (q.newSamples mark).reverse)
    simp only [List.length_append, List.length_flatMap, List.map_congr_left hsize, List.map_const', List.sum_replicate,
      List.length_cons, List.length_nil, smul_eq_mul]
    change 6 + _ * _ ≤ _
    unfold newest
    omega
  next => simp [plainSection]

/-- R88: the sections together take their headers and no more than the room. -/
theorem sections_fit {ports : Eight Port} {burst : Nat} (ms : List (SensorPort × Word32)) (room : Nat)
    (hv : ∀ p, ∀ z ∈ (ports.get p).ring, ∀ y, (ports.get p).modeDesc = some y → z.values.length = y.valueCount) :
    ((sections ports burst ms room).flatMap (fun z => z.bytes)).length ≤ 6 * ms.length + room := by
  induction ms generalizing room with
  | nil => simp [sections]
  | cons x ms ih =>
    obtain ⟨p, mark⟩ := x
    have hfit := portSection_fits (p := p) mark burst room (hv p)
    have hhead := portSection_header p (ports.get p) mark burst room
    have hrest := ih (room - ((portSection p (ports.get p) mark burst room).bytes.length - 6))
    simp only [sections, List.flatMap_cons, List.length_append, List.length_cons]
    omega

theorem sections_header {ports : Eight Port} {burst : Nat} (ms : List (SensorPort × Word32)) (room : Nat) :
    ∀ z ∈ sections ports burst ms room, 6 ≤ z.bytes.length := by
  induction ms generalizing room with
  | nil => simp [sections]
  | cons x ms ih =>
    intro z hz
    rcases List.mem_cons.mp hz with rfl | hz
    · exact portSection_header _ _ _ _ _
    · exact ih _ z hz

/-- 11.7: the header of a REPORT, then its sections. -/
theorem State.reportLayout_eq (s : State) (i : StreamId) (x : Stream) :
    s.reportLayout i x = (byte i.num :: (leBytes 4 s.now.toNat ++ [byte x.marks.length])) ++
      (s.reportSections x).flatMap (fun z => z.bytes) := by
  simp [State.reportLayout, timeBytes]

theorem reportHeader_length (i : StreamId) (now : Word32) (n : Nat) :
    (byte i.num :: (leBytes 4 now.toNat ++ [byte n])).length = 6 := by
  simp [leBytes_length]

/-- R87: the section names the reason of an ERROR, and no other. -/
theorem plainSection_reason (k : PortState) (e : Option ErrorReason) :
    byte (((if k = .error then e else none).map reasonCode).getD 255) =
      (match k, e with | .error, some e => byte (reasonCode e) | _, _ => 255) := by
  cases k <;> cases e <;> rfl

/-- Settles O43. -/
theorem reportFitsItsFrame : Obligations.ReportFitsItsFrame := by
  unfold Obligations.ReportFitsItsFrame
  refine ⟨fun i x s hx hv => ⟨?fits, ?header, s.reportSections_length x, sections_header _ _⟩,
    fun i x s => ⟨?body, fun n p mark z hm hz => ⟨fun hq => ?notReady, fun m hq hmode => ?ready⟩⟩⟩
  case fits =>
    have hfit := sections_fit (burst := x.burst) x.marks (234 - 6 * x.marks.length) hv
    rw [State.reportLayout_eq, List.length_append, reportHeader_length, State.reportSections]
    omega
  case header => rw [State.reportLayout_eq, List.take_left' (reportHeader_length _ _ _)]
  case body => rw [State.reportLayout_eq, List.drop_left' (reportHeader_length _ _ _)]
  case notReady =>
    have hz' := (sections_get hm hz).trans (portSection_plain _ _ _ hq)
    rw [hz']
    refine ⟨rfl, ?_⟩
    change [byte p.num, _, _, _, byte 255, byte 0] = _
    rw [plainSection_reason]
    rfl
  case ready =>
    have hz' := (sections_get hm hz).trans (portSection_ready _ _ _ hq hmode)
    rw [hz']
    cases hf : m.format <;> exact ⟨rfl, rfl⟩

end Sys2Proof.Machine
end

section
/-! Captures: the fields and the refusals of CAPTURE_START, its record, what a recorded sample writes, and the two ends
(R90 to R96). -/

namespace Sys2Proof.Machine

/-! ### Replacing and finding in a list -/

theorem find_replaceFirst {α : Type} {t : α → Bool} {f : α → α} (h : ∀ x, t (f x) = t x) (xs : List α) :
    (replaceFirst t f xs).find? t = (xs.find? t).map f := by
  induction xs with
  | nil => rfl
  | cons x xs ih =>
    unfold replaceFirst
    cases hx : t x
    · simp [hx, ih]
    · simp [hx, h]

theorem find_replaceFirst_other {α : Type} {t u : α → Bool} {f : α → α} (h : ∀ x, t x = true → u x = false)
    (hf : ∀ x, t (f x) = t x) (xs : List α) : (replaceFirst t f xs).find? u = xs.find? u := by
  induction xs with
  | nil => rfl
  | cons x xs ih =>
    unfold replaceFirst
    cases hx : t x
    · simp [List.find?_cons, ih]
    · simp [h x hx, h (f x) (by rw [hf, hx])]

theorem mem_replaceFirst {α : Type} {t : α → Bool} {x : α} {xs : List α} (f : α → α) (h : xs.find? t = some x) :
    f x ∈ replaceFirst t f xs := by
  induction xs with
  | nil => cases h
  | cons y ys ih =>
    unfold replaceFirst
    cases hy : t y
    · rw [List.find?_cons_of_neg (by simp [hy])] at h
      simpa using Or.inr (ih h)
    · rw [List.find?_cons_of_pos hy] at h
      cases h
      simp

theorem replaceFirst_replaceFirst {α : Type} {t : α → Bool} {f : α → α} (g : α → α) (h : ∀ x, t (f x) = t x)
    (xs : List α) : replaceFirst t g (replaceFirst t f xs) = replaceFirst t (fun x => g (f x)) xs := by
  induction xs with
  | nil => rfl
  | cons x xs ih => cases hx : t x <;> simp [replaceFirst, hx, h, ih]

/-! ### Regions of the store -/

theorem Store.find_id {st : Store} {id : Nat} {g : Region} (h : st.find id = some g) : g.id = id := by
  simpa using List.find?_some h

theorem Store.find_update {st : Store} {id : Nat} {f : Region → Region} (h : ∀ g, (f g).id = g.id) :
    (st.update id f).find id = (st.find id).map f :=
  find_replaceFirst (fun g => by rw [h]) _

theorem Store.update_update {st : Store} {id : Nat} {f : Region → Region} (g : Region → Region) (h : ∀ x, (f x).id = x.id) :
    (st.update id f).update id g = st.update id (fun x => g (f x)) := by
  simp only [Store.update, replaceFirst_replaceFirst g (t := fun r : Region => r.id == id) (fun x => by rw [h])]

/-! ### The failures of a field that a test checks -/

/-- What a field that must be there can fail: absent, not a number, or refused by its test (R174). -/
theorem mem_need_check {β : Type} {k : Nat} {fs : Fields} {c d : Check} {g : Nat → Option β} :
    d ∈ ((natField k fs).check c g).need ↔
      (fieldValue k fs = none ∧ d = .missingField) ∨ (natField k fs = .bad .field ∧ d = .field) ∨
        ∃ n, natField k fs = .val n ∧ g n = none ∧ d = c := by
  cases hv : fieldValue k fs with
  | none => simp [natField_absent hv, Val.check, Val.need]
  | some v =>
    have hn : natField k fs ≠ .absent := by
      unfold natField
      rw [hv]
      simp only
      split <;> simp
    cases hk : natField k fs with
    | absent => exact absurd hk hn
    | bad x => simp [natField_bad hk, Val.check, Val.need]
    | val n => cases hg : g n <;> simp [Val.check, Val.need, hg]

theorem missing_mem_need_check {β : Type} {k : Nat} {fs : Fields} {c : Check} {g : Nat → Option β}
    (hm : c ≠ .missingField) : Check.missingField ∈ ((natField k fs).check c g).need ↔ fieldValue k fs = none := by
  simp [mem_need_check, hm.symm]

theorem Num8.ofNum_eq_none {n : Nat} : Num8.ofNum n = none ↔ n < 1 ∨ 8 < n := by
  constructor
  · intro h
    by_contra hc
    obtain ⟨i, hi, -⟩ := Num8.ofNum_of_range (n := n) (by omega)
    rw [h] at hi
    cases hi
  · intro h
    cases hn : Num8.ofNum n with
    | none => rfl
    | some i =>
      have := Num8.num_of_ofNum hn
      cases i <;> simp [Num8.num] at this <;> omega

theorem endModeOfCode_eq_none {n : Nat} : endModeOfCode n = none ↔ 1 < n := by
  rcases n with _ | _ | n <;> simp [endModeOfCode]

/-! ### CAPTURE_START (R90, R91) -/

/-- The failures of the fields of CAPTURE_START, in the order of the fields. -/
def CaptureFields.failures (x : CaptureFields) : List Check :=
  x.port.need ++ x.region.need ++ x.index.need ++ x.decim.need ++ x.endMode.need

/-- R90: each field has a check of its own, and only it can fail that check. -/
theorem CaptureFields.mem_failures {fs : Fields} {d : Check} (hf : d ≠ .field) (hm : d ≠ .missingField) :
    d ∈ (CaptureFields.read fs).failures ↔
      (d = .port ∧ ∃ n, natField 1 fs = .val n ∧ (n < 1 ∨ 8 < n)) ∨
      (d = .region ∧ ∃ n, natField 2 fs = .val n ∧ (n < 1 ∨ 24 < n)) ∨
      (d = .valueIndex ∧ ∃ n, natField 3 fs = .val n ∧ 3 < n) ∨
      (d = .decimation ∧ ∃ n, natField 4 fs = .val n ∧ (n < 1 ∨ 100 < n)) ∨
      (d = .endMode ∧ ∃ n, natField 5 fs = .val n ∧ 1 < n) := by
  simp only [CaptureFields.failures, CaptureFields.read, sensorPortField, idField, enumFieldAs, List.mem_append,
    mem_need_check, hf, hm, and_false, false_or, Num8.ofNum_eq_none, endModeOfCode_eq_none, ite_eq_right_iff, reduceCtorEq,
    imp_false, not_and_or, Nat.not_le]
  constructor
  · rintro ((((⟨n, hn, hb, hd⟩ | ⟨n, hn, hb, hd⟩) | ⟨n, hn, hb, hd⟩) | ⟨n, hn, hb, hd⟩) | ⟨n, hn, hb, hd⟩)
    · exact .inl ⟨hd, n, hn, hb⟩
    · exact .inr (.inl ⟨hd, n, hn, hb⟩)
    · exact .inr (.inr (.inl ⟨hd, n, hn, hb⟩))
    · exact .inr (.inr (.inr (.inl ⟨hd, n, hn, hb⟩)))
    · exact .inr (.inr (.inr (.inr ⟨hd, n, hn, hb⟩)))
  · rintro (⟨hd, n, hn, hb⟩ | ⟨hd, n, hn, hb⟩ | ⟨hd, n, hn, hb⟩ | ⟨hd, n, hn, hb⟩ | ⟨hd, n, hn, hb⟩)
    · exact .inl (.inl (.inl (.inl ⟨n, hn, hb, hd⟩)))
    · exact .inl (.inl (.inl (.inr ⟨n, hn, hb, hd⟩)))
    · exact .inl (.inl (.inr ⟨n, hn, hb, hd⟩))
    · exact .inl (.inr ⟨n, hn, hb, hd⟩)
    · exact .inr ⟨n, hn, hb, hd⟩

theorem CaptureFields.missing_mem_failures (fs : Fields) :
    Check.missingField ∈ (CaptureFields.read fs).failures ↔
      fieldValue 1 fs = none ∨ fieldValue 2 fs = none ∨ fieldValue 3 fs = none ∨ fieldValue 4 fs = none ∨
        fieldValue 5 fs = none := by
  simp [CaptureFields.failures, CaptureFields.read, sensorPortField, idField, enumFieldAs, missing_mem_need_check]

theorem State.captureStart_invalid {l : Link} {fs : Fields} {s : State} (h : (CaptureFields.read fs).failures ≠ []) :
    s.captureStart l fs = (s, .invalid (CaptureFields.read fs).failures) := by
  simp only [State.captureStart]
  split
  next hp hr hi hd he => exact absurd (by simp [CaptureFields.failures, Val.need, hp, hr, hi, hd, he]) h
  next => rfl

/-- The fields of a CAPTURE_START that all decode. -/
abbrev CaptureFields.ok (p : SensorPort) (id index decim : Nat) (e : EndMode) : CaptureFields :=
  { port := .val p, region := .val id, index := .val index, decim := .val decim, endMode := .val e }

theorem State.captureStart_refused {l : Link} {fs : Fields} {s : State} {p : SensorPort} {id index decim : Nat}
    {e : EndMode} {y : Reply} (hx : CaptureFields.read fs = .ok p id index decim e)
    (h : s.captureRefusal p id index = some y) : s.captureStart l fs = (s, y) := by
  simp only [State.captureStart, hx, h]

theorem State.captureStart_begins {l : Link} {fs : Fields} {s : State} {p : SensorPort} {id index decim : Nat}
    {e : EndMode} {g : Region} (hx : CaptureFields.read fs = .ok p id index decim e) (hg : s.store.find id = some g)
    (h : s.captureRefusal p id index = none) :
    s.captureStart l fs = (s.beginCapture (newCapture p l index decim e g) g, Reply.ok) := by
  simp only [State.captureStart, hx, h, hg]

theorem State.entered_captureRefusal (s : State) (c : Byte) (r : Req) (p : SensorPort) (id index : Nat) :
    (s.entered c r).captureRefusal p id index = s.captureRefusal p id index := by
  simp only [State.captureRefusal, State.entered_store, State.entered_sensors, State.entered_port]

/-- R90: a CAPTURE region and a port without a capture are refused for what follows only. -/
theorem State.captureRefusal_capture {s : State} {p : SensorPort} {id index : Nat} {g : Region}
    (hg : s.store.find id = some g) (hk : g.kind = .capture) (hp : s.sensors.captureOn p = none)
    (hn : s.sensors.captures.length < 4) :
    s.captureRefusal p id index =
      if s.store.windowOn id || s.sensors.capturing id then some (Reply.refuse .access)
      else if (s.port p).state ≠ .ready then some (Reply.refuse .noDevice)
      else if (s.port p).modeDesc.any (fun m => decide (index < m.valueCount)) then none
      else some (.invalid [.valueIndex]) := by
  simp only [State.captureRefusal, hg, hk, hp, reduceCtorEq, if_false, Option.isSome_none, Bool.false_eq_true,
    if_neg (Nat.not_le.mpr hn)]

theorem State.captureRefusal_none {s : State} {p : SensorPort} {id index : Nat} {g : Region} {m : ModeDesc}
    (hg : s.store.find id = some g) (hk : g.kind = .capture) (hp : s.sensors.captureOn p = none)
    (hn : s.sensors.captures.length < 4) (hw : s.store.windowOn id = false) (hc : s.sensors.capturing id = false)
    (hr : (s.port p).state = .ready) (hm : (s.port p).modeDesc = some m) (hi : index < m.valueCount) :
    s.captureRefusal p id index = none := by
  simp [State.captureRefusal_capture hg hk hp hn, hw, hc, hr, hm, hi]

theorem newCapture_eq (p : SensorPort) (l : Link) (index decim : Nat) (e : EndMode) (g : Region) :
    newCapture p l index decim e g =
      { port := p, region := g.id, index := index, decim := decim, endMode := e, starter := l, count := 0,
        offset := if e = .wrap ∧ g.fill = g.length then 0 else g.fill, written := 0,
        wrapped := decide (e = .wrap ∧ g.fill = g.length) } := by
  have ha : (e == .wrap && g.fill == g.length) = decide (e = .wrap ∧ g.fill = g.length) := by
    rw [Bool.eq_iff_iff]
    simp
  simp only [newCapture, ha, decide_eq_true_eq]

/-- R91: a capture with room, or a wrapping one, opens its region. -/
theorem State.beginCapture_open {s : State} {c : Capture} {g : Region} (h : ¬(c.endMode = .stop ∧ g.fill = g.length)) :
    s.beginCapture c g =
      { s with sensors := { s.sensors with captures := s.sensors.captures ++ [c] },
               store := s.store.update g.id (fun x => { x with ready := false }) } := if_neg h

theorem Sensors.captureOn_port {x : Sensors} {p : SensorPort} {c : Capture} (h : x.captureOn p = some c) : c.port = p := by
  simpa using List.find?_some h

theorem Sensors.captureOn_none {x : Sensors} {p : SensorPort} (h : x.captureOn p = none) :
    ∀ d ∈ x.captures, d.port ≠ p := fun d hd => by simpa using List.find?_eq_none.mp h d hd

/-- R91: a STOP capture on a full region leaves the captures as they were, and its region READY. -/
theorem State.beginCapture_full {s : State} {c : Capture} {g : Region} (hg : s.store.find g.id = some g)
    (hc : c.region = g.id) (hp : s.sensors.captureOn c.port = none) (h : c.endMode = .stop ∧ g.fill = g.length) :
    s.beginCapture c g =
      State.notify { s with store := s.store.update g.id (fun x => { x with ready := true }) } c.starter
        (.captureEnd c .full g.fill s.now) := by
  have hfilter : (s.sensors.captures ++ [c]).filter (fun d => d.port != c.port) = s.sensors.captures := by
    have hkeep : s.sensors.captures.filter (fun d => d.port != c.port) = s.sensors.captures :=
      List.filter_eq_self.mpr fun d hd => by simpa using Sensors.captureOn_none hp d hd
    simp [hkeep]
  have hfind : (s.store.update g.id (fun x => { x with ready := false })).find g.id = some { g with ready := false } := by
    rw [Store.find_update (f := fun x => { x with ready := false }) (fun _ => rfl), hg]
    rfl
  have hstore : (s.store.update g.id (fun x => { x with ready := false })).update g.id (fun x => { x with ready := true }) =
      s.store.update g.id (fun x => { x with ready := true }) := Store.update_update _ (fun _ => rfl)
  unfold State.beginCapture
  simp only [if_pos h, State.finishCapture, hc, hfilter, hfind, hstore]
  rfl

/-! ### A recorded sample (R92, R93) -/

theorem captureBytes_eq (v : Int) :
    captureBytes v =
      [byte ((if max (-32768) (min 32767 v) < 0 then max (-32768) (min 32767 v) + 65536 else max (-32768) (min 32767 v)).toNat),
        byte ((if max (-32768) (min 32767 v) < 0 then max (-32768) (min 32767 v) + 65536
          else max (-32768) (min 32767 v)).toNat / 256)] := by
  have hclamp : clamp (-32768) 32767 v = max (-32768) (min 32767 v) := by
    unfold clamp
    split <;> [skip; split] <;> omega
  have hmod : (max (-32768) (min 32767 v) % (256 : Int) ^ 2).toNat =
      (if max (-32768) (min 32767 v) < 0 then max (-32768) (min 32767 v) + 65536 else max (-32768) (min 32767 v)).toNat := by
    split <;> omega
  rw [captureBytes, hclamp, leInt, hmod]
  rfl

theorem Store.record_of {st : Store} {id offset : Nat} {v : Int} {g : Region} (hg : st.find id = some g) :
    st.record id offset v =
      { st.update id (fun r => { r with fill := max r.fill (offset + 2) }) with
        mem := Memory.write (g.base + offset + 1) ((captureBytes v).getD 1 0)
          (Memory.write (g.base + offset) ((captureBytes v).getD 0 0) st.mem) } := by
  simp only [Store.record, hg]

theorem Store.find_record {st : Store} {id offset : Nat} {v : Int} {g : Region} (hg : st.find id = some g) :
    (st.record id offset v).find id = some { g with fill := max g.fill (offset + 2) } := by
  have h := Store.find_update (st := st) (id := id) (f := fun r => { r with fill := max r.fill (offset + 2) }) (fun _ => rfl)
  rw [hg] at h
  rw [Store.record_of hg]
  exact h

/-- R92: the two bytes of the value stand at the write offset, and no other byte changes. -/
theorem Store.read_record {st : Store} {id offset : Nat} {v : Int} {g : Region} (hg : st.find id = some g)
    (hw : Memory.wf st.mem = true) (hin : g.base + offset + 1 < storeSize) (a : Nat) :
    Memory.read a (st.record id offset v).mem =
      if a = g.base + offset + 1 then (captureBytes v).getD 1 0
      else if a = g.base + offset then (captureBytes v).getD 0 0 else Memory.read a st.mem := by
  rw [Store.record_of hg]
  simp only [Memory.read_write _ _ _ (Memory.write_wf _ _ hw), Memory.read_write _ _ _ hw, hin, and_true,
    show g.base + offset < storeSize by omega]

/-- The state after a due sample of a capture is recorded, before an end. -/
def State.recordedBy (s : State) (c : Capture) (d : Capture) (values : List Int) : State :=
  { s with sensors := s.sensors.setCapture d, store := s.store.record c.region c.offset (values.getD c.index 0) }

/-- R93: the write offset, the counts and the wrapped flag of a record that goes on. -/
def Capture.stepped (c : Capture) (offset : Nat) (wrapped : Bool) : Capture :=
  { c with count := 0, offset := offset, written := addCount c.written 1, wrapped := wrapped }

theorem addCount_one {n : Nat} (h : n < 4294967295) : addCount n 1 = n + 1 := if_pos (by omega)

section
variable {s : State} {p : SensorPort} {values : List Int} {c : Capture} {g : Region}

/-- R92: the samples between two recorded ones only count. -/
theorem State.offer_between (hc : s.sensors.captureOn p = some c) (hn : c.count + 1 < c.decim) :
    s.offer p values = { s with sensors := s.sensors.setCapture { c with count := c.count + 1 } } := by
  simp only [State.offer, hc, if_pos hn]

theorem State.offer_room (hc : s.sensors.captureOn p = some c) (hg : s.store.find c.region = some g)
    (hn : c.decim ≤ c.count + 1) (hr : c.offset + 2 < g.length) :
    s.offer p values = s.recordedBy c (c.stepped (c.offset + 2) c.wrapped) values := by
  simp only [State.offer, hc, hg, if_neg (Nat.not_lt.mpr hn), Option.map_some, Option.getD_some, Capture.recorded,
    if_pos hr, Bool.false_eq_true, if_false]
  rfl

theorem State.offer_wrap (hc : s.sensors.captureOn p = some c) (hg : s.store.find c.region = some g)
    (hn : c.decim ≤ c.count + 1) (hr : g.length ≤ c.offset + 2) (he : c.endMode = .wrap) :
    s.offer p values = s.recordedBy c (c.stepped 0 true) values := by
  simp only [State.offer, hc, hg, if_neg (Nat.not_lt.mpr hn), Option.map_some, Option.getD_some, Capture.recorded,
    if_neg (Nat.not_lt.mpr hr), he, Bool.false_eq_true, if_false, State.recordedBy, Capture.stepped]

theorem State.offer_stop (hc : s.sensors.captureOn p = some c) (hg : s.store.find c.region = some g)
    (hn : c.decim ≤ c.count + 1) (hr : g.length ≤ c.offset + 2) (he : c.endMode = .stop) :
    s.offer p values =
      (s.recordedBy c (c.stepped (c.offset + 2) c.wrapped) values).finishCapture (c.stepped (c.offset + 2) c.wrapped)
        .full := by
  simp only [State.offer, hc, hg, if_neg (Nat.not_lt.mpr hn), Option.map_some, Option.getD_some, Capture.recorded,
    if_neg (Nat.not_lt.mpr hr), he, if_true, State.recordedBy, Capture.stepped]

theorem Sensors.mem_setCapture (hc : s.sensors.captureOn p = some c) {d : Capture} (hd : d.port = c.port) :
    d ∈ (s.sensors.setCapture d).captures := by
  have h : s.sensors.captures.find? (fun x => x.port == d.port) = some c := by
    rw [hd, Sensors.captureOn_port hc]; exact hc
  exact mem_replaceFirst (fun _ => d) h

/-- What recording a sample leaves, whatever the record becomes. -/
theorem State.offer_frame (hc : s.sensors.captureOn p = some c) :
    (s.offer p values).motors = s.motors ∧ (s.offer p values).watch = s.watch ∧ (s.offer p values).mixer = s.mixer ∧
      (s.offer p values).supply = s.supply ∧ (s.offer p values).sensors.ports = s.sensors.ports := by
  simp only [State.offer, hc]
  split
  · exact ⟨rfl, rfl, rfl, rfl, rfl⟩
  · split <;> exact ⟨rfl, rfl, rfl, rfl, rfl⟩

/-- A due sample is written whether or not the capture ends with it (R92). -/
theorem State.offer_mem (hc : s.sensors.captureOn p = some c) (hn : c.decim ≤ c.count + 1) :
    (s.offer p values).store.mem = (s.store.record c.region c.offset (values.getD c.index 0)).mem := by
  simp only [State.offer, hc, if_neg (Nat.not_lt.mpr hn)]
  split <;> rfl

end

/-! ### CAPTURE_STOP (R96) -/

theorem State.captureStop_of {l : Link} {fs : Fields} {s : State} {p : SensorPort} (hp : sensorPortField 1 fs = .val p) :
    s.captureStop l fs =
      (match s.sensors.captureOn p with
        | none => (s, .invalid [.capture])
        | some c =>
          if l = .remote ∧ c.starter = .primary then (s, Reply.refuse .denied)
          else (s.finishCapture c .stopped, .plain .ok (fieldNat 1 4 c.written ++ fieldNat 2 4 c.offset))) := by
  simp only [State.captureStop, hp] <;> rfl

theorem State.finishCapture_captures {s : State} {p : SensorPort} {c : Capture} (o : CaptureOutcome) (hc : c.port = p) :
    ∀ x ∈ (s.finishCapture c o).sensors.captures, x.port ≠ p := by
  intro x hx
  have : x ∈ s.sensors.captures.filter (fun d => d.port != c.port) := hx
  simpa [hc] using (List.mem_filter.mp this).2

theorem State.finishCapture_router {s : State} {c : Capture} {g : Region} {o : CaptureOutcome}
    (hg : s.store.find c.region = some g) :
    (s.finishCapture c o).router = s.router.place c.starter (.captureEnd c o g.fill s.now) := by
  rw [State.finishCapture, State.notify_router, hg]
  rfl

/-- Settles O44. -/
theorem capturesStartRecordAndStop : Obligations.CapturesStartRecordAndStop := by
  unfold Obligations.CapturesStartRecordAndStop
  refine ⟨fun r fs s ha hcmp hf => ⟨fun hbad => ?invalid, fun n hn => ?port, fun n hn => ?region, fun n hn => ?index,
      fun n hn => ?decim, fun n hn => ?endMode, ?missing⟩,
    fun r fs p id index decim e s ha hcmp hf hx => ⟨fun hg => ?noRegion, fun g hg => ⟨fun hk => ?clip, fun hk =>
      ⟨fun hp => ?busy, fun hp => ⟨fun hn => ?full, fun hn => ⟨fun hacc => ?access, fun hw hc => ⟨fun hr => ?noDevice,
        fun hr hm => ?valueIndex, fun hr ⟨m, hm, hi⟩ he hfull => ?stopsAtOnce⟩⟩⟩⟩⟩⟩,
    fun r fs p id index decim e g s hf hp =>
      ⟨fun ha hcmp hx hg hk hon hn hw hc hr ⟨m, hm, hi⟩ hroom => ?starts, fun ha hon => ?noCapture,
        fun c ha hon => ⟨fun hl hs => ?denied, fun hl => ?stops⟩⟩,
    fun p values c g s hc hg hwf => ⟨fun hn => State.offer_between hc hn, fun hn hin => ?recorded⟩⟩
  case invalid =>
    exact congrArg Host.Outcome.next (takeRequest_idle_onFields ha hcmp hf (State.captureStart_invalid hbad))
  case port => exact (CaptureFields.mem_failures (fs := fs) (by decide) (by decide)).trans (by simp [hn])
  case region => exact (CaptureFields.mem_failures (fs := fs) (by decide) (by decide)).trans (by simp [hn])
  case index => exact (CaptureFields.mem_failures (fs := fs) (by decide) (by decide)).trans (by simp [hn])
  case decim => exact (CaptureFields.mem_failures (fs := fs) (by decide) (by decide)).trans (by simp [hn])
  case endMode => exact (CaptureFields.mem_failures (fs := fs) (by decide) (by decide)).trans (by simp [hn])
  case missing => exact CaptureFields.missing_mem_failures fs
  case noRegion =>
    refine congrArg Host.Outcome.next (takeRequest_idle_onFields ha hcmp hf (State.captureStart_refused hx ?_))
    rw [State.entered_captureRefusal]
    simp only [State.captureRefusal, hg]
  case clip =>
    refine congrArg Host.Outcome.next (takeRequest_idle_onFields ha hcmp hf (State.captureStart_refused hx ?_))
    rw [State.entered_captureRefusal]
    simp only [State.captureRefusal, hg, hk, if_true]
  case busy =>
    refine congrArg Host.Outcome.next (takeRequest_idle_onFields ha hcmp hf (State.captureStart_refused hx ?_))
    rw [State.entered_captureRefusal]
    simp only [State.captureRefusal, hg, hk, reduceCtorEq, if_false,
      Option.isSome_iff_ne_none.mpr hp, if_true]
  case full =>
    refine congrArg Host.Outcome.next (takeRequest_idle_onFields ha hcmp hf (State.captureStart_refused hx ?_))
    rw [State.entered_captureRefusal]
    simp only [State.captureRefusal, hg, hk, reduceCtorEq, if_false, hp, Option.isSome_none,
      Bool.false_eq_true, if_pos hn]
  case access =>
    refine congrArg Host.Outcome.next (takeRequest_idle_onFields ha hcmp hf (State.captureStart_refused hx ?_))
    rw [State.entered_captureRefusal, State.captureRefusal_capture hg hk hp hn, if_pos (by simpa using hacc)]
  case noDevice =>
    refine congrArg Host.Outcome.next (takeRequest_idle_onFields ha hcmp hf (State.captureStart_refused hx ?_))
    rw [State.entered_captureRefusal, State.captureRefusal_capture hg hk hp hn, if_neg (by simp [hw, hc]), if_pos hr]
  case valueIndex =>
    have hany : (s.port p).modeDesc.any (fun m => decide (index < m.valueCount)) = false := by
      cases hmode : (s.port p).modeDesc with
      | none => rfl
      | some m => simpa using hm m hmode
    refine congrArg Host.Outcome.next (takeRequest_idle_onFields ha hcmp hf (State.captureStart_refused hx ?_))
    rw [State.entered_captureRefusal, State.captureRefusal_capture hg hk hp hn, if_neg (by simp [hw, hc]),
      if_neg (by simp [hr]), if_neg (by simp [hany])]
  case stopsAtOnce =>
    have hid := Store.find_id hg
    have hnone := State.captureRefusal_none hg hk hp hn hw hc hr hm hi
    subst he
    refine congrArg Host.Outcome.next ((takeRequest_idle_onFields ha hcmp hf (State.captureStart_begins hx
      (by rw [State.entered_store]; exact hg) (by rw [State.entered_captureRefusal]; exact hnone))).trans ?_)
    rw [State.beginCapture_full (by rw [State.entered_store, hid]; exact hg) rfl (by rw [State.entered_sensors]; exact hp)
      ⟨rfl, hfull⟩, newCapture_eq, hid, State.entered_store, State.entered_now]
    simp
  case starts =>
    have hid := Store.find_id hg
    have hnone := State.captureRefusal_none hg hk hon hn hw hc hr hm hi
    refine congrArg Host.Outcome.next ((takeRequest_idle_onFields ha hcmp hf (State.captureStart_begins hx
      (by rw [State.entered_store]; exact hg) (by rw [State.entered_captureRefusal]; exact hnone))).trans ?_)
    rw [State.beginCapture_open ?_, newCapture_eq, State.entered_store, State.entered_sensors]
    rintro ⟨he, hfull⟩
    rw [newCapture_eq] at he
    rcases hroom with h | rfl
    · exact Nat.ne_of_lt h hfull
    · cases he
  case noCapture =>
    refine congrArg Host.Outcome.next (takeRequest_onFields ha hf ?_)
    simp only [State.captureStop_of hp, State.entered_sensors, hon]
  case denied =>
    refine congrArg Host.Outcome.next (takeRequest_onFields ha hf ?_)
    simp only [State.captureStop_of hp, State.entered_sensors, hon, if_pos (And.intro hl hs)]
  case stops =>
    have hok : ¬(r.link = .remote ∧ c.starter = .primary) := by
      rintro ⟨h1, h2⟩
      simp [h1, h2] at hl
    have ht : exec (.captureStop r) s = .next (((s.entered 0x26 r).finishCapture c .stopped).replied 0x26 r
        (.plain .ok (fieldNat 1 4 c.written ++ fieldNat 2 4 c.offset))) := by
      refine congrArg Host.Outcome.next (takeRequest_onFields ha hf ?_)
      simp only [State.captureStop_of hp, State.entered_sensors, hon, if_neg hok]
    refine ⟨_, ht, ?_, ?_, ?_, ?_, ?_, ?_, ?_, fun hask => ?_⟩
    · rw [State.replied_sensors]
      exact State.finishCapture_captures _ (Sensors.captureOn_port hon)
    · rw [State.replied_store, State.finishCapture, State.notify_store, State.entered_store]
    · rw [State.replied_sensors, State.finishCapture, State.notify_sensors, State.entered_sensors]
    · rw [State.replied_motors, State.finishCapture, State.notify_motors, State.entered_motors]
    · rw [State.replied_mixer, State.finishCapture, State.notify_mixer, State.entered_mixer]
    · rw [State.replied_watch, State.finishCapture, State.notify_watch, State.entered_watch]
    · rw [State.replied_supply, State.finishCapture, State.notify_supply, State.entered_supply]
    · refine State.replied_router_replies _ hask ?_
      rw [State.finishCapture, (notify_frame _ _ _ _).2]
      exact State.entered_replies _ _ _ _
  case recorded =>
    obtain ⟨hmot, hwat, hmix, hsup, hports⟩ := State.offer_frame (values := values) hc
    have hport : c.port = p := Sensors.captureOn_port hc
    have hmem := State.offer_mem (values := values) hc hn
    have hread := Store.read_record (v := values.getD c.index 0) hg hwf hin
    refine ⟨?_, ?_, fun a h0 h1 => ?_, hmot, hwat, hmix, hsup, hports, fun hr => ?_, fun hr he => ?_, fun hr he hwr => ?_⟩
    · rw [hmem, hread, if_neg (by omega), if_pos rfl, captureBytes_eq]
      rfl
    · rw [hmem, hread, if_pos rfl, captureBytes_eq]
      exact (BitVec.toNat_ofNat _ 8).trans (Nat.mod_eq_of_lt (by split <;> omega))
    · rw [hmem, hread, if_neg h1, if_neg h0]
    · rw [State.offer_room hc hg hn hr]
      exact ⟨rfl, Store.find_record hg, _, Sensors.mem_setCapture hc rfl, hport, rfl, rfl, rfl, addCount_one⟩
    · rw [State.offer_wrap hc hg hn hr he]
      exact ⟨rfl, Store.find_record hg, _, Sensors.mem_setCapture hc rfl, hport, rfl, rfl, rfl, addCount_one⟩
    · have hfind := Store.find_record (offset := c.offset) (v := values.getD c.index 0) hg
      have hd : c.stepped (c.offset + 2) c.wrapped =
          { c with count := 0, offset := c.offset + 2, written := c.written + 1 } := by
        rw [Capture.stepped, addCount_one hwr]
      rw [State.offer_stop hc hg hn hr he]
      refine ⟨State.finishCapture_captures _ hport, ?_, ?_⟩
      · exact (Store.find_update (f := fun x => { x with ready := true }) fun _ => rfl).trans (congrArg _ hfind)
      · rw [← hd, State.finishCapture_router (g := { g with fill := max g.fill (c.offset + 2) }) hfind]
        rfl

end Sys2Proof.Machine
end

section
/-! An accepted reading: the end of a switch, the ring, the offer to the capture, and the watch entries that hear it
(R70, R74, R77, R82, R83, R98, R99). -/

namespace Sys2Proof.Machine

/-! ### The watch entries on a port (R99) -/

/-- Whether an entry on the port fits the port's mode and its descriptor (R99). -/
def Source.heardOn (p : SensorPort) (q : Port) : Source → Bool
  | .sensor a md i =>
    a == p && md == q.mode && q.desc.any (fun d => d.modes.any (fun y => y.number == md && decide (i < y.valueCount)))
  | _ => false

/-- An entry re-examined at the end of a switch of its port (R99). -/
def Watch.examinedOn (p : SensorPort) (q : Port) (e : Watch) : Watch :=
  if q.state = .switching ∧ e.source.onPort p = true then
    if e.state = .active ∧ e.source.heardOn p q = false then { e.cleared with state := .dormant }
    else if e.state = .dormant ∧ e.source.heardOn p q = true then { e.cleared with state := .active, last := none } else e
  else e

/-- On the port itself, now READY, the test of R99 is whether the entry is heard there. -/
theorem Source.fits_ready {ports : Eight Port} {p : SensorPort} {q : Port} {x : Source}
    (hr : (ports.get p).state = .ready) (hm : (ports.get p).mode = q.mode) (hd : (ports.get p).desc = q.desc)
    (hx : x.onPort p = true) : x.fits ports = x.heardOn p q := by
  cases x with
  | sensor a md i =>
    obtain rfl : a = p := by simpa [Source.onPort] using hx
    have hcomm : (q.mode == md) = (md == q.mode) := Bool.beq_comm
    simp [Source.fits, Source.heardOn, hr, hm, hd, hcomm]
  | _ => simp [Source.onPort] at hx

theorem Watch.reexamined_eq (ports : Eight Port) (e : Watch) :
    e.reexamined ports =
      if e.state = .active ∧ e.source.fits ports = false then { e.cleared with state := .dormant }
      else if e.state = .dormant ∧ e.source.fits ports = true then { e.cleared with state := .active, last := none }
      else e := by
  unfold Watch.reexamined
  cases hs : e.state <;> cases hf : e.source.fits ports <;> simp

theorem Watch.examinedOn_source (p : SensorPort) (q : Port) (e : Watch) : (e.examinedOn p q).source = e.source := by
  unfold Watch.examinedOn
  split
  · split
    · rfl
    · split <;> rfl
  · rfl

theorem Watch.examinedOn_actions (p : SensorPort) (q : Port) (e : Watch) : (e.examinedOn p q).actions = e.actions := by
  unfold Watch.examinedOn
  split
  · split
    · rfl
    · split <;> rfl
  · rfl

/-! ### The end of a switch (R77, R78) -/

/-- The port after a reading ends its silence and, if one runs, its switch. -/
def Port.heard (q : Port) : Port := { q with silence := 0, state := .ready }

/-- The part after a reading is accepted, before the sample is taken. -/
def State.readied (s : State) (p : SensorPort) : State :=
  if (s.port p).state = .switching then s.changePort p (s.port p).heard none else s.setPort p (s.port p).heard

/-- PORT_EVENT READY, which ends a switch (R78). -/
def State.readiedSent (s : State) (p : SensorPort) : List Sent :=
  if (s.port p).state = .switching
  then [{ link := .primary,
          notice := .portEvent p .ready none
            ((s.port p).desc.map (fun d => (d.kind, d.modes.length, (s.port p).mode))) none s.now }]
  else []

theorem State.readied_frame (s : State) (p : SensorPort) :
    (s.readied p).motors = s.motors ∧ (s.readied p).mixer = s.mixer ∧ (s.readied p).supply = s.supply ∧
      (s.readied p).store = s.store ∧
      (s.readied p).sensors = { s.sensors with ports := s.sensors.ports.set p (s.port p).heard } := by
  obtain ⟨h1, h2, h3, h4, h5, -⟩ := s.portWritten_frame p (s.port p).heard
  unfold State.readied
  split
  · exact ⟨h1, h2, h3, h4, h5⟩
  · exact ⟨rfl, rfl, rfl, rfl, rfl⟩

theorem State.readied_router (s : State) (p : SensorPort) :
    (s.readied p).router = s.router.placeAll (s.readiedSent p) := by
  unfold State.readied State.readiedSent
  split
  · rw [State.changePort_router, State.portSent_reported _ _ _ rfl, State.portNotice_setPort]
    rfl
  · rfl

theorem State.readied_watch (s : State) (p : SensorPort) :
    (s.readied p).watch.virt = s.watch.virt ∧ (s.readied p).watch.scanEnc = s.watch.scanEnc ∧
      ∀ k, (s.readied p).watch.entries.get k = (s.watch.entries.get k).map (Watch.examinedOn p (s.port p)) := by
  by_cases hs : (s.port p).state = .switching
  · obtain ⟨-, -, -, -, -, hw⟩ := s.portWritten_frame p (s.port p).heard
    have hw' : (s.readied p).watch = s.watch.reexamine (s.sensors.ports.set p (s.port p).heard) p := by
      rw [State.readied, if_pos hs]
      exact hw
    rw [hw']
    refine ⟨rfl, rfl, fun k => ?_⟩
    rw [WatchUnit.reexamine, Sixteen.get_map]
    refine congrArg (fun f => (s.watch.entries.get k).map f) (funext fun e => ?_)
    have hget : (s.sensors.ports.set p (s.port p).heard).get p = (s.port p).heard := Eight.get_set_same _ _ _
    by_cases he : e.source.onPort p = true
    · rw [if_pos he, Watch.reexamined_eq,
        Source.fits_ready (q := s.port p) (by rw [hget]; rfl) (by rw [hget]; rfl) (by rw [hget]; rfl) he]
      exact (if_pos ⟨hs, he⟩).symm
    · rw [if_neg he, Watch.examinedOn, if_neg (fun h => he h.2)]
  · rw [State.readied, if_neg hs]
    refine ⟨rfl, rfl, fun k => ?_⟩
    have hid : Watch.examinedOn p (s.port p) = id := funext fun e => if_neg fun h => hs h.1
    rw [hid, Option.map_id]
    rfl

/-! ### The sample (R82, R83, R92, R98) -/

/-- The part after a sample has joined its port's ring. -/
def State.joinedBy (s : State) (p : SensorPort) (values : List Int) : State :=
  (s.readied p).setPort p ((s.port p).heard.join s.now values)

/-- The part after a sample has joined its ring and the capture on its port. -/
def State.offeredBy (s : State) (p : SensorPort) (values : List Int) : State :=
  (s.joinedBy p values).offer p values

theorem State.readied_port (s : State) (p : SensorPort) : (s.readied p).port p = (s.port p).heard := by
  obtain ⟨-, -, -, -, h⟩ := s.readied_frame p
  rw [State.port, h, Eight.get_set_same]

theorem State.readied_now (s : State) (p : SensorPort) : (s.readied p).now = s.now := by
  obtain ⟨-, -, -, -, h⟩ := s.readied_frame p
  rw [State.now, h, State.now]

/-- R74, R82: an accepted reading in its three stages. -/
theorem State.accept_eq {s : State} {p : SensorPort} {m : ModeDesc} (values : List Int)
    (hq : (s.port p).state = .ready ∨ (s.port p).state = .switching) :
    s.accept p m values =
      (s.offeredBy p (values.map (clamp m.min m.max))).withReach
        ((s.offeredBy p (values.map (clamp m.min m.max))).reach.sample
          (s.offeredBy p (values.map (clamp m.min m.max))).watchFeed p (values.map (clamp m.min m.max))) := by
  have hready : (if (s.port p).state = .switching then
      s.changePort p { ({ s.port p with silence := 0 } : Port) with state := .ready } none
      else s.setPort p { s.port p with silence := 0 }) = s.readied p := by
    unfold State.readied
    rcases hq with h | h
    · rw [if_neg (by simp [h]), if_neg (by simp [h]), Port.heard, ← h]
    · rw [if_pos h, if_pos h, Port.heard]
  have hjoin : s.accept p m values = (s.readied p).arrive p (values.map (clamp m.min m.max)) := by rw [← hready]; rfl
  rw [hjoin, State.arrive, State.readied_port, State.readied_now]
  rfl

theorem Eight.set_set {α : Type} (t : Eight α) (i : Num8) (v w : α) : (t.set i v).set i w = t.set i w := by
  cases i <;> rfl

theorem State.joinedBy_frame (s : State) (p : SensorPort) (values : List Int) :
    (s.joinedBy p values).motors = s.motors ∧ (s.joinedBy p values).mixer = s.mixer ∧
      (s.joinedBy p values).supply = s.supply ∧ (s.joinedBy p values).store = s.store ∧
      (s.joinedBy p values).watch = (s.readied p).watch ∧ (s.joinedBy p values).router = (s.readied p).router ∧
      (s.joinedBy p values).sensors =
        { s.sensors with ports := s.sensors.ports.set p ((s.port p).heard.join s.now values) } := by
  obtain ⟨h1, h2, h3, h4, h5⟩ := s.readied_frame p
  refine ⟨h1, h2, h3, h4, rfl, rfl, ?_⟩
  rw [State.joinedBy, State.setPort, h5]
  rw [Eight.set_set]

/-- Offering a sample leaves all but the captures, their region and their notices. -/
theorem State.offer_rest (s : State) (p : SensorPort) (values : List Int) :
    (s.offer p values).motors = s.motors ∧ (s.offer p values).watch = s.watch ∧ (s.offer p values).mixer = s.mixer ∧
      (s.offer p values).supply = s.supply ∧ (s.offer p values).sensors.ports = s.sensors.ports ∧
      (s.offer p values).sensors.streams = s.sensors.streams ∧ (s.offer p values).sensors.bankL = s.sensors.bankL ∧
      (s.offer p values).sensors.bankR = s.sensors.bankR := by
  unfold State.offer
  split
  · exact ⟨rfl, rfl, rfl, rfl, rfl, rfl, rfl, rfl⟩
  · split
    · exact ⟨rfl, rfl, rfl, rfl, rfl, rfl, rfl, rfl⟩
    · dsimp only
      split <;> exact ⟨rfl, rfl, rfl, rfl, rfl, rfl, rfl, rfl⟩

/-- Without a capture on the port a sample is recorded nowhere. -/
theorem State.offer_none {s : State} {p : SensorPort} (values : List Int) (h : ∀ x ∈ s.sensors.captures, x.port ≠ p) :
    s.offer p values = s := by
  have hc : s.sensors.captureOn p = none := List.find?_eq_none.mpr fun x hx => by simpa using h x hx
  simp only [State.offer, hc]

theorem State.offeredBy_ports (s : State) (p : SensorPort) (values : List Int) :
    (s.offeredBy p values).sensors.ports = s.sensors.ports.set p ((s.port p).heard.join s.now values) := by
  obtain ⟨-, -, -, -, h, -⟩ := (s.joinedBy p values).offer_rest p values
  obtain ⟨-, -, -, -, -, -, hj⟩ := s.joinedBy_frame p values
  rw [State.offeredBy, h, hj]

theorem State.offeredBy_rest (s : State) (p : SensorPort) (values : List Int) :
    (s.offeredBy p values).sensors.streams = s.sensors.streams ∧ (s.offeredBy p values).sensors.bankL = s.sensors.bankL ∧
      (s.offeredBy p values).sensors.bankR = s.sensors.bankR ∧ (s.offeredBy p values).supply = s.supply := by
  obtain ⟨-, -, -, h1, -, h2, h3, h4⟩ := (s.joinedBy p values).offer_rest p values
  obtain ⟨-, -, j1, -, -, -, j2⟩ := s.joinedBy_frame p values
  rw [State.offeredBy, h1, h2, h3, h4, j1, j2]
  exact ⟨rfl, rfl, rfl, rfl⟩

/-- R102, R103: the record of an ACTIVE entry that hears a value and writes no virtual input. -/
def Watch.judged (e : Watch) (v : Int) : Watch :=
  { e with
      cond := e.newCond v, last := some v,
      trueCount := if e.newCond v = true then min e.debounce (e.trueCount + 1) else 0,
      latch := (e.newCond v && e.latch) || ((e.seen v).fires? && e.rearm == .edge),
      state := if (e.seen v).fires? = true ∧ e.rearm = .once then .fired else .active,
      fires := if (e.seen v).fires? = true then min 65535 (e.fires + 1) else e.fires }

theorem State.offeredBy_frame (s : State) (p : SensorPort) (values : List Int) :
    (s.offeredBy p values).motors = s.motors ∧ (s.offeredBy p values).mixer = s.mixer ∧
      (s.offeredBy p values).supply = s.supply ∧ (s.offeredBy p values).watch.virt = s.watch.virt ∧
      (s.offeredBy p values).watch.scanEnc = s.watch.scanEnc ∧
      ∀ k, (s.offeredBy p values).watch.entries.get k =
        (s.watch.entries.get k).map (Watch.examinedOn p (s.port p)) := by
  obtain ⟨h1, h2, h3, h4, -⟩ := (s.joinedBy p values).offer_rest p values
  obtain ⟨j1, j2, j3, -, j4, -⟩ := s.joinedBy_frame p values
  rw [State.offeredBy, h1, h2, h3, h4, j1, j2, j3, j4]
  exact ⟨rfl, rfl, rfl, s.readied_watch p⟩

theorem State.offeredBy_store {s : State} {p : SensorPort} (values : List Int)
    (h : ∀ x ∈ s.sensors.captures, x.port ≠ p) : (s.offeredBy p values).store = s.store := by
  obtain ⟨-, -, -, j1, -, -, j2⟩ := s.joinedBy_frame p values
  rw [State.offeredBy, State.offer_none values (by rw [j2]; exact h), j1]

/-- R98: after a reading every entry on its port is re-examined, then judged if it is ACTIVE. -/
theorem State.accept_entries {s : State} {p : SensorPort} {m : ModeDesc} (values : List Int)
    (hq : (s.port p).state = .ready ∨ (s.port p).state = .switching)
    (h : ∀ k e, s.watch.entries.get k = some e → e.source.onPort p = true → ∀ a ∈ e.actions, ∀ j b, a ≠ .setVirtual j b) :
    (s.accept p m values).watch.virt = s.watch.virt ∧
      ∀ k, (s.accept p m values).watch.entries.get k = (s.watch.entries.get k).map (fun e =>
        if e.source.onPort p = true ∧ (e.examinedOn p (s.port p)).state = .active
        then (e.examinedOn p (s.port p)).judged (e.sensorValue (values.map (clamp m.min m.max)))
        else e.examinedOn p (s.port p)) := by
  obtain ⟨-, -, -, hvirt, -, hentries⟩ := s.offeredBy_frame p (values.map (clamp m.min m.max))
  obtain ⟨e1, e2⟩ := evalEach_entries (s.offeredBy p (values.map (clamp m.min m.max))).watchFeed (Source.onPort p)
    (Watch.sensorValue (values.map (clamp m.min m.max))) (s.offeredBy p (values.map (clamp m.min m.max))).reach (by
      intro k e hk hon
      obtain ⟨e', he', rfl⟩ := Option.map_eq_some_iff.mp ((hentries k).symm.trans hk)
      rw [Watch.examinedOn_actions]
      refine h k e' he' ?_
      rw [← Watch.examinedOn_source p (s.port p) e']
      simp only [Watch.on, Bool.and_eq_true] at hon
      exact hon.2)
  rw [State.accept_eq values hq, State.withReach_watch]
  refine ⟨e1.trans hvirt, fun k => (e2 k).trans ?_⟩
  have hk : (s.offeredBy p (values.map (clamp m.min m.max))).reach.watch.entries.get k = _ := hentries k
  rw [hk, Option.map_map]
  refine congrArg (fun f => (s.watch.entries.get k).map f) (funext fun e => ?_)
  have hv : (e.examinedOn p (s.port p)).sensorValue (values.map (clamp m.min m.max)) =
      e.sensorValue (values.map (clamp m.min m.max)) := by
    unfold Watch.sensorValue
    rw [Watch.examinedOn_source]
  simp only [Function.comp_apply, Watch.examinedOn_source, hv]
  by_cases hon : e.source.onPort p = true ∧ (e.examinedOn p (s.port p)).state = .active
  · rw [if_pos hon, if_pos ⟨hon.2, hon.1⟩, Watch.evaluated_active _ _ hon.2]
    rfl
  · rw [if_neg hon, if_neg (fun hc => hon ⟨hc.2, hc.1⟩)]

/-! ### PASSIVE_SAMPLE and DATA_RECORD -/

theorem State.passiveSample_passive {s : State} {p : SensorPort} {m : ModeDesc} (v : Int)
    (hd : (s.port p).described = true) (hm : (s.port p).modeDesc = some m) (hs : (s.port p).smart = false) :
    s.passiveSample p v = s.accept p m [v] := by
  simp [State.passiveSample, hm, hd, hs]

theorem State.passiveSample_smart {s : State} {p : SensorPort} {m : ModeDesc} (v : Int)
    (hm : (s.port p).modeDesc = some m) (hs : (s.port p).smart = true) : s.passiveSample p v = s := by
  simp [State.passiveSample, hm, hs]

theorem State.dataRecord_eq {s : State} {p : SensorPort} {m : ModeDesc} (mode : Nat) (values : List Int)
    (hq : (s.port p).state = .ready ∨ (s.port p).state = .switching) (hm : (s.port p).modeDesc = some m)
    (hs : (s.port p).smart = true) :
    s.dataRecord p mode values =
      if mode = (s.port p).mode ∧ values.length = m.valueCount then s.accept p m values else s := by
  have hno : (s.port p).state ≠ .handshake := by rcases hq with h | h <;> simp [h]
  simp only [State.dataRecord, if_neg hno, hm, hs, Port.described_iff.mpr hq, true_and]

/-- Settles O37. -/
theorem readingsJoinTheRing : Obligations.ReadingsJoinTheRing := by
  unfold Obligations.ReadingsJoinTheRing
  intro p m s hs q hq hm joined here hears examined judged heard
  have hhere : here = Source.onPort p := by funext x; cases x <;> rfl
  have hexamined : examined = Watch.examinedOn p q := by
    have hhears : ∀ e, hears e = e.source.heardOn p q := fun e => by
      change (match e.source with | .sensor a md i => _ | _ => false) = _
      cases e.source <;> rfl
    funext e
    simp only [examined, Watch.examinedOn, hhears, hhere, Watch.cleared]
  have hjoined : ∀ values, joined values (s.accept p m values) := fun values => by
    have hports : (s.accept p m values).sensors.ports =
        s.sensors.ports.set p (q.heard.join s.now (values.map (clamp m.min m.max))) := by
      rw [State.accept_eq values hq, State.withReach_sensors, State.offeredBy_ports]
    have hport : (s.accept p m values).port p = q.heard.join s.now (values.map (clamp m.min m.max)) := by
      rw [State.port, hports, Eight.get_set_same]
    obtain ⟨h1, h2, h3, h4⟩ := s.offeredBy_rest p (values.map (clamp m.min m.max))
    refine ⟨by rw [hport]; rfl, by rw [hport]; rfl, by rw [hport]; rfl, by rw [hport]; rfl, by rw [hport]; rfl,
      by rw [hport]; rfl, fun p' hp' => by rw [State.port, hports, Eight.get_set_ne _ hp']; rfl, ?_, ?_, ?_, ?_⟩
    · rw [State.accept_eq values hq]; exact h1
    · rw [State.accept_eq values hq]; exact h2
    · rw [State.accept_eq values hq]; exact h3
    · rw [State.accept_eq values hq]; exact h4
  have hheard : ∀ values, heard values (s.accept p m values) := fun values => by
    have hsensors : (s.offeredBy p (values.map (clamp m.min m.max))).sensors = (s.accept p m values).sensors := by
      rw [State.accept_eq values hq, State.withReach_sensors]
    have hports : (s.accept p m values).sensors.ports =
        s.sensors.ports.set p (q.heard.join s.now (values.map (clamp m.min m.max))) := by
      rw [← hsensors, State.offeredBy_ports]
    obtain ⟨j1, j2, j3, j4, -, j5, j6⟩ := s.joinedBy_frame p (values.map (clamp m.min m.max))
    obtain ⟨o1, o2, o3, o4, o5, o6⟩ := s.offeredBy_frame p (values.map (clamp m.min m.max))
    dsimp only [heard]
    rw [hhere, hexamined]
    refine ⟨⟨s.offeredBy p (values.map (clamp m.min m.max)), o1, o2, o3, hsensors, o4, o5, o6,
      fun hc => s.offeredBy_store _ hc, ⟨s.joinedBy p (values.map (clamp m.min m.max)), j1, j2, j3, j4, ?_, ?_, rfl⟩,
      State.accept_eq values hq⟩, fun hplain => ?_⟩
    · rw [j6, hports]
    · rw [j5, State.readied_router]
      rfl
    · exact State.accept_entries values hq hplain
  have hdesc : q.described = true := Port.described_iff.mpr hq
  refine ⟨fun hsm v => ⟨_, next_whenAwake hs (State.passiveSample_passive v hdesc hm hsm), hjoined [v], hheard [v]⟩,
    fun hsm values hlen =>
      ⟨_, next_whenAwake hs ((State.dataRecord_eq _ _ hq hm hsm).trans (if_pos ⟨rfl, hlen⟩)), hjoined values, hheard values⟩,
    fun hsm mode values hbad => next_whenAwake hs ((State.dataRecord_eq _ _ hq hm hsm).trans (if_neg ?_)),
    fun hsm v => next_whenAwake hs (State.passiveSample_smart v hm hsm)⟩
  exact fun hok => hbad.elim (fun h => h hok.1) (fun h => h hok.2)

end Sys2Proof.Machine
end

section
/-! Evaluations of watch entries: which entries they leave EMPTY, the firing of one entry, and SET_VIRTUAL (R101 to R103,
R106, R107, R112). -/

namespace Sys2Proof.Machine

/-! ### No evaluation fills an EMPTY entry -/

/-- An evaluation that leaves the EMPTY entries EMPTY. -/
def keepsEmpty (ev : Evaluate) : Prop :=
  ∀ i v w k, w.watch.entries.get k = none → (ev i v w).1.watch.entries.get k = none

theorem Reach.update_empty {w : Reach} {k : WatchId} (i : WatchId) (g : Watch → Watch)
    (h : w.watch.entries.get k = none) : (w.update i g).watch.entries.get k = none := by
  rw [Reach.update_get]
  by_cases hk : k = i
  · rw [if_pos hk, ← hk, h]
    rfl
  · rw [if_neg hk, h]

theorem evalEach_empty {ev : Evaluate} (hev : keepsEmpty ev) (x : Source → Bool) (value : Watch → Int)
    (is : List WatchId) {w : Reach} {k : WatchId} (h : w.watch.entries.get k = none) :
    (evalEach ev x value is w).1.watch.entries.get k = none := by
  induction is generalizing w with
  | nil => exact h
  | cons i is ih =>
    simp only [evalEach]
    split
    · exact ih h
    · split
      · exact ih (hev _ _ _ _ h)
      · exact ih h

theorem performActions_empty (f : WatchFeed) {inner : Option Evaluate} (hin : ∀ ev ∈ inner, keepsEmpty ev)
    (i : WatchId) (v : Int) (as : List Action) {w : Reach} {k : WatchId} (h : w.watch.entries.get k = none) :
    (performActions f inner i v as w).1.watch.entries.get k = none := by
  induction as generalizing w with
  | nil => exact h
  | cons a as ih =>
    cases a with
    | brake ps => exact ih (w := (w.cut f .brake ps).1) h
    | coast ps => exact ih (w := (w.cut f .coast ps).1) h
    | play g x p => exact ih (w := (w.play f g x p).1) (by rw [(Reach.play_keeps f g x p w).1]; exact h)
    | stopVoices => exact ih (w := (w.stopVoices f).1) h
    | notify l c => exact ih (w := w.send _) h
    | setVirtual j b =>
      cases inner with
      | some ev => exact ih (evalEach_empty (hin ev rfl) _ _ _ (w := w.setInput j b) h)
      | none =>
        simp only [performActions, Reach.writeAction]
        by_cases hw : w.watch.watched j = true
        · simpa [hw] using Reach.update_empty i _ h
        · simp only [hw]
          exact ih (w := w.setInput j b) h

theorem evaluate_empty (f : WatchFeed) (depth : Nat) {inner : Option Evaluate} (hin : ∀ ev ∈ inner, keepsEmpty ev) :
    keepsEmpty (evaluate f depth inner) := by
  intro i v w k h
  simp only [evaluate]
  split
  · exact h
  · rename_i e _
    split
    · have hdone : (((performActions f inner i v (e.seen v).actions
          (w.update i (fun _ => { (e.seen v) with fires := min 65535 ((e.seen v).fires + 1) }))).1).update i
            Watch.afterFiring).watch.entries.get k = none :=
        Reach.update_empty _ _ (performActions_empty f hin i v _ (Reach.update_empty _ _ h))
      simp only [Reach.fire]
      repeat' split
      all_goals exact hdone
    · exact Reach.update_empty _ _ h

theorem evalWith_empty (f : WatchFeed) : ∀ n, keepsEmpty (evalWith f n)
  | 0 => evaluate_empty f 4 (by simp)
  | n + 1 => evaluate_empty f (3 - n) (by
      intro ev hev
      rw [Option.mem_some_iff] at hev
      exact hev ▸ evalWith_empty f n)

/-! ### One evaluation (R102, R103) -/

/-- The evaluation one depth deeper than one with `n` deeper levels (R106). -/
def innerWith (f : WatchFeed) (n : Nat) : Option Evaluate :=
  match n with
  | 0 => none
  | j + 1 => some (evalWith f j)

theorem evalWith_eq (f : WatchFeed) {n : Nat} (h : n ≤ 3) : evalWith f n = evaluate f (4 - n) (innerWith f n) := by
  cases n with
  | zero => rfl
  | succ n =>
    have hd : 3 - n = 4 - (n + 1) := by omega
    rw [evalWith, hd]
    rfl

theorem evaluate_holds (f : WatchFeed) (depth : Nat) (inner : Option Evaluate) {i : WatchId} {v : Int} {w : Reach}
    {e : Watch} (he : w.watch.entries.get i = some e) (hf : (e.seen v).fires? = false) :
    evaluate f depth inner i v w = (w.update i (fun _ => e.seen v), 0) := by
  simp only [evaluate, he, hf, Bool.false_eq_true, if_false]

theorem evaluate_fires (f : WatchFeed) (depth : Nat) (inner : Option Evaluate) {i : WatchId} {v : Int} {w : Reach}
    {e : Watch} (he : w.watch.entries.get i = some e) (hf : (e.seen v).fires? = true) :
    evaluate f depth inner i v w = w.fire f depth inner i v (e.seen v) := by
  simp only [evaluate, he, hf, if_true]

/-- R103 item 3, field by field. -/
theorem Watch.afterFiring_eq (y : Watch) :
    y.afterFiring =
      { y with state := if y.state = .active ∧ y.rearm = .once then .fired else y.state,
               latch := y.latch || (y.state == .active && y.rearm == .edge) } := by
  unfold Watch.afterFiring
  by_cases hs : y.state = .active
  · rw [if_pos hs]
    cases hr : y.rearm <;> simp [hs]
  · have hno : (y.state == .active) = false := by simpa using hs
    rw [if_neg hs, if_neg (fun h => hs h.1), hno, Bool.false_and, Bool.or_false]

/-- R107: a firing changes neither the notify link nor a LOOP. -/
theorem Watch.firedLink_afterFiring (y : Watch) :
    y.afterFiring.firedLink = if y.notify = none ∧ y.state = .disabled .loop then some .primary else y.notify := by
  rw [Watch.afterFiring_eq]
  unfold Watch.firedLink
  cases hn : y.notify with
  | some l => simp
  | none =>
    by_cases hs : y.state = .active
    · by_cases hr : y.rearm = .once <;> simp [hs, hr]
    · simp [hs]

theorem Reach.update_const {w : Reach} {i : WatchId} {y : Watch} (hy : w.watch.entries.get i = some y)
    (g : Watch → Watch) : w.update i g = w.update i (fun _ => g y) := by
  simp only [Reach.update, hy, Option.map_some]

/-- The actions of a firing, its count already risen (R103 item 1). -/
def Reach.performed (f : WatchFeed) (inner : Option Evaluate) (i : WatchId) (v : Int) (e : Watch) (w : Reach) :
    Reach × List ActionResult × Nat :=
  performActions f inner i v e.actions (w.update i (fun _ => { e with fires := min 65535 (e.fires + 1) }))

/-- A firing: the count, the actions, the state its rearm gives, then WATCH_FIRED (R103, R107). -/
theorem Reach.fire_eq (f : WatchFeed) (depth : Nat) (inner : Option Evaluate) (i : WatchId) (v : Int) (e : Watch)
    (w : Reach) {y : Watch} (hy : (w.performed f inner i v e).1.watch.entries.get i = some y) :
    (w.fire f depth inner i v e).1 =
      (match (if y.notify = none ∧ y.state = .disabled .loop then some .primary else y.notify : Option Link) with
        | some l =>
          ((w.performed f inner i v e).1.update i (fun _ => y.afterFiring)).send
            [{ link := l, notice := .watchFired i v depth y.afterFiring.state y.afterFiring.fires
                (w.performed f inner i v e).2.1 f.time }]
        | none => (w.performed f inner i v e).1.update i (fun _ => y.afterFiring)) := by
  have hget : ((w.performed f inner i v e).1.update i Watch.afterFiring).watch.entries.get i = some y.afterFiring := by
    rw [Reach.update_get, if_pos rfl, hy]
    rfl
  rw [← Watch.firedLink_afterFiring, ← Reach.update_const hy]
  unfold Reach.fire
  dsimp only
  rw [show performActions f inner i v e.actions (w.update i fun _ => { e with fires := min 65535 (e.fires + 1) }) =
    w.performed f inner i v e from rfl, hget]
  dsimp only
  cases y.afterFiring.firedLink <;> rfl

theorem Reach.fire_count (f : WatchFeed) (depth : Nat) (inner : Option Evaluate) (i : WatchId) (v : Int) (e : Watch)
    (w : Reach) : (w.fire f depth inner i v e).2 = (w.performed f inner i v e).2.2 + 1 := by
  simp only [Reach.fire]
  split
  · rfl
  · split <;> rfl

/-! ### SET_VIRTUAL (R101, R112) -/

/-- What SET_VIRTUAL evaluates: the entries on the input, once the value is stored. -/
def Reach.inputWritten (f : WatchFeed) (i : VirtualId) (v : Int) (w : Reach) : Reach × Nat × Nat :=
  evalEach (evalWith f 3) (watchesInput i) (fun _ => v) Num16.all (w.setInput i v)

theorem intValue_inRange {fs : Fields} {v : Int} (h : intField 2 fs = .val v) (hlo : -2147483648 ≤ v)
    (hhi : v ≤ 2147483647) :
    (intField 2 fs).check .field (fun v => if outside (-2147483648) 2147483647 v then none else some v) = .val v := by
  have ho : outside (-2147483648) 2147483647 v = false := by simp [outside, hlo, hhi]
  rw [h, Val.check_val, ho]
  rfl

theorem State.setVirtual_of {fs : Fields} {i : VirtualId} {v : Int} (s : State)
    (hi : natField 1 fs = .val i.num) (hv : intField 2 fs = .val v) (hlo : -2147483648 ≤ v) (hhi : v ≤ 2147483647) :
    s.setVirtual fs =
      (s.withReach (s.reach.inputWritten s.watchFeed i v).1,
        .plain .ok (fieldNat 1 1 (s.reach.inputWritten s.watchFeed i v).2.1 ++
          fieldNat 2 2 (s.reach.inputWritten s.watchFeed i v).2.2)) := by
  have hc : (natField 1 fs).check .input Num8.ofNum = .val i := by rw [hi]; exact Val.check_val_some _ (Num8.ofNum_num i)
  simp only [State.setVirtual, Reach.setVirtual, hc, intValue_inRange hv hlo hhi]
  rfl

/-- Nothing watches the input: the value is stored, and nothing is evaluated. -/
theorem Reach.inputWritten_unwatched {w : Reach} {i : VirtualId} (f : WatchFeed) (v : Int)
    (h : w.watch.watched i = false) : w.inputWritten f i v = (w.setInput i v, 0, 0) := by
  refine evalEach_quiet _ _ _ _ _ fun k e he => ?_
  have hk := (List.any_eq_false.mp h) k (Num16.mem_all k)
  have he' : w.watch.entries.get k = some e := he
  rw [he'] at hk
  simpa using hk

/-- Settles O46. -/
theorem setVirtualStoresAndEvaluates : Obligations.SetVirtualStoresAndEvaluates := by
  unfold Obligations.SetVirtualStoresAndEvaluates
  refine ⟨fun r fs i v s ha hf hi hv hlo hhi => ?request, fun ev x value k ks w => ⟨rfl, fun e he hs hx => ?taken,
    fun h => ?passed⟩, fun f n k v e w hn he => ⟨fun h => ?holds, fun h => ⟨?count, fun y hy => ?fires⟩⟩,
    fun f n k v i b as w => ⟨rfl, rfl, fun h => ?looped, fun h => ?deepest⟩⟩
  case request =>
    have hexec : exec (.setVirtual r) s = .next (((s.entered 0x34 r).withReach
        ((s.entered 0x34 r).reach.inputWritten s.watchFeed i v).1).replied 0x34 r
        (.plain .ok (fieldNat 1 1 ((s.entered 0x34 r).reach.inputWritten s.watchFeed i v).2.1 ++
          fieldNat 2 2 ((s.entered 0x34 r).reach.inputWritten s.watchFeed i v).2.2))) := by
      refine congrArg Host.Outcome.next (takeRequest_onFields ha hf ((State.setVirtual_of _ hi hv hlo hhi).trans ?_))
      rw [State.entered_watchFeed]
    have hwatch : (s.entered 0x34 r).reach.watch = s.watch := State.entered_watch s 0x34 r
    refine ⟨fun hw => ?_, ⟨_, hexec, ?_, ?_, ?_, ?_, fun k hk => ?_⟩, hexec, fun hplain => ⟨_, hexec, ?_⟩⟩
    · rw [hexec, Reach.inputWritten_unwatched _ _ (by rw [hwatch]; exact hw)]
      congr 2
      rw [Reach.setInput, hwatch]
      rfl
    · rw [State.replied_sensors, State.withReach_sensors, State.entered_sensors]
    · rw [State.replied_store, State.withReach_store, State.entered_store]
    · rw [State.replied_supply, State.withReach_supply, State.entered_supply]
    · rw [State.replied_watch, State.withReach_watch, Reach.inputWritten, evalEach_counts (evalWith_counts _ 3)]
      change (s.entered 0x34 r).reach.watch.scanEnc = _
      rw [hwatch]
    · rw [State.replied_watch, State.withReach_watch]
      exact evalEach_empty (evalWith_empty _ 3) _ _ _ (by rw [← hk, ← hwatch]; rfl)
    · have hent : ((s.entered 0x34 r).reach.setInput i v).watch.entries = s.watch.entries := by
        change (s.entered 0x34 r).reach.watch.entries = _
        rw [hwatch]
      have hvirt : ((s.entered 0x34 r).reach.setInput i v).watch.virt = s.watch.virt.set i v :=
        congrArg (fun u : WatchUnit => u.virt.set i v) hwatch
      obtain ⟨hcount, hfirings, ⟨hk1, -, hk2⟩, hentry⟩ := evalEach_plain s.watchFeed (3 - 2)
        (some (evalWith s.watchFeed 2)) (watchesInput i) (fun _ => v) Num16.all ((s.entered 0x34 r).reach.setInput i v)
        (by decide) (fun k e he hon => by
          rw [hent] at he
          exact hplain k e he (by dsimp only; rw [he]; exact hon))
      dsimp only at hentry
      rw [hent] at hcount hfirings hentry
      refine ⟨?_, fun k hoff => ?_, fun k e he hon => ?_, fun hask => ?_⟩
      · rw [State.replied_watch, State.withReach_watch]
        exact hk1.trans hvirt
      · rw [State.replied_watch, State.withReach_watch]
        refine (hentry k).trans (if_neg fun h => ?_)
        rw [show ((s.watch.entries.get k).any (Watch.on (watchesInput i))) = false from hoff] at h
        exact Bool.false_ne_true h.2
      · have hactive : e.state = .active := by
          simp only [he, Option.any_some, Bool.and_eq_true, beq_iff_eq] at hon
          exact hon.1
        have hfire : (((s.watch.entries.get k).any (fun e => e.state == .active && e.source == .virt i)) &&
            (s.watch.entries.get k).any (fun e => (e.seen v).fires?)) = (e.seen v).fires? := by
          rw [show ((s.watch.entries.get k).any (fun e => e.state == .active && e.source == .virt i)) = true from hon, he]
          simp
        rw [State.replied_watch, State.withReach_watch]
        refine (hentry k).trans ((if_pos ⟨Num16.mem_all k, hon⟩).trans ?_)
        dsimp only
        simp only [hfire]
        rw [he, Option.map_some, Watch.evaluated_active e v hactive]
      · refine (State.replied_router_replies _ hask ((hk2 r.link).trans (State.entered_replies s _ _ _))).trans ?_
        rw [show ((s.entered 0x34 r).reach.inputWritten s.watchFeed i v).2.1 = _ from hcount,
          show ((s.entered 0x34 r).reach.inputWritten s.watchFeed i v).2.2 = _ from hfirings]
        rfl
  case taken =>
    have hon : e.on x = true := by simp [Watch.on, hs, hx]
    simp only [evalEach, he, hon, if_true]
  case passed =>
    cases he : w.watch.entries.get k with
    | none => simp only [evalEach, he]
    | some e =>
      have hon : e.on x = false := by rcases h e he with h | h <;> simp [Watch.on, h]
      simp only [evalEach, he, hon, Bool.false_eq_true, if_false]
  case holds =>
    rw [evalWith_eq f hn]
    exact evaluate_holds f _ _ he h
  case count =>
    rw [evalWith_eq f hn, evaluate_fires f _ _ he h]
    exact Reach.fire_count _ _ _ _ _ _ _
  case fires =>
    rw [evalWith_eq f hn, evaluate_fires f _ _ he h]
    refine (Reach.fire_eq f (4 - n) (innerWith f n) k v (e.seen v) w hy).trans ?_
    rw [Watch.afterFiring_eq]
    rfl
  case looped => simp only [performActions, Reach.writeAction, h, if_true]
  case deepest => simp only [performActions, Reach.writeAction, h, Bool.false_eq_true, if_false, Nat.zero_add]

end Sys2Proof.Machine
end

section
/-! The requests on watch entries, their checks, and how the composite fields of WATCH_SET are read (R108 to R110). -/

namespace Sys2Proof.Machine

/-! ### A request on the watch unit -/

section
variable {s : State} {ch : Byte} {r : Req} {fs : Fields} {y : Reply} {u : WatchUnit}
  (act : Eight Port → Link → Fields → WatchUnit → WatchAnswer)

theorem takeRequest_watch (ha : s.admits r.link ch = true) (hf : decodeFields r.payload = some fs)
    (h : act s.sensors.ports r.link fs s.watch = { watch := u, reply := y }) :
    s.takeRequest ch (onFields (fun l fs s => s.watchOutcome (act s.sensors.ports l fs s.watch))) r =
      State.replied { s.entered ch r with watch := u } ch r y := by
  have h' : act (s.entered ch r).sensors.ports r.link fs (s.entered ch r).watch = { watch := u, reply := y } := by
    rw [State.entered_sensors, State.entered_watch, h]
  exact takeRequest_onFields ha hf (congrArg (s.entered ch r).watchOutcome h')

theorem State.entered_withWatch (s : State) (ch : Byte) (r : Req) :
    { s.entered ch r with watch := s.watch } = s.entered ch r := by
  have h : { s.entered ch r with watch := s.watch } = { s.entered ch r with watch := (s.entered ch r).watch } := by
    rw [State.entered_watch]
  exact h

theorem takeRequest_watch_refused (ha : s.admits r.link ch = true) (hf : decodeFields r.payload = some fs)
    (h : act s.sensors.ports r.link fs s.watch = WatchAnswer.none s.watch y) :
    s.takeRequest ch (onFields (fun l fs s => s.watchOutcome (act s.sensors.ports l fs s.watch))) r =
      (s.entered ch r).replied ch r y := by
  rw [takeRequest_watch act ha hf h, State.entered_withWatch]

end

/-! ### The requests on one entry (R108 to R110) -/

@[simp] theorem Num16.ofNum_num (i : Num16) : Num16.ofNum i.num = some i := by cases i <;> rfl

section
variable {u : WatchUnit} {l : Link} {fs : Fields} {i : WatchId}

theorem watchIdField_of (h : natField 1 fs = .val i.num) : watchIdField fs = .val i := by
  rw [watchIdField, h]
  exact Val.check_val_some _ (Num16.ofNum_num i)

theorem deniedOn_true {e : Watch} (hl : l = .remote) (he : e.owner = .primary) : deniedOn l (some e) = true := by
  simp [deniedOn, hl, he]

theorem deniedOn_false {o : Option Watch} (h : l = .primary ∨ ∀ e, o = some e → e.owner = .remote) :
    deniedOn l o = false := by
  rcases h with rfl | h
  · rfl
  · cases o with
    | none => simp [deniedOn]
    | some e => simp [deniedOn, h e rfl]

theorem WatchUnit.onEntry_denied (act : WatchId → Option Watch → WatchAnswer) (h : natField 1 fs = .val i.num)
    (hd : deniedOn l (u.entries.get i) = true) :
    u.onEntry l fs [] act = WatchAnswer.none u (Reply.refuse .denied) := by
  simp only [WatchUnit.onEntry, watchIdField_of h, hd, ne_eq, not_true_eq_false, if_false, if_true]

theorem WatchUnit.onEntry_allowed (act : WatchId → Option Watch → WatchAnswer) (h : natField 1 fs = .val i.num)
    (hd : deniedOn l (u.entries.get i) = false) : u.onEntry l fs [] act = act i (u.entries.get i) := by
  simp only [WatchUnit.onEntry, watchIdField_of h, hd, ne_eq, not_true_eq_false, if_false, Bool.false_eq_true]

theorem WatchUnit.set_of (ports : Eight Port) (h : natField 1 fs = .val i.num) :
    u.set ports l fs =
      if deniedOn l (u.entries.get i) then WatchAnswer.none u (Reply.refuse .denied)
      else if (WatchFields.read fs).bad ≠ [] then WatchAnswer.none u (.invalid (WatchFields.read fs).bad)
      else { watch := u.setEntry i (some (((WatchFields.read fs).entry l).activated ports)),
             reply := .plain .ok (stateField (some (((WatchFields.read fs).entry l).activated ports))) } := by
  simp only [WatchUnit.set, h, Num16.ofNum_num]

theorem WatchUnit.set_denied (ports : Eight Port) (h : natField 1 fs = .val i.num)
    (hd : deniedOn l (u.entries.get i) = true) : u.set ports l fs = WatchAnswer.none u (Reply.refuse .denied) := by
  rw [WatchUnit.set_of ports h, if_pos hd]

theorem WatchUnit.set_bad (ports : Eight Port) (h : natField 1 fs = .val i.num)
    (hd : deniedOn l (u.entries.get i) = false) (hb : (WatchFields.read fs).bad ≠ []) :
    u.set ports l fs = WatchAnswer.none u (.invalid (WatchFields.read fs).bad) := by
  rw [WatchUnit.set_of ports h, if_neg (by simp [hd]), if_pos hb]

theorem WatchUnit.set_ok (ports : Eight Port) (h : natField 1 fs = .val i.num)
    (hd : deniedOn l (u.entries.get i) = false) (hb : (WatchFields.read fs).bad = []) :
    u.set ports l fs =
      { watch := u.setEntry i (some (((WatchFields.read fs).entry l).activated ports)),
        reply := .plain .ok (stateField (some (((WatchFields.read fs).entry l).activated ports))) } := by
  rw [WatchUnit.set_of ports h, if_neg (by simp [hd]), if_neg (by simp [hb])]

/-- R109: what WATCH_REARM does to the entry it finds. -/
theorem WatchUnit.rearm_allowed (ports : Eight Port) (h : natField 1 fs = .val i.num)
    (hd : deniedOn l (u.entries.get i) = false) :
    u.rearm ports l fs =
      (match u.entries.get i with
        | none => WatchAnswer.none u (.invalid [.state])
        | some e =>
          match e.state with
          | .fired => u.put i (e.activated ports)
          | .active => u.put i (if e.rearm = .edge then e.cleared else e)
          | .dormant => u.put i e
          | .disabled _ => WatchAnswer.none u (.invalid [.state])) :=
  WatchUnit.onEntry_allowed _ h hd

theorem flagField_of {k : Nat} {b : Bool} (h : flagField k fs = .val b) :
    (flagField k fs).need = [] ∧ (flagField k fs).get?.getD false = b := by
  rw [h]
  exact ⟨rfl, rfl⟩

/-- R110: what WATCH_ENABLE does to the entry it finds. -/
theorem WatchUnit.enable_allowed (ports : Eight Port) {b : Bool} (h : natField 1 fs = .val i.num)
    (hb : flagField 2 fs = .val b) (hd : deniedOn l (u.entries.get i) = false) :
    u.enable ports l fs =
      (match u.entries.get i with
        | none => WatchAnswer.none u (.invalid [.state])
        | some e => u.put i (e.enabled ports b)) := by
  obtain ⟨hneed, hget⟩ := flagField_of hb
  unfold WatchUnit.enable
  dsimp only
  rw [hneed, hget]
  exact WatchUnit.onEntry_allowed _ h hd

end

theorem Watch.enabled_yes {e : Watch} (ports : Eight Port) (h : ∀ w, e.state ≠ .disabled w) : e.enabled ports true = e := by
  unfold Watch.enabled
  split
  · rename_i w hw _; exact absurd hw (h w)
  · rename_i w hw _; exact absurd hw (h w)
  · rfl
  · contradiction

theorem Watch.enabled_no {e : Watch} (ports : Eight Port) (h : ∀ w, e.state ≠ .disabled w) :
    e.enabled ports false = { e.cleared with state := .disabled .byRequest } := by
  unfold Watch.enabled
  split
  · rename_i w hw _; exact absurd hw (h w)
  · rename_i w hw _; exact absurd hw (h w)
  · contradiction
  · rfl

theorem Watch.enabled_disabled {e : Watch} (ports : Eight Port) {w : DisabledReason} (b : Bool) (h : e.state = .disabled w) :
    e.enabled ports b = if b then e.activated ports else { e with state := .disabled .byRequest } := by
  cases b <;> simp [Watch.enabled, h]

/-! ### The fields of WATCH_SET -/

section
variable {α : Type} {c d : Check} {k : Nat} {parse : List Byte → Composite α} {fs : Fields}

/-- R173: a composite field is absent, too short, refused by its parts, or read. -/
theorem compositeField_cases (c : Check) (k : Nat) (parse : List Byte → Composite α) (fs : Fields) :
    (fieldValue k fs = none ∧ compositeField c k parse fs = .absent) ∨
      (∃ v, fieldValue k fs = some v ∧ parse v = .short ∧ compositeField c k parse fs = .bad .field) ∨
      (∃ v, fieldValue k fs = some v ∧ parse v = .invalid ∧ compositeField c k parse fs = .bad c) ∨
      ∃ v a, fieldValue k fs = some v ∧ parse v = .val a ∧ compositeField c k parse fs = .val a := by
  unfold compositeField
  cases hv : fieldValue k fs with
  | none => simp
  | some v => cases hp : parse v <;> simp [hp]

theorem mem_needAs_composite (hc : c ≠ .field) :
    c ∈ (compositeField c k parse fs).needAs c ↔
      fieldValue k fs = none ∨ ∃ v, fieldValue k fs = some v ∧ parse v = .invalid := by
  rcases compositeField_cases c k parse fs with ⟨h1, h2⟩ | ⟨v, h1, h2, h3⟩ | ⟨v, h1, h2, h3⟩ | ⟨v, a, h1, h2, h3⟩
  · simp [h1, h2, Val.needAs]
  · simp [h1, h2, h3, Val.needAs, hc]
  · simp [h1, h2, h3, Val.needAs]
  · simp [h1, h2, h3, Val.needAs]

/-- The other checks never come of a composite field. -/
theorem not_mem_needAs_composite (hd : d ≠ c) (hf : d ≠ .field) : d ∉ (compositeField c k parse fs).needAs c := by
  rcases compositeField_cases c k parse fs with ⟨h1, h2⟩ | ⟨v, h1, h2, h3⟩ | ⟨v, h1, h2, h3⟩ | ⟨v, a, h1, h2, h3⟩
  · simp [h2, Val.needAs, hd]
  · simp [h3, Val.needAs, hf]
  · simp [h3, Val.needAs, hd]
  · simp [h3, Val.needAs]

theorem compositeField_val {a : α} (h : compositeField c k parse fs = .val a) :
    ∃ v, fieldValue k fs = some v ∧ parse v = .val a := by
  rcases compositeField_cases c k parse fs with ⟨h1, h2⟩ | ⟨v, h1, h2, h3⟩ | ⟨v, h1, h2, h3⟩ | ⟨v, b, h1, h2, h3⟩
  · rw [h2] at h; cases h
  · rw [h3] at h; cases h
  · rw [h3] at h; cases h
  · rw [h3] at h; cases h; exact ⟨v, h1, h2⟩

theorem compositeField_eq_val_iff {a : α} :
    compositeField c k parse fs = .val a ↔ ∃ v, fieldValue k fs = some v ∧ parse v = .val a := by
  refine ⟨compositeField_val, ?_⟩
  rintro ⟨v, hv, hp⟩
  simp [compositeField, hv, hp]

theorem compositeField_of_needAs (h : (compositeField c k parse fs).needAs c = []) :
    ∃ a, compositeField c k parse fs = .val a := by
  cases hx : compositeField c k parse fs with
  | absent => rw [hx] at h; cases h
  | bad d => rw [hx] at h; cases h
  | val a => exact ⟨a, rfl⟩

end

section
variable {α : Type} {c d : Check} {k : Nat} {f : Nat → Option α} {fs : Fields}

/-- An optional field under a check of its rule fails it exactly on the numbers that its test refuses. -/
theorem mem_fails_check (hc : c ≠ .field) :
    c ∈ ((natField k fs).check c f).fails ↔ ∃ n, natField k fs = .val n ∧ f n = none := by
  cases hk : natField k fs with
  | absent => simp [Val.check, Val.fails]
  | bad x => simp [natField_bad hk, Val.check, Val.fails, hc]
  | val n => cases hf : f n <;> simp [Val.check, Val.fails, hf]

theorem not_mem_fails_check (hd : d ≠ c) (hf : d ≠ .field) : d ∉ ((natField k fs).check c f).fails := by
  cases hk : natField k fs with
  | absent => simp [Val.check, Val.fails]
  | bad x => simp [natField_bad hk, Val.check, Val.fails, hf]
  | val n => cases hx : f n <;> simp [Val.check, Val.fails, hx, hd]

theorem not_mem_natField_fails (hf : d ≠ .field) : d ∉ (natField k fs).fails := fun h => hf (natField_fails h)

end

theorem linkOfCode_eq_none {n : Nat} : linkOfCode n = none ↔ 1 < n := by
  rcases n with _ | _ | n <;> simp [linkOfCode]

theorem rearmOfCode_eq_none {n : Nat} : rearmOfCode n = none ↔ 1 < n := by
  rcases n with _ | _ | n <;> simp [rearmOfCode]

theorem outsideNat_eq_true {lo hi n : Nat} : outsideNat lo hi n = true ↔ n < lo ∨ hi < n := by simp [outsideNat]

theorem mem_badActions {as : List (Composite Action)} {d : Check} (hd : d ≠ .field) :
    d ∈ badActions as ↔ d = .actions ∧ (as = [] ∨ 3 < as.length ∨ .invalid ∈ as) := by
  unfold badActions
  by_cases h : as = [] ∨ 3 < as.length ∨ as.contains .invalid = true
  · rw [if_pos h]
    have h' : as = [] ∨ 3 < as.length ∨ .invalid ∈ as := by simpa using h
    split <;> simp [hd, h']
  · rw [if_neg h]
    have h' : ¬(as = [] ∨ 3 < as.length ∨ .invalid ∈ as) := by simpa using h
    split <;> simp [hd, h']

/-- The check of the bounds (R108). -/
theorem badBounds_iff {h : Nat} {c : Comparison} :
    badBounds h c = true ↔
      ∃ lo hi, (c = .inside lo hi ∧ hi < lo) ∨ (c = .outside lo hi ∧ (hi < lo ∨ hi - lo < 2 * (h : Int))) := by
  cases c <;> simp [badBounds]

theorem parsedBounds_iff {h : Nat} {v : List Byte} :
    (∃ c, parseComparison v = .val c ∧ badBounds h c = true) ↔
      ∃ lo hi, (parseComparison v = .val (.inside lo hi) ∧ hi < lo) ∨
        (parseComparison v = .val (.outside lo hi) ∧ (hi < lo ∨ hi - lo < 2 * (h : Int))) := by
  simp only [badBounds_iff]
  constructor
  · rintro ⟨c, hp, lo, hi, ⟨rfl, hb⟩ | ⟨rfl, hb⟩⟩
    · exact ⟨lo, hi, .inl ⟨hp, hb⟩⟩
    · exact ⟨lo, hi, .inr ⟨hp, hb⟩⟩
  · rintro ⟨lo, hi, ⟨hp, hb⟩ | ⟨hp, hb⟩⟩
    · exact ⟨_, hp, lo, hi, .inl ⟨rfl, hb⟩⟩
    · exact ⟨_, hp, lo, hi, .inr ⟨rfl, hb⟩⟩

/-- No failed check but the four of R108 is other than FIELD. -/
theorem WatchFields.mem_bad {fs : Fields} {d : Check} (hd : d ≠ .field) :
    d ∈ (WatchFields.read fs).bad ↔
      (d = .source ∧ (fieldValue 2 fs = none ∨ ∃ v, fieldValue 2 fs = some v ∧ parseSource v = .invalid)) ∨
      (d = .comparison ∧ (fieldValue 3 fs = none ∨ ∃ v, fieldValue 3 fs = some v ∧
        (parseComparison v = .invalid ∨
          ∃ c, parseComparison v = .val c ∧ badBounds ((natField 4 fs).get?.getD 0) c = true))) ∨
      (d = .range ∧ ((∃ n, natField 4 fs = .val n ∧ 65535 < n) ∨ (∃ n, natField 5 fs = .val n ∧ (n < 1 ∨ 50 < n)) ∨
        (∃ n, natField 6 fs = .val n ∧ 1 < n) ∨ ∃ n, natField 8 fs = .val n ∧ 1 < n)) ∨
      (d = .actions ∧ (fieldValues 7 fs = [] ∨ 3 < (fieldValues 7 fs).length ∨
        ∃ v ∈ fieldValues 7 fs, parseAction v = .invalid)) := by
  have hbounds : (∃ c, (compositeField .comparison 3 parseComparison fs) = .val c ∧
      badBounds ((natField 4 fs).get?.getD 0) c = true) ↔
      ∃ v, fieldValue 3 fs = some v ∧ ∃ c, parseComparison v = .val c ∧
        badBounds ((natField 4 fs).get?.getD 0) c = true := by
    simp only [compositeField_eq_val_iff]
    constructor
    · rintro ⟨c, ⟨v, hv, hp⟩, hb⟩; exact ⟨v, hv, c, hp, hb⟩
    · rintro ⟨v, hv, c, hp, hb⟩; exact ⟨c, ⟨v, hv, hp⟩, hb⟩
  have hactions : actionValues fs = [] ∨ 3 < (actionValues fs).length ∨ .invalid ∈ actionValues fs ↔
      fieldValues 7 fs = [] ∨ 3 < (fieldValues 7 fs).length ∨ ∃ v ∈ fieldValues 7 fs, parseAction v = .invalid := by
    simp [actionValues]
  simp only [WatchFields.bad, WatchFields.read, List.mem_append, Val.mem_violates, hbounds, mem_badActions hd, hactions,
    not_mem_natField_fails hd, enumFieldAs, or_false, decide_eq_true_eq, outsideNat_eq_true]
  by_cases h1 : d = .source
  · subst h1
    simp [mem_needAs_composite, not_mem_needAs_composite, not_mem_fails_check]
  · by_cases h2 : d = .comparison
    · subst h2
      simp only [mem_needAs_composite hd, not_mem_needAs_composite (show Check.comparison ≠ .source by decide) hd,
        not_mem_fails_check (show Check.comparison ≠ .range by decide) hd]
      simp only [reduceCtorEq, false_and, or_false, false_or, true_and, and_or_left, exists_or, or_assoc]
    · by_cases h3 : d = .range
      · subst h3
        simp [mem_fails_check, not_mem_needAs_composite, linkOfCode_eq_none, rearmOfCode_eq_none, or_assoc]
      · simp [not_mem_needAs_composite h1 hd, not_mem_needAs_composite h2 hd, not_mem_fails_check h3 hd, h1, h2, h3]

/-- The failures of a WATCH_SET that passes are none, field by field. -/
theorem WatchFields.bad_nil {fs : Fields} (h : (WatchFields.read fs).bad = []) :
    (∃ x, compositeField .source 2 parseSource fs = .val x) ∧
      (∃ c, compositeField .comparison 3 parseComparison fs = .val c) ∧ badActions (actionValues fs) = [] := by
  simp only [WatchFields.bad, WatchFields.read, List.append_eq_nil_iff] at h
  obtain ⟨⟨⟨⟨⟨⟨⟨⟨⟨hsource, hcmp⟩, -⟩, -⟩, -⟩, -⟩, -⟩, -⟩, -⟩, hactions⟩ := h
  exact ⟨compositeField_of_needAs hsource, compositeField_of_needAs hcmp, hactions⟩

/-- Actions that all decoded are those that the entry takes. -/
theorem goodActions_map {as : List (Composite Action)} (hs : .short ∉ as) (hi : .invalid ∉ as) :
    as = (goodActions as).map Composite.val := by
  induction as with
  | nil => rfl
  | cons a as ih =>
    simp only [List.mem_cons, not_or] at hs hi
    cases a with
    | short => exact absurd rfl hs.1
    | invalid => exact absurd rfl hi.1
    | val a => rw [goodActions, List.map_cons, ← ih hs.2 hi.2]

theorem badActions_nil {as : List (Composite Action)} (h : badActions as = []) : .short ∉ as ∧ .invalid ∉ as := by
  unfold badActions at h
  obtain ⟨h1, h2⟩ := List.append_eq_nil_iff.mp h
  constructor
  · intro hm
    rw [if_pos (by simpa using hm)] at h2
    cases h2
  · intro hm
    rw [if_pos (.inr (.inr (by simpa using hm)))] at h1
    cases h1

/-! ### The parts of a composite value (R173) -/

theorem Num8.ofNum_of_num {i : Num8} {n : Nat} (h : i.num = n) : Num8.ofNum n = some i := by rw [← h, Num8.ofNum_num]

theorem MotorPort.ofCode_code (p : MotorPort) : MotorPort.ofCode p.code = some p := by cases p <;> rfl

theorem MotorPort.ofCode_eq_none {n : Nat} : MotorPort.ofCode n = none ↔ 5 < n := by
  rcases n with _ | _ | _ | _ | _ | _ | n <;> simp [MotorPort.ofCode]

theorem quantityOfCode_eq_none {n : Nat} : quantityOfCode n = none ↔ 3 < n := by
  rcases n with _ | _ | _ | _ | n <;> simp [quantityOfCode]

theorem motorPorts_eq_none {bs : List Byte} : motorPorts bs = none ↔ ∃ y ∈ bs, 5 < y.toNat := by
  induction bs with
  | nil => simp [motorPorts]
  | cons b bs ih =>
    rw [List.exists_mem_cons_iff, ← MotorPort.ofCode_eq_none, ← ih]
    cases hb : MotorPort.ofCode b.toNat <;> cases hbs : motorPorts bs <;> simp [motorPorts, hb, hbs]

theorem motorPorts_eq_nil {bs : List Byte} : motorPorts bs = some [] ↔ bs = [] := by
  cases bs with
  | nil => simp [motorPorts]
  | cons b bs => cases hb : MotorPort.ofCode b.toNat <;> cases hbs : motorPorts bs <;> simp [motorPorts, hb, hbs]

theorem motorPorts_portBytes (ps : List MotorPort) : motorPorts (portBytes ps) = some ps := by
  induction ps with
  | nil => rfl
  | cons p ps ih =>
    have hp : (byte p.code).toNat = p.code := by cases p <;> rfl
    change (match MotorPort.ofCode (byte p.code).toNat, motorPorts (portBytes ps) with
      | some p, some ps => some (p :: ps)
      | _, _ => none) = _
    rw [hp, MotorPort.ofCode_code, ih]

/-- BRAKE and COAST read one port from each byte (06 6.4). -/
theorem parseAction_ports {k : Byte} (f : List MotorPort → Action) (rest : List Byte)
    (hk : (k = 0 ∧ f = Action.brake) ∨ (k = 1 ∧ f = Action.coast)) :
    parseAction (k :: rest) =
      (match motorPorts rest with
        | some qs => if qs = [] then .invalid else .val (f (portSet qs))
        | none => .invalid) := by
  rcases hk with ⟨rfl, rfl⟩ | ⟨rfl, rfl⟩ <;> rfl

theorem parseAction_ports_invalid {k : Byte} (rest : List Byte) (hk : k = 0 ∨ k = 1) :
    parseAction (k :: rest) = .invalid ↔ rest = [] ∨ ∃ y ∈ rest, 5 < y.toNat := by
  have hf : ∃ f, (k = 0 ∧ f = Action.brake) ∨ (k = 1 ∧ f = Action.coast) := by
    rcases hk with h | h
    · exact ⟨_, .inl ⟨h, rfl⟩⟩
    · exact ⟨_, .inr ⟨h, rfl⟩⟩
  obtain ⟨f, hf⟩ := hf
  rw [parseAction_ports f rest hf, ← motorPorts_eq_nil, ← motorPorts_eq_none]
  cases hp : motorPorts rest with
  | none => simp
  | some qs => cases qs <;> simp

theorem parseAction_portBytes {k : Byte} (f : List MotorPort → Action) {ps : List MotorPort} (hps : ps ≠ [])
    (hk : (k = 0 ∧ f = Action.brake) ∨ (k = 1 ∧ f = Action.coast)) :
    parseAction (k :: portBytes ps) = .val (f (portSet ps)) := by
  rw [parseAction_ports f _ hk, motorPorts_portBytes]
  exact if_neg hps

theorem parseComparison_invalid (k : Byte) (rest : List Byte) :
    parseComparison (k :: rest) = .invalid ↔ 5 < k.toNat := by
  simp only [parseComparison]
  generalize k.toNat = n
  match n with
  | 0 | 1 | 2 | 3 | 4 => simp; split <;> simp
  | 5 => simp
  | n + 6 => simp

theorem parseAction_kind {k : Byte} (rest : List Byte) (h : 5 < k.toNat) : parseAction (k :: rest) = .invalid := by
  obtain ⟨n, hn⟩ := Nat.exists_eq_add_of_lt h
  simp only [parseAction, hn, Nat.add_comm 5]

theorem parseSource_kind {k : Byte} (rest : List Byte) (h : 4 < k.toNat) : parseSource (k :: rest) = .invalid := by
  obtain ⟨n, hn⟩ := Nat.exists_eq_add_of_lt h
  simp only [parseSource, hn, Nat.add_comm 4]

theorem parseSource_sensor (a b c : Byte) :
    parseSource [0, a, b, c] =
      (match Num8.ofNum a.toNat with
        | some q => if b.toNat ≤ 7 ∧ c.toNat ≤ 3 then .val (.sensor q b.toNat c.toNat) else .invalid
        | none => .invalid) := rfl

theorem parseSource_motor (a b : Byte) :
    parseSource [1, a, b] =
      (match MotorPort.ofCode a.toNat, quantityOfCode b.toNat with
        | some p, some q => .val (.motor p q)
        | _, _ => .invalid) := rfl

theorem parseSource_virt (a : Byte) :
    parseSource [2, a] = (match Num8.ofNum a.toNat with | some i => .val (.virt i) | none => .invalid) := rfl

theorem parseSource_cue (a : Byte) :
    parseSource [3, a] = if 1 ≤ a.toNat ∧ a.toNat ≤ 24 then .val (.cue a.toNat) else .invalid := rfl

theorem parseAction_play (a b c : Byte) :
    parseAction [2, a, b, c] =
      if 1 ≤ a.toNat ∧ a.toNat ≤ 24 ∧ c.toNat ≤ 7 then .val (.play a.toNat b.toNat c.toNat) else .invalid := rfl

theorem parseAction_setVirtual (a b : Byte) :
    parseAction [4, a, b] =
      (match Num8.ofNum a.toNat with
        | some j => if b.toNat ≤ 1 then .val (.setVirtual j b.toNat) else .invalid
        | none => .invalid) := rfl

theorem parseAction_notify (a b : Byte) :
    parseAction [5, a, b] =
      (match linkOfCode a.toNat with | some m => .val (.notify m b.toNat) | none => .invalid) := rfl

/-- Settles O45. -/
theorem watchEntriesAreSetClearedAndRearmed : Obligations.WatchEntriesAreSetClearedAndRearmed := by
  unfold Obligations.WatchEntriesAreSetClearedAndRearmed
  intro r fs i s hf hi o x
  refine ⟨fun c hc ha hl ⟨e, he, ho⟩ => ?denied, fun hown => ⟨fun ha hb => ?bad, fun ha hb => ?set, fun ha => ?cleared,
      fun e ha he hs => ?fired, fun ha hx => ?rearmState, fun e w ha he hs hb => ?enables, fun e ha he hs hb => ?disables,
      fun e ha he hs => ?rearmed, fun b ha he hb => ?enableState, fun e ha he hs hb => ?stays,
      fun e w ha he hs hb => ?stillDisabled, fun e => rfl⟩,
    ⟨?source, ?comparison, ?range, ?actions⟩, fun k a b c rest => ?invalid, fun a b c => ?values, fun lo hi hlo hhi => ?bounds,
    fun ps hps => ⟨parseAction_portBytes _ hps (.inl ⟨rfl, rfl⟩), parseAction_portBytes _ hps (.inr ⟨rfl, rfl⟩)⟩⟩
  case denied =>
    have hd : deniedOn r.link (s.watch.entries.get i) = true := by
      rw [show s.watch.entries.get i = some e from he]
      exact deniedOn_true hl ho
    rcases List.mem_append.mp hc with hc | hc
    · simp only [List.mem_cons, List.not_mem_nil, or_false] at hc
      rcases hc with rfl | rfl | rfl
      · exact congrArg Host.Outcome.next (takeRequest_watch_refused WatchUnit.set ha hf (WatchUnit.set_denied _ hi hd))
      · exact congrArg Host.Outcome.next
          (takeRequest_watch_refused (fun _ => WatchUnit.clear) ha hf (WatchUnit.onEntry_denied _ hi hd))
      · exact congrArg Host.Outcome.next
          (takeRequest_watch_refused WatchUnit.rearm ha hf (WatchUnit.onEntry_denied _ hi hd))
    · split at hc
      next hneed =>
        obtain rfl := List.mem_singleton.mp hc
        refine congrArg Host.Outcome.next (takeRequest_watch_refused WatchUnit.enable ha hf ?_)
        unfold WatchUnit.enable
        dsimp only
        rw [hneed]
        exact WatchUnit.onEntry_denied _ hi hd
      next => cases hc
  case bad =>
    exact congrArg Host.Outcome.next
      (takeRequest_watch_refused WatchUnit.set ha hf (WatchUnit.set_bad _ hi (deniedOn_false hown) hb))
  case set =>
    obtain ⟨⟨y, hy⟩, ⟨c, hc⟩, hact⟩ := WatchFields.bad_nil hb
    obtain ⟨hshort, hinvalid⟩ := badActions_nil hact
    have hsource : (x.entry r.link).source = y := congrArg (fun v => v.get?.getD .battery) hy
    have hcmp : (x.entry r.link).cmp = c := congrArg (fun v => v.get?.getD .change) hc
    refine ⟨congrArg Host.Outcome.next
      (takeRequest_watch WatchUnit.set ha hf (WatchUnit.set_ok _ hi (deniedOn_false hown) hb)),
      rfl, rfl, rfl, rfl, rfl, rfl, rfl, ?_, ?_, fun n hn => ?_, fun hn => ?_, fun n hn => ?_, fun hn => ?_, fun hn => ?_,
      fun hn => ?_, goodActions_map hshort hinvalid, fun hn => ?_, fun hn => ?_, fun hn => ?_⟩
    · exact hsource ▸ compositeField_val hy
    · exact hcmp ▸ compositeField_val hc
    · exact congrArg (fun v => v.get?.getD 0) hn
    · exact congrArg (fun v => v.get?.getD 0) (natField_absent hn)
    · exact congrArg (fun v => v.get?.getD 1) hn
    · exact congrArg (fun v => v.get?.getD 1) (natField_absent hn)
    · rcases hn with hn | hn
      · exact congrArg (fun v => v.get?.getD .once) (enumFieldAs_val (c := .range) hn (rfl : rearmOfCode 0 = some .once))
      · exact congrArg (fun v => v.get?.getD .once) (enumFieldAs_absent (c := .range) (f := rearmOfCode) hn)
    · exact congrArg (fun v => v.get?.getD .once) (enumFieldAs_val (c := .range) hn (rfl : rearmOfCode 1 = some .edge))
    · exact congrArg Val.get? (enumFieldAs_val (c := .range) hn (rfl : linkOfCode 0 = some .primary))
    · exact congrArg Val.get? (enumFieldAs_val (c := .range) hn (rfl : linkOfCode 1 = some .remote))
    · exact congrArg Val.get? (enumFieldAs_absent (c := .range) (f := linkOfCode) hn)
  case cleared =>
    exact congrArg Host.Outcome.next (takeRequest_watch (fun _ => WatchUnit.clear) ha hf
      (WatchUnit.onEntry_allowed _ hi (deniedOn_false hown)))
  case fired =>
    refine congrArg Host.Outcome.next (takeRequest_watch WatchUnit.rearm ha hf
      ((WatchUnit.rearm_allowed _ hi (deniedOn_false hown)).trans ?_))
    rw [show s.watch.entries.get i = some e from he]
    simp only [hs]
    rfl
  case rearmState =>
    refine congrArg Host.Outcome.next (takeRequest_watch_refused WatchUnit.rearm ha hf
      ((WatchUnit.rearm_allowed _ hi (deniedOn_false hown)).trans ?_))
    rcases hx with he | ⟨e, w, he, hs⟩
    · rw [show s.watch.entries.get i = none from he]
    · rw [show s.watch.entries.get i = some e from he]
      simp only [hs]
  case enables =>
    refine congrArg Host.Outcome.next (takeRequest_watch WatchUnit.enable ha hf
      ((WatchUnit.enable_allowed _ hi hb (deniedOn_false hown)).trans ?_))
    rw [show s.watch.entries.get i = some e from he]
    dsimp only
    rw [Watch.enabled_disabled _ _ hs, if_pos rfl]
    rfl
  case disables =>
    refine congrArg Host.Outcome.next (takeRequest_watch WatchUnit.enable ha hf
      ((WatchUnit.enable_allowed _ hi hb (deniedOn_false hown)).trans ?_))
    rw [show s.watch.entries.get i = some e from he]
    dsimp only
    rw [Watch.enabled_no _ hs]
    rfl
  case rearmed =>
    refine congrArg Host.Outcome.next (takeRequest_watch WatchUnit.rearm ha hf
      ((WatchUnit.rearm_allowed _ hi (deniedOn_false hown)).trans ?_))
    rw [show s.watch.entries.get i = some e from he]
    rcases hs with hs | hs
    · simp only [hs, true_and, WatchUnit.put]
      split <;> simp [stateField, Watch.cleared, hs]
    · simp only [hs, reduceCtorEq, false_and, if_false, WatchUnit.put, stateField, Option.map_some]
  case enableState =>
    refine congrArg Host.Outcome.next (takeRequest_watch_refused WatchUnit.enable ha hf
      ((WatchUnit.enable_allowed _ hi hb (deniedOn_false hown)).trans ?_))
    rw [show s.watch.entries.get i = none from he]
  case stays =>
    refine congrArg Host.Outcome.next (takeRequest_watch WatchUnit.enable ha hf
      ((WatchUnit.enable_allowed _ hi hb (deniedOn_false hown)).trans ?_))
    rw [show s.watch.entries.get i = some e from he]
    dsimp only
    rw [Watch.enabled_yes _ hs]
    rfl
  case stillDisabled =>
    refine congrArg Host.Outcome.next (takeRequest_watch WatchUnit.enable ha hf
      ((WatchUnit.enable_allowed _ hi hb (deniedOn_false hown)).trans ?_))
    rw [show s.watch.entries.get i = some e from he]
    dsimp only
    rw [Watch.enabled_disabled _ _ hs, if_neg (by decide)]
    rfl
  case source => exact (WatchFields.mem_bad (by decide)).trans (by simp)
  case comparison =>
    refine (WatchFields.mem_bad (by decide)).trans ?_
    simp only [reduceCtorEq, false_and, or_false, false_or, true_and, parsedBounds_iff]
    rfl
  case range => exact (WatchFields.mem_bad (by decide)).trans (by simp)
  case actions => exact (WatchFields.mem_bad (by decide)).trans (by simp)
  case invalid =>
    refine ⟨?_, ?_, ?_, ?_, rfl, parseSource_kind rest, parseComparison_invalid k rest, parseAction_ports_invalid rest, ?_,
      rfl, ?_, ?_, parseAction_kind rest⟩
    · rw [parseSource_sensor, ← or_assoc, ← Num8.ofNum_eq_none]
      cases Num8.ofNum a.toNat <;> simp
      omega
    · rw [parseSource_motor, ← MotorPort.ofCode_eq_none, ← quantityOfCode_eq_none]
      cases MotorPort.ofCode a.toNat <;> cases quantityOfCode b.toNat <;> simp
    · rw [parseSource_virt, ← Num8.ofNum_eq_none]
      cases Num8.ofNum a.toNat <;> simp
    · rw [parseSource_cue]
      split <;> simp <;> omega
    · rw [parseAction_play]
      split <;> simp <;> omega
    · rw [parseAction_setVirtual, ← or_assoc, ← Num8.ofNum_eq_none]
      cases Num8.ofNum a.toNat <;> simp
    · rw [parseAction_notify, ← linkOfCode_eq_none]
      cases linkOfCode a.toNat <;> simp
  case values =>
    refine ⟨fun p hp hb hc => ?_, fun p z hp hz => ?_, fun j hj => ?_, fun h1 h2 => ?_, fun h1 h2 h3 => ?_,
      fun j hj hb => ?_, fun l hl => ?_⟩
    · rw [parseSource_sensor, Num8.ofNum_of_num hp]
      exact if_pos ⟨hb, hc⟩
    · rw [parseSource_motor, ← hp, MotorPort.ofCode_code, hz]
      cases z <;> rfl
    · rw [parseSource_virt, Num8.ofNum_of_num hj]
    · exact if_pos ⟨h1, h2⟩
    · exact if_pos ⟨h1, h2, h3⟩
    · rw [parseAction_setVirtual, Num8.ofNum_of_num hj]
      exact if_pos hb
    · rw [parseAction_notify, hl]
      cases l <;> rfl
  case bounds =>
    have hfirst : (lo ++ hi).take 4 = lo := List.take_left' hlo
    have hsecond : ((lo ++ hi).drop 4).take 4 = hi := by
      rw [List.drop_left' hlo, List.take_of_length_le (Nat.le_of_eq hhi)]
    have hall : lo.take 4 = lo := List.take_of_length_le (Nat.le_of_eq hlo)
    have hlong : ¬(lo ++ hi).length < 8 := by simp [hlo, hhi]
    have hshort : ¬lo.length < 4 := by simp [hlo]
    refine ⟨?_, ?_, ?_, ?_, ?_, rfl⟩
    · exact (if_neg hshort).trans (by rw [hall])
    · exact (if_neg hshort).trans (by rw [hall])
    · exact (if_neg hlong).trans (by rw [hfirst, hsecond])
    · exact (if_neg hlong).trans (by rw [hfirst, hsecond])
    · exact (if_neg hshort).trans (by rw [hall])

end Sys2Proof.Machine
end

section
/-! The requests on motor ports: who may change one, what follows on the open groups, CLAIM and RELEASE (R9 to R12, R23,
R50 to R53). -/

namespace Sys2Proof.Machine

/-! ### A request on the motor controller -/

section
variable {s : State} {ch : Byte} {r : Req} {fs : Fields} {y : Reply} {p : MotorPort} {d : Channel} {sent : List Sent}
  {ps : List MotorPort} (act : Bool → PowerState → Link → Fields → Motors → MotorAnswer)

theorem takeRequest_motor (ha : s.admits r.link ch = true) (hf : decodeFields r.payload = some fs) :
    s.takeRequest ch (onFields (fun l fs s => s.motorOutcome (act s.live s.supply.power l fs s.motors))) r =
      State.finish ch r (answered ((s.entered ch r).motorOutcome (act s.live s.supply.power r.link fs s.motors))) := by
  rw [takeRequest_of_admits _ ha, onFields_some _ _ hf]
  rw [State.entered_live, State.entered_supply, State.entered_motors]

theorem takeRequest_motor_refused (ha : s.admits r.link ch = true) (hf : decodeFields r.payload = some fs)
    (h : act s.live s.supply.power r.link fs s.motors = MotorAnswer.none s.motors y) :
    s.takeRequest ch (onFields (fun l fs s => s.motorOutcome (act s.live s.supply.power l fs s.motors))) r =
      (s.entered ch r).replied ch r y :=
  (takeRequest_motor act ha hf).trans (finish_motor_refused h)

theorem takeRequest_motor_changed (ha : s.admits r.link ch = true) (hf : decodeFields r.payload = some fs)
    (h : act s.live s.supply.power r.link fs s.motors =
      { motors := ((s.motors.setCh p d).conclude ps).1, sent := sent ++ ((s.motors.setCh p d).conclude ps).2,
        reply := y }) :
    s.takeRequest ch (onFields (fun l fs s => s.motorOutcome (act s.live s.supply.power l fs s.motors))) r =
      s.changed ch r p d sent ps y :=
  (takeRequest_motor act ha hf).trans (finish_motor_changed h)

end

/-! ### Requests that change a channel (R9) -/

theorem stopNow_onPort {live : Bool} {l : Link} {fs : Fields} {p : MotorPort} {m : Motors} {a : Rest}
    (hp : motorPortField 1 fs = .val p) (ha : enumField 2 restOfCode fs = .val a) :
    m.stopNow live l fs = m.changing true l p (Channel.stopNow live a p) := by
  unfold Motors.stopNow
  dsimp only
  rw [Motors.onPort_val hp, ha]

theorem Val.need_nil {α : Type} {v : Val α} (h : v.need = []) : ∃ a, v = .val a := by
  cases v with
  | absent => cases h
  | bad c => cases h
  | val a => exact ⟨a, rfl⟩

theorem setGains_onPort {l : Link} {fs : Fields} {p : MotorPort} {m : Motors} (hp : motorPortField 1 fs = .val p)
    (hx : (GainFields.read fs).failures = []) :
    m.setGains l fs = m.changing true l p (Channel.setGains (GainFields.read fs)) := by
  unfold Motors.setGains
  dsimp only
  rw [Motors.onPort_val hp, if_neg (by simp [hx])]

theorem setPolicy_onPort {l : Link} {fs : Fields} {p : MotorPort} {m : Motors} (hp : motorPortField 1 fs = .val p) :
    m.setPolicy l fs =
      m.changing false l p (Channel.setPolicy m.pause (enumFieldAs .policy 2 policyOfCode fs) (natField 3 fs)) :=
  Motors.onPort_val hp _ _ _

theorem zeroCount_refused {r : Req} {fs : Fields} {p : MotorPort} {s : State} {y : Reply}
    (ha : s.admits r.link 0x16 = true) (hf : decodeFields r.payload = some fs) (hp : motorPortField 1 fs = .val p)
    (h : s.motors.changing true r.link p Channel.zeroCount = MotorAnswer.none s.motors y) (hy : y.accepted = false) :
    exec (.zeroCount r) s = .next ((s.entered 0x16 r).replied 0x16 r y) := by
  have hm : s.motors.zeroCount r.link fs = MotorAnswer.none s.motors y := (Motors.zeroCount_onPort s.motors hp).trans h
  have hacc : ((s.entered 0x16 r).motors.zeroCount r.link fs).reply.accepted = false := by
    rw [State.entered_motors, hm]; exact hy
  rw [exec_zeroCount ha hf, State.zeroCount_refused hp hacc, State.entered_motors]
  exact congrArg _ (finish_motor_refused hm)

/-- The requests on a motor port that need a motor there (R9), each with its channel. -/
def motorRequests (r : Req) (fs : Fields) : List (Instr × Byte) :=
  [(.queueSegment r, 0x12), (.flush r, 0x13), (.zeroCount r, 0x16), (.clearFault r, 0x18)] ++
    (if (GainFields.read fs).failures = [] then [(.setGains r, 0x14)] else []) ++
    (if (enumField 2 restOfCode fs).need = [] then [(.stopNow r, 0x19)] else [])

/-- What refuses every change of a port refuses each of these requests. -/
theorem motorRequests_refused {r : Req} {fs : Fields} {p : MotorPort} {s : State} {y : Reply} {x : Instr × Byte}
    (hf : decodeFields r.payload = some fs) (hp : motorPortField 1 fs = .val p) (hx : x ∈ motorRequests r fs)
    (ha : s.admits r.link x.2 = true) (hy : y.accepted = false)
    (h : ∀ act, s.motors.changing true r.link p act = MotorAnswer.none s.motors y) :
    exec x.1 s = .next ((s.entered x.2 r).replied x.2 r y) := by
  rcases List.mem_append.mp hx with hx | hx
  · rcases List.mem_append.mp hx with hx | hx
    · simp only [List.mem_cons, List.not_mem_nil, or_false] at hx
      rcases hx with rfl | rfl | rfl | rfl
      · exact congrArg Host.Outcome.next
          (takeRequest_motor_refused (fun _ power l fs m => m.queueSegment power l fs) ha hf
            ((Motors.onPort_val hp _ _ _).trans (h _)))
      · exact congrArg Host.Outcome.next
          (takeRequest_motor_refused (fun _ _ l fs m => m.flush l fs) ha hf ((Motors.onPort_val hp _ _ _).trans (h _)))
      · exact zeroCount_refused ha hf hp (h _) hy
      · exact congrArg Host.Outcome.next
          (takeRequest_motor_refused (fun live _ l fs m => m.clearFault live l fs) ha hf
            ((Motors.onPort_val hp _ _ _).trans (h _)))
    · split at hx
      next hg =>
        obtain rfl := List.mem_singleton.mp hx
        exact congrArg Host.Outcome.next
          (takeRequest_motor_refused (fun _ _ l fs m => m.setGains l fs) ha hf ((setGains_onPort hp hg).trans (h _)))
      next => cases hx
  · split at hx
    next hneed =>
      obtain ⟨a, hval⟩ := Val.need_nil hneed
      obtain rfl := List.mem_singleton.mp hx
      exact congrArg Host.Outcome.next
        (takeRequest_motor_refused (fun live _ l fs m => m.stopNow live l fs) ha hf ((stopNow_onPort hp hval).trans (h _)))
    next => cases hx

/-! ### What follows on the channels (R23, R50 to R53, R58) -/

theorem Six.map_eq_self {α : Type} {f : α → α} {t : Six α} (h : ∀ i, f (t.get i) = t.get i) : t.map f = t := by
  have ha := h .a
  have hb := h .b
  have hc := h .c
  have hd := h .d
  have he := h .e
  have hf := h .f
  simp only [Six.map, Six.ofFn, ha, hb, hc, hd, he, hf]
  rfl

theorem Motors.noteGroups_self {m : Motors} (h : ∀ q g, (m.ch.get q).waitGroup = some g → g ∈ m.groups) :
    m.noteGroups = m := by
  rw [Motors.noteGroups, Motors.newGroups_nil h, List.append_nil]

theorem Motors.finishReleases_self {m : Motors} (h : ∀ q, (m.ch.get q).lostLink = false) : m.finishReleases = m := by
  rw [Motors.finishReleases, Six.map_eq_self fun q => Channel.finishRelease_unmarked (h q)]

/-- An event that breaks no open group, with no channel marked and no pause beginning, changes nothing more. -/
theorem Motors.conclude_still {ps : List MotorPort} {m : Motors}
    (hw : ∀ q g, (m.ch.get q).waitGroup = some g → g ∈ m.groups) (hg : m.groupsOn ps = [])
    (hl : ∀ q, (m.ch.get q).lostLink = false) (hp : m.pause ≠ .pausing) : m.conclude ps = (m, []) := by
  unfold Motors.conclude
  dsimp only
  rw [Motors.noteGroups_self hw, hg, Motors.breakAll, Motors.finishReleases_self hl, Motors.pauseTest_quiet hp]
  rfl

theorem Channel.waitGroup_head {c : Channel} {g : Group} (h : c.waitGroup = some g) :
    c.state = .syncWait ∧ ∃ x rest, c.queue = x :: rest ∧ x.group = g := by
  unfold Channel.waitGroup at h
  split at h
  next hs =>
    cases hq : c.queue with
    | nil => rw [hq] at h; cases h
    | cons x rest => rw [hq] at h; exact ⟨hs, x, rest, rfl, by simpa using h⟩
  next => cases h

theorem Motors.groupsOn_one {m : Motors} {g : Group} (h : m.groups = [g]) (ps : List MotorPort) :
    m.groupsOn ps = if ∃ p ∈ ps, p ∈ g.members then [g] else [] := by
  have hiff : g.members.any (fun p => ps.contains p) = true ↔ ∃ p ∈ ps, p ∈ g.members := by
    simp only [List.any_eq_true, List.contains_iff_mem]
    exact ⟨fun ⟨p, h1, h2⟩ => ⟨p, h2, h1⟩, fun ⟨p, h1, h2⟩ => ⟨p, h2, h1⟩⟩
  rw [Motors.groupsOn, h, List.filter_singleton]
  by_cases hm : ∃ p ∈ ps, p ∈ g.members
  · rw [if_pos hm, hiff.mpr hm]; rfl
  · rw [if_neg hm, Bool.eq_false_iff.mpr (fun hc => hm (hiff.mp hc))]; rfl

theorem groupsOf_one (q : MotorPort) (g : Group) : groupsOf q [g] = if q ∈ g.members then [g] else [] := by
  rw [groupsOf, List.filter_singleton]
  by_cases h : q ∈ g.members
  · rw [if_pos h, List.contains_iff_mem.mpr h]; rfl
  · rw [if_neg h, Bool.eq_false_iff.mpr (fun hc => h (List.contains_iff_mem.mp hc))]; rfl

/-- R53 on one member whose queue holds a segment of the group. -/
theorem Channel.breakGroups_one {c : Channel} {g : Group} {front back : List Segment} {x : Segment} (p : MotorPort)
    (hq : c.queue = front ++ x :: back) (hf : ∀ y ∈ front, y.group ≠ g) (hx : x.group = g) :
    (c.breakGroups [g] p).2 = segmentEnd p x .syncBroken c.enc none (c.queue.length - 1) ∧
      (c.breakGroups [g] p).1.queue = front ++ back := by
  have ht : takeBroken [g] c.queue = (front ++ back, [x]) := by rw [hq]; exact takeBroken_one hf hx
  have hlen : (front ++ back).length = c.queue.length - 1 := by rw [hq]; simp
  refine ⟨?_, by rw [(Channel.breakGroups_frame [g] p c).2.2.2.2.2.2.2, ht]⟩
  unfold Channel.breakGroups
  rw [ht]
  simp [hlen]

theorem Channel.breakGroups_kept (gs : List Group) (p : MotorPort) (c : Channel) :
    (c.breakGroups gs p).1.q = c.q ∧ (c.breakGroups gs p).1.spd = c.spd ∧ (c.breakGroups gs p).1.phase = c.phase := by
  unfold Channel.breakGroups
  split
  · exact ⟨rfl, rfl, rfl⟩
  · dsimp only
    split <;> exact ⟨rfl, rfl, rfl⟩

/-- R52: a member that waited with the broken segment at its head rests in HOLD. -/
theorem Channel.breakGroups_first {c : Channel} {g : Group} {back : List Segment} {x : Segment} (p : MotorPort)
    (hq : c.queue = x :: back) (hx : x.group = g) (hw : c.waits = true) :
    (c.breakGroups [g] p).1.state = .idle ∧ (c.breakGroups [g] p).1.rest = .hold ∧
      (c.breakGroups [g] p).1.resume = none ∧ (c.breakGroups [g] p).1.heldAction = none := by
  have ht : takeBroken [g] c.queue = (back, [x]) := by
    rw [hq]; exact takeBroken_one (front := []) (by simp) hx
  unfold Channel.breakGroups
  rw [ht, hq]
  simp [hx, hw]

theorem Channel.breakGroups_inside {c : Channel} {gs : List Group} (p : MotorPort)
    (h : (∀ y, c.queue.head? = some y → y.group ∉ gs) ∨ c.waits = false) :
    (c.breakGroups gs p).1.state = c.state ∧ (c.breakGroups gs p).1.rest = c.rest := by
  have hno : (c.queue.head?.any (fun s => gs.contains s.group) && c.waits) = false := by
    rcases h with h | h
    · cases hq : c.queue.head? with
      | none => rfl
      | some y => simp [h y hq]
    · rw [h, Bool.and_false]
  unfold Channel.breakGroups
  split
  · exact ⟨rfl, rfl⟩
  · dsimp only
    rw [hno]
    exact ⟨rfl, rfl⟩

/-- R53: the break of the one open group, on each channel and in its notices. -/
theorem Motors.conclude_one {ps : List MotorPort} {m : Motors} {g : Group} (hg : m.groups = [g])
    (hl : ∀ q, (m.ch.get q).lostLink = false) (hw : ∀ q h, (m.ch.get q).waitGroup = some h → h ∈ m.groups)
    (hp : m.pause ≠ .pausing) (hb : ∃ p ∈ ps, p ∈ g.members) :
    (m.conclude ps).1.groups = [] ∧
      (m.conclude ps).2 = MotorPort.all.flatMap (fun q => ((m.ch.get q).breakGroups (groupsOf q [g]) q).2) ∧
      ∀ q, (m.conclude ps).1.ch.get q = ((m.ch.get q).breakGroups (groupsOf q [g]) q).1 := by
  have hnote := Motors.noteGroups_self hw
  have hon : m.groupsOn ps = [g] := (Motors.groupsOn_one hg ps).trans (if_pos hb)
  refine ⟨?_, ?_, fun q => ?_⟩
  · rw [Motors.conclude_groups, hnote, hon, hg]
    simp
  · rw [Motors.conclude_sent hp, hnote, hon]
  · rw [Motors.conclude_get, hnote, hon]
    refine Channel.finishRelease_unmarked ?_
    obtain ⟨-, -, -, -, -, -, hlost, -⟩ := (m.ch.get q).breakGroups_frame (groupsOf q [g]) q
    rw [hlost, hl]

/-- The first segment of a group in a queue, with what stands before and behind it. -/
theorem List.find_split {α : Type} {t : α → Bool} {x : α} {xs : List α} (h : xs.find? t = some x) :
    ∃ front back, xs = front ++ x :: back ∧ (∀ y ∈ front, t y = false) ∧ t x = true := by
  obtain ⟨hx, front, back, rfl, hf⟩ := List.find?_eq_some_iff_append.mp h
  exact ⟨front, back, rfl, fun y hy => by simpa using hf y hy, hx⟩

/-- R53: the notice of the break on one member. -/
theorem Channel.breakGroups_sent (c : Channel) (g : Group) (q : MotorPort) :
    (c.breakGroups (groupsOf q [g]) q).2 =
      if q ∈ g.members then
        match c.queue.find? (fun x => x.group == g) with
        | some x => segmentEnd q x .syncBroken c.enc none (c.queue.length - 1)
        | none => []
      else [] := by
  rw [groupsOf_one]
  by_cases hq : q ∈ g.members
  · rw [if_pos hq, if_pos hq]
    cases hfind : c.queue.find? (fun x => x.group == g) with
    | none =>
      have hno : takeBroken [g] c.queue = (c.queue, []) :=
        takeBroken_none fun x hx => by simpa using List.find?_eq_none.mp hfind x hx
      unfold Channel.breakGroups
      rw [hno]
    | some x =>
      obtain ⟨front, back, hsplit, hf, hx⟩ := List.find_split hfind
      exact (Channel.breakGroups_one q hsplit (fun y hy => by simpa using hf y hy) (by simpa using hx)).1
  · rw [if_neg hq, if_neg hq, Channel.breakGroups_nil]

/-- Settles O22. -/
theorem changingRequestNeedsMotorAndHolder : Obligations.ChangingRequestNeedsMotorAndHolder := by
  unfold Obligations.ChangingRequestNeedsMotorAndHolder
  refine ⟨fun r fs p s hf hp => ⟨fun x hx ha hk => ?noMotor, fun x hx ha hk hh => ?held, fun ha hh => ?policy⟩,
    fun m ps hg hs hl hp => ?still, fun m ps g hg hl hw hp => ?group⟩
  case noMotor =>
    exact motorRequests_refused hf hp hx ha rfl fun _ => Motors.changing_noMotor hk
  case held =>
    exact motorRequests_refused hf hp hx ha rfl fun _ => Motors.changing_held (.inr hk) hh
  case policy =>
    exact congrArg Host.Outcome.next (takeRequest_motor_refused (fun _ _ l fs m => m.setPolicy l fs) ha hf
      ((setPolicy_onPort hp).trans (Motors.changing_held (.inl rfl) hh)))
  case still =>
    exact Motors.conclude_still (fun q h hq => absurd (Channel.waitGroup_head hq).1 (hs q)) (by simp [Motors.groupsOn, hg])
      hl hp
  case group =>
    have hwait : ∀ q h, (m.ch.get q).waitGroup = some h → h ∈ m.groups := by
      intro q h hq
      obtain ⟨hs, x, rest, hx, rfl⟩ := Channel.waitGroup_head hq
      obtain ⟨y, rest', hy, hyg⟩ := hw q hs
      rw [hx] at hy
      obtain ⟨rfl, -⟩ := List.cons.inj hy
      simp [hg, hyg]
    refine ⟨fun hb => ?_, fun hno => Motors.conclude_still hwait ?_ hl hp⟩
    · obtain ⟨h1, h2, h3⟩ := Motors.conclude_one hg hl hwait hp hb
      refine ⟨h1, h2.trans ?_, fun q => ⟨fun hq => ?_, fun front x back hq hqueue hf hx => ?_⟩⟩
      · exact congrArg (fun f => MotorPort.all.flatMap f) (funext fun q => Channel.breakGroups_sent _ _ _)
      · rw [h3, groupsOf_one]
        rcases hq with hq | hq
        · rw [if_neg hq, Channel.breakGroups_nil]
        · have hno : takeBroken (if q ∈ g.members then [g] else []) (m.ch.get q).queue = ((m.ch.get q).queue, []) :=
            takeBroken_none fun x hx => by split <;> simp [hq x hx]
          unfold Channel.breakGroups
          rw [hno]
      · have hd : (m.conclude ps).1.ch.get q = ((m.ch.get q).breakGroups [g] q).1 := by
          rw [h3, groupsOf_one, if_pos hq]
        obtain ⟨f1, f2, -, f3, f4, f5, -, -⟩ := (m.ch.get q).breakGroups_frame [g] q
        obtain ⟨k1, k2, k3⟩ := (m.ch.get q).breakGroups_kept [g] q
        rw [hd]
        refine ⟨(Channel.breakGroups_one q hqueue hf hx).2, f1, f2, k1, k2, k3, f5, f3, f4, fun hfront hst => ?_,
          fun hst => ?_⟩
        · subst hfront
          exact Channel.breakGroups_first q hqueue hx (by simpa [Channel.waits] using hst)
        · refine Channel.breakGroups_inside q ?_
          rcases hst with hst | ⟨hst, hheld⟩
          · refine .inl fun y hy => ?_
            cases front with
            | nil => exact absurd rfl hst
            | cons z zs =>
              rw [hqueue] at hy
              simp only [List.cons_append, List.head?_cons, Option.some.injEq] at hy
              subst hy
              simpa using hf z List.mem_cons_self
          · exact .inr (by simp [Channel.waits, hst, hheld])
    · rw [Motors.groupsOn_one hg, if_neg]
      rintro ⟨p, h1, h2⟩
      exact hno p h1 h2

/-! ### CLAIM and RELEASE (R10 to R12) -/

/-- R11: what a seize leaves of a channel. -/
theorem Channel.seize_frame (live : Bool) (p : MotorPort) (c : Channel) :
    (c.seize live p).1.holder = some .primary ∧ (c.seize live p).1.lostLink = false ∧
      (c.seize live p).1.current = none ∧ (c.seize live p).1.queue = [] ∧
      (c.state ≠ .off → c.state ≠ .fault →
        (c.seize live p).1.state = .idle ∧ (c.seize live p).1.rest = .brake ∧ (c.seize live p).1.applied = 0) ∧
      (c.state = .off ∨ c.state = .fault → (c.seize live p).1.state = c.state) ∧
      (c.seize live p).1.enc = c.enc ∧ (c.seize live p).1.kind = c.kind ∧ (c.seize live p).1.gains = c.gains ∧
      (c.seize live p).1.policy = c.policy := by
  have hd : c.dropCurrent.enc = c.enc ∧ c.dropCurrent.kind = c.kind ∧ c.dropCurrent.gains = c.gains ∧
      c.dropCurrent.policy = c.policy ∧ c.dropCurrent.current = none ∧ c.dropCurrent.state = c.state := by
    unfold Channel.dropCurrent
    split <;> simp_all
  obtain ⟨h1, h2, h3, h4, h5, h6⟩ := hd
  unfold Channel.seize
  dsimp only
  split
  next hs => exact ⟨rfl, rfl, h5, rfl, fun h => absurd hs h, fun _ => h6, h1, h2, h3, h4⟩
  next hs => exact ⟨rfl, rfl, h5, rfl, fun _ h => absurd hs h, fun _ => h6, h1, h2, h3, h4⟩
  next ho hf =>
    exact ⟨rfl, rfl, h5, rfl, fun _ _ => ⟨rfl, rfl, rfl⟩, fun h => (h.elim ho hf).elim, h1, h2, h3, h4⟩

/-- Settles O23. -/
theorem claimGrantsSeizesOrRefuses : Obligations.ClaimGrantsSeizesOrRefuses := by
  unfold Obligations.ClaimGrantsSeizesOrRefuses
  refine ⟨fun f p ps m => ⟨rfl, rfl, fun hn => Motors.takePorts_of_nodup f m hn⟩,
    fun os xs => ⟨List.filter_sublist, fun p => mem_portsWith⟩, fun r fs ps s ha hf hps => ?_⟩
  refine ⟨?claimed, fun p c hc => ?granted, fun p c hl hc => ?refused, fun p c hl hc => ?seized⟩
  case claimed =>
    refine congrArg Host.Outcome.next ((takeRequest_motor (fun live _ l fs m => m.claim live l fs) ha hf).trans ?_)
    simp only [Motors.claim, hps]
    rfl
  case granted =>
    have ho : claimOutcome r.link c.holder = .granted := by
      rcases hc with hc | hc <;> simp [claimOutcome, hc]
    simp only [Channel.claim, ho, Channel.claimedBy]
  case refused =>
    have ho : claimOutcome r.link c.holder = .refused := by simp [claimOutcome, hl, hc]
    simp only [Channel.claim, ho]
  case seized =>
    have ho : claimOutcome r.link c.holder = .seized := by simp [claimOutcome, hl, hc]
    have hclaim : Channel.claim s.live r.link p c = ((c.seize s.live p).1, (c.seize s.live p).2, .seized) := by
      simp only [Channel.claim, ho]
    rw [hclaim]
    exact ⟨rfl, Channel.seize_frame s.live p c⟩

/-- R12: COAST takes hold, in IDLE. -/
theorem Channel.stopKeeping_coast {live : Bool} {c : Channel} (ho : c.state ≠ .off) (hf : c.state ≠ .fault) :
    (c.stopKeeping live .coast).state = .idle ∧ (c.stopKeeping live .coast).applied = 0 ∧
      (c.stopKeeping live .coast).drive = .off ∧ (c.stopKeeping live .coast).lastTarget = none := by
  unfold Channel.stopKeeping
  split
  · contradiction
  · contradiction
  · exact ⟨rfl, rfl, by cases live <;> rfl, rfl⟩

theorem Channel.stopKeeping_rest (live : Bool) (a : Rest) (c : Channel) : (c.stopKeeping live a).rest = a := by
  unfold Channel.stopKeeping
  split <;> rfl

/-- Settles O24. -/
theorem releaseEndsAndFreesThePort : Obligations.ReleaseEndsAndFreesThePort := by
  unfold Obligations.ReleaseEndsAndFreesThePort
  intro r fs ps s ha hf hps
  refine ⟨?released, fun p c hc => ?unheld, fun p c hc => ?refused, fun p c hc => ?ended⟩
  case released =>
    refine congrArg Host.Outcome.next ((takeRequest_motor (fun live _ l fs m => m.release live l fs) ha hf).trans ?_)
    simp only [Motors.release, hps]
    rfl
  case unheld => simp only [Channel.release, hc]
  case refused =>
    have hne : r.link.other ≠ r.link := by cases r.link <;> decide
    simp only [Channel.release, hc, if_neg hne]
  case ended =>
    have hrel : Channel.release s.live r.link p c =
        ({ c.stopKeeping s.live .coast with holder := none, lostLink := false }, c.endNotices p .cancelled .cancelled,
          .seized) := by simp only [Channel.release, hc, if_true]
    obtain ⟨h1, h2, h3, h4, -, -⟩ := c.stopKeeping_frame s.live .coast
    rw [hrel]
    exact ⟨rfl, rfl, rfl, h1, h2, c.stopKeeping_rest s.live .coast, Channel.stopKeeping_coast, Channel.stopKeeping_state,
      h3, h4⟩

end Sys2Proof.Machine
end

section
/-! The requests on one motor port (R16, R17, R19 to R21, R49): what each leaves of its channel, accepted or refused. -/

namespace Sys2Proof.Machine

/-! ### FLUSH and STOP_NOW (R16, R17) -/

/-- R16: what FLUSH leaves of its channel. -/
theorem Channel.flush_frame (p : MotorPort) (c : Channel) :
    (c.flush p).ch.queue = [] ∧ (c.flush p).ch.current = c.current ∧ (c.flush p).ch.lastTarget = c.lastTarget ∧
      (c.flush p).ch.rest = c.rest ∧ (c.flush p).ch.enc = c.enc ∧ (c.flush p).ch.q = c.q ∧
      (c.flush p).ch.spd = c.spd ∧ (c.flush p).ch.applied = c.applied ∧ (c.flush p).ch.drive = c.drive ∧
      (c.flush p).ch.gains = c.gains ∧
      (c.flush p).ch.state =
        (if c.state = .syncWait ∨ (c.state = .held ∧ c.current = none) then .idle else c.state) := by
  have hw : (c.state == .syncWait || (c.state == .held && c.current.isNone)) = true ↔
      c.state = .syncWait ∨ (c.state = .held ∧ c.current = none) := by simp
  unfold Channel.flush
  dsimp only
  by_cases h : c.state = .syncWait ∨ (c.state = .held ∧ c.current = none)
  · rw [if_pos h, if_pos (hw.mpr h)]
    exact ⟨rfl, rfl, rfl, rfl, rfl, rfl, rfl, rfl, rfl, rfl, rfl⟩
  · rw [if_neg h, if_neg (fun hc => h (hw.mp hc))]
    exact ⟨rfl, rfl, rfl, rfl, rfl, rfl, rfl, rfl, rfl, rfl, rfl⟩

theorem Channel.emptied_motion (c : Channel) :
    c.emptied.q = c.q ∧ c.emptied.spd = c.spd ∧ c.emptied.enc = c.enc ∧ c.emptied.gains = c.gains ∧
      c.emptied.kind = c.kind := by
  unfold Channel.emptied Channel.dropCurrent
  split <;> exact ⟨rfl, rfl, rfl, rfl, rfl⟩

/-- R6, R17: COAST and BRAKE end the motion; q follows E. -/
theorem Channel.stopWith_ends {a : Rest} (live : Bool) (c : Channel) (h : a ≠ .hold) :
    (c.stopWith live a).spd = 0 ∧ (c.stopWith live a).applied = 0 ∧ (c.stopWith live a).lastTarget = none ∧
      (c.stopWith live a).q = c.enc * 1000000 := by
  have henc : c.emptied.enc * 1000000 = c.enc * 1000000 := by rw [c.emptied_motion.2.2.1]
  cases a with
  | coast => exact ⟨rfl, rfl, rfl, henc⟩
  | brake => exact ⟨rfl, rfl, rfl, henc⟩
  | hold => exact absurd rfl h

/-- R6, R17, R34: HOLD stops from the speed there is. -/
theorem Channel.stopWith_hold (live : Bool) (c : Channel) :
    (c.stopWith live .hold).q = c.q ∧ (c.stopWith live .hold).spd = c.spd ∧
      (c.stopWith live .hold).phase = (if c.spd = 0 then .holding else .stopping) := by
  obtain ⟨hq, hspd, -, -, -⟩ := c.emptied_motion
  refine ⟨hq, hspd, ?_⟩
  show (if c.emptied.spd = 0 then Phase.holding else .stopping) = _
  rw [hspd]

theorem Channel.stopNow_fault {live : Bool} {a : Rest} {p : MotorPort} {c : Channel} (h : c.state = .fault) :
    c.stopNow live a p = Change.none c (Reply.refuse .fault) := if_pos h

theorem Channel.stopNow_stops {live : Bool} {a : Rest} {p : MotorPort} {c : Channel} (h : c.state ≠ .fault) :
    c.stopNow live a p =
      { ch := c.stopWith live a, sent := c.endNotices p .cancelled .cancelled, flushed := true,
        reply := .plain .ok (fieldNat 1 1 c.segmentCount) } := if_neg h

/-! ### CLEAR_FAULT (R49) -/

theorem Channel.clearFault_fault {live : Bool} {c : Channel} (h : c.state = .fault) :
    c.clearFault live =
      { ch := { c.takeRest live .coast 4000 with fault := none, overCount := 0, state := .idle }, sent := [],
        flushed := false, reply := Reply.ok } := by
  rw [Channel.clearFault, if_pos h]

theorem Channel.clearFault_claims {live : Bool} {c : Channel} (h : c.state ≠ .fault) :
    c.clearFault live = Change.none c Reply.ok := by
  rw [Channel.clearFault, if_neg h]
  rfl

/-! ### The requests in the part -/

section
variable {r : Req} {fs : Fields} {p : MotorPort} {s : State} {y : Reply} {x : Change}

theorem exec_flush (hf : decodeFields r.payload = some fs) (hp : motorPortField 1 fs = .val p)
    (hk : (s.motors.ch.get p).kind ≠ .none) (hh : (s.motors.ch.get p).holder ≠ some r.link.other)
    (ha : s.admits r.link 0x13 = true) :
    exec (.flush r) s = .next (s.changed 0x13 r p (((s.motors.ch.get p).flush p).ch.claimedBy r.link)
      ((s.motors.ch.get p).queue.flatMap (fun g => segmentEnd p g .cancelled (s.motors.ch.get p).enc none 0)) [p]
      (.plain .ok (fieldNat 1 1 (s.motors.ch.get p).queue.length))) :=
  congrArg Host.Outcome.next (takeRequest_motor_changed (fun _ _ l fs m => m.flush l fs) ha hf
    ((Motors.onPort_val hp _ _ _).trans (Motors.changing_accepted (.inr hk) hh rfl rfl)))

theorem exec_stopNow_fault {a : Rest} (hf : decodeFields r.payload = some fs) (hp : motorPortField 1 fs = .val p)
    (hk : (s.motors.ch.get p).kind ≠ .none) (hh : (s.motors.ch.get p).holder ≠ some r.link.other)
    (ha : s.admits r.link 0x19 = true) (hr : enumField 2 restOfCode fs = .val a)
    (hs : (s.motors.ch.get p).state = .fault) :
    exec (.stopNow r) s = .next ((s.entered 0x19 r).replied 0x19 r (Reply.refuse .fault)) :=
  congrArg Host.Outcome.next (takeRequest_motor_refused (fun live _ l fs m => m.stopNow live l fs) ha hf
    ((stopNow_onPort hp hr).trans (Motors.changing_refused (.inr hk) hh (Channel.stopNow_fault hs) rfl)))

theorem exec_stopNow_stops {a : Rest} (hf : decodeFields r.payload = some fs) (hp : motorPortField 1 fs = .val p)
    (hk : (s.motors.ch.get p).kind ≠ .none) (hh : (s.motors.ch.get p).holder ≠ some r.link.other)
    (ha : s.admits r.link 0x19 = true) (hr : enumField 2 restOfCode fs = .val a)
    (hs : (s.motors.ch.get p).state ≠ .fault) :
    exec (.stopNow r) s = .next (s.changed 0x19 r p (((s.motors.ch.get p).stopWith s.live a).claimedBy r.link)
      ((s.motors.ch.get p).endNotices p .cancelled .cancelled) [p]
      (.plain .ok (fieldNat 1 1 (s.motors.ch.get p).segmentCount))) := by
  have hm := (stopNow_onPort (live := s.live) (m := s.motors) hp hr).trans
    (Motors.changing_accepted (.inr hk) hh (Channel.stopNow_stops hs) rfl)
  exact congrArg Host.Outcome.next
    (takeRequest_motor_changed (fun live _ l fs m => m.stopNow live l fs) ha hf hm)

theorem exec_clearFault (hf : decodeFields r.payload = some fs) (hp : motorPortField 1 fs = .val p)
    (hk : (s.motors.ch.get p).kind ≠ .none) (hh : (s.motors.ch.get p).holder ≠ some r.link.other)
    (ha : s.admits r.link 0x18 = true) :
    exec (.clearFault r) s = .next (s.changed 0x18 r p
      (((s.motors.ch.get p).clearFault s.live).ch.claimedBy r.link) [] [] Reply.ok) :=
  congrArg Host.Outcome.next (takeRequest_motor_changed (fun live _ l fs m => m.clearFault live l fs) ha hf
    ((Motors.onPort_val hp _ _ _).trans (Motors.changing_accepted (.inr hk) hh rfl rfl)))

theorem exec_motorStatus (hf : decodeFields r.payload = some fs) (hp : motorPortField 1 fs = .val p)
    (ha : s.admits r.link 0x17 = true) :
    exec (.motorStatus r) s =
      .next ((s.entered 0x17 r).replied 0x17 r (.plain .ok (s.motors.ch.get p).statusData)) :=
  congrArg Host.Outcome.next (takeRequest_motor_refused (fun _ _ _ fs m => m.motorStatus fs) ha hf
    (Motors.onPort_val hp _ _ _))

end

/-- Settles O26. -/
theorem stopFlushFaultAndStatusRequests : Obligations.StopFlushFaultAndStatusRequests := by
  unfold Obligations.StopFlushFaultAndStatusRequests
  refine ⟨fun r fs p s hf hp hk hh => ⟨fun ha => ?flush, fun ha a hr => ⟨fun hs => ?refused, fun hs => ?stopped⟩⟩,
    fun r fs p s hf hp => ⟨fun ha hk hh hs => ?cleared, fun ha hk hh hs => ?claimed, fun ha => ?status⟩⟩
  case flush =>
    obtain ⟨h1, h2, h3, h4, h5, h6, h7, h8, h9, h10, h11⟩ := (s.motors.ch.get p).flush_frame p
    exact ⟨_, exec_flush hf hp hk hh ha, h1, h2, rfl, rfl, h3, h4, h5, h6, h7, h8, h9, h10, h11⟩
  case refused => exact exec_stopNow_fault hf hp hk hh ha hr hs
  case stopped =>
    obtain ⟨henc, -, hgains, -, -, hcur, hqueue, hst, hrest⟩ := (s.motors.ch.get p).stopWith_frame s.live a
    refine ⟨_, exec_stopNow_stops hf hp hk hh ha hr hs, hqueue, hcur, hst, hrest, rfl, henc, hgains,
      Channel.stopWith_ends s.live _, ?_⟩
    rintro rfl
    exact Channel.stopWith_hold s.live _
  case cleared =>
    refine ⟨_, exec_clearFault hf hp hk hh ha, ?_⟩
    rw [Channel.clearFault_fault hs]
    exact ⟨rfl, rfl, rfl, rfl, rfl, rfl, by cases s.live <;> rfl, rfl, rfl, rfl, rfl⟩
  case claimed =>
    have h := exec_clearFault hf hp hk hh ha
    rw [Channel.clearFault_claims hs] at h
    exact h
  case status => exact exec_motorStatus hf hp ha

/-! ### SET_GAINS and SET_POLICY (R19, R20) -/

theorem Channel.setGains_defaults {x : GainFields} {c : Channel} (h : x.defaults = .val true) :
    c.setGains x = { ch := c.withGains c.kind.gains, sent := [], flushed := false, reply := Reply.ok } := by
  have : x.defaults.get? = some true := by rw [h]; rfl
  rw [Channel.setGains, if_pos this]

/-- R19: a set defaults flag needs no field beside it. -/
theorem GainFields.failures_defaults {x : GainFields} (h : x.defaults = .val true) : x.failures = [] := by
  have : x.defaults.get? = some true := by rw [h]; rfl
  rw [GainFields.failures, if_pos this]

/-- R19: the gains after the fields of a request. -/
def GainFields.written (x : GainFields) (g : Gains) : Gains :=
  { kp := newGain 4095 g.kp x.kp, ki := newGain 4095 g.ki x.ki, kf := newGain 4095 g.kf x.kf,
    iLimit := newGain 1000000 g.iLimit x.iLimit }

/-- R19: the fields whose values a request had held within their ranges. -/
def GainFields.held (x : GainFields) : List Nat :=
  clampedName 2 4095 x.kp ++ clampedName 3 4095 x.ki ++ clampedName 4 4095 x.kf ++ clampedName 5 1000000 x.iLimit

/-- R19: the reply to gains written. -/
def GainFields.answer (x : GainFields) (g : Gains) : Reply :=
  if x.held = [] then Reply.ok
  else .clamped x.held (fieldNat 1 2 g.kp ++ fieldNat 2 2 g.ki ++ fieldNat 3 2 g.kf ++ fieldNat 4 4 g.iLimit)

theorem GainFields.answer_accepted (x : GainFields) (g : Gains) : (x.answer g).accepted = true := by
  unfold GainFields.answer
  split <;> rfl

theorem Channel.setGains_written {x : GainFields} (c : Channel) (h : x.defaults = .absent ∨ x.defaults = .val false) :
    c.setGains x = { ch := c.withGains (x.written c.gains), sent := [], flushed := false,
                     reply := x.answer (x.written c.gains) } := by
  have hd : ¬x.defaults.get? = some true := by
    rcases h with h | h <;> rw [h] <;> decide
  rw [Channel.setGains, if_neg hd]
  rfl

theorem exec_setGains {r : Req} {fs : Fields} {p : MotorPort} {s : State} (hf : decodeFields r.payload = some fs)
    (hp : motorPortField 1 fs = .val p) (hk : (s.motors.ch.get p).kind ≠ .none)
    (hh : (s.motors.ch.get p).holder ≠ some r.link.other) (ha : s.admits r.link 0x14 = true)
    (hd : (GainFields.read fs).defaults = .absent ∨ (GainFields.read fs).defaults = .val false)
    (hx : (GainFields.read fs).failures = []) :
    exec (.setGains r) s = .next (s.changed 0x14 r p
      (((s.motors.ch.get p).withGains ((GainFields.read fs).written (s.motors.ch.get p).gains)).claimedBy r.link) [] []
      ((GainFields.read fs).answer ((GainFields.read fs).written (s.motors.ch.get p).gains))) := by
  have hm := (setGains_onPort (l := r.link) (m := s.motors) hp hx).trans
    (Motors.changing_accepted (.inr hk) hh (Channel.setGains_written _ hd) (GainFields.answer_accepted _ _))
  exact congrArg Host.Outcome.next (takeRequest_motor_changed (fun _ _ l fs m => m.setGains l fs) ha hf hm)

/-- R20: the fields written. -/
def Channel.withPolicy (policy : Val HoldPolicy) (stall : Val Nat) (c : Channel) : Channel :=
  { c with policy := policy.get?.getD c.policy, stallTime := stall.get?.getD c.stallTime }

/-- R20: a stall time within its range fails nothing. -/
theorem stall_inRange {stall : Val Nat} (h : ∀ n, stall = .val n → 50 ≤ n ∧ n ≤ 2000) :
    stall.violates .stallRange (outsideNat 50 2000) = [] := by
  cases stall with
  | val n => exact if_neg (by simp [outsideNat_false (h n rfl)])
  | absent => rfl
  | bad c => rfl

section
variable {pause : PauseState} {policy : Val HoldPolicy} {stall : Val Nat} {c : Channel}

theorem Channel.setPolicy_writes (hp : policy.fails = []) (hs : stall.fails = [])
    (hn : ∀ n, stall = .val n → 50 ≤ n ∧ n ≤ 2000) (hrun : pause = .running ∨ policy = .absent) :
    c.setPolicy pause policy stall =
      { ch := c.withPolicy policy stall, sent := [], flushed := false, reply := Reply.ok } := by
  have hfree : ¬(policy.get?.isSome ∧ pause ≠ .running) := by
    rcases hrun with h | h
    · exact fun hc => hc.2 h
    · rw [h]; exact fun hc => Bool.noConfusion hc.1
  simp only [Channel.setPolicy, hp, hs, stall_inRange hn, List.append_nil, ne_eq, not_true, if_false]
  exact if_neg hfree

theorem Channel.setPolicy_busy (hp : policy.fails = []) (hs : stall.fails = [])
    (hn : ∀ n, stall = .val n → 50 ≤ n ∧ n ≤ 2000) (hrun : pause ≠ .running) (hval : ∃ h, policy = .val h) :
    c.setPolicy pause policy stall = Change.none c (Reply.refuse .busy) := by
  obtain ⟨h, rfl⟩ := hval
  simp only [Channel.setPolicy, hp, hs, stall_inRange hn, List.append_nil, ne_eq, not_true, if_false]
  exact if_pos ⟨rfl, hrun⟩

theorem Channel.setPolicy_range {n : Nat} (hp : policy.fails = []) (h : n < 50 ∨ 2000 < n) :
    c.setPolicy pause policy (.val n) = Change.none c (.invalid [.stallRange]) := by
  have hbad : (Val.val n).violates .stallRange (outsideNat 50 2000) = [.stallRange] :=
    if_pos (outsideNat_eq_true.mpr h)
  simp only [Channel.setPolicy, hp, hbad]
  rfl

end

/-- Settles O28. -/
theorem gainsAndPolicyAreWritten : Obligations.GainsAndPolicyAreWritten := by
  unfold Obligations.GainsAndPolicyAreWritten
  refine ⟨fun r fs p s ha hf hp hk hh => ⟨fun hd => ?defaults, fun hd hx => ?gains, fun hd hx => ?invalid⟩,
    fun r fs p policy stall s ha hf hp hpol hst hpf hsf hh =>
      ⟨fun hn hrun => ?policy, fun hn hrun hval => ?busy, fun n hn hout => ?range⟩⟩
  case defaults =>
    have hm := (setGains_onPort (l := r.link) (m := s.motors) hp (GainFields.failures_defaults hd)).trans
      (Motors.changing_accepted (.inr hk) hh (Channel.setGains_defaults hd) rfl)
    exact congrArg Host.Outcome.next (takeRequest_motor_changed (fun _ _ l fs m => m.setGains l fs) ha hf hm)
  case gains =>
    intro gain cut g names
    have hgain : newGain = gain := by
      funext hi old v
      cases v <;> rfl
    have hcut : clampedName = cut := by
      funext k hi v
      cases v with
      | val n => rfl
      | absent => exact if_pos (Nat.zero_le hi)
      | bad c => exact if_pos (Nat.zero_le hi)
    have h := exec_setGains hf hp hk hh ha hd hx
    rw [GainFields.answer, GainFields.held, GainFields.written, hgain, hcut] at h
    exact h
  case invalid =>
    refine congrArg Host.Outcome.next (takeRequest_motor_refused (fun _ _ l fs m => m.setGains l fs) ha hf ?_)
    exact (Motors.onPort_val hp _ _ _).trans (if_pos hx)
  case policy =>
    subst hpol hst
    have hm := (setPolicy_onPort (l := r.link) (m := s.motors) hp).trans
      (Motors.changing_accepted (.inl rfl) hh (Channel.setPolicy_writes hpf hsf hn hrun) rfl)
    exact congrArg Host.Outcome.next (takeRequest_motor_changed (fun _ _ l fs m => m.setPolicy l fs) ha hf hm)
  case busy =>
    subst hpol hst
    have hm := (setPolicy_onPort (l := r.link) (m := s.motors) hp).trans
      (Motors.changing_refused (.inl rfl) hh (Channel.setPolicy_busy hpf hsf hn hrun hval) rfl)
    exact congrArg Host.Outcome.next (takeRequest_motor_refused (fun _ _ l fs m => m.setPolicy l fs) ha hf hm)
  case range =>
    subst hpol
    have hm := (setPolicy_onPort (l := r.link) (m := s.motors) hp).trans
      (Motors.changing_refused (.inl rfl) hh
        ((congrArg (Channel.setPolicy _ _ · _) (hst.trans hn)).trans (Channel.setPolicy_range hpf hout)) rfl)
    exact congrArg Host.Outcome.next (takeRequest_motor_refused (fun _ _ l fs m => m.setPolicy l fs) ha hf hm)

end Sys2Proof.Machine
end

section
/-! QUEUE_SEGMENT (R13 to R15): its fields, the checks on them, the segment that joins the queue. -/

namespace Sys2Proof.Machine

/-! ### The checks of R14 -/

theorem outside_eq_true {lo hi x : Int} : outside lo hi x = true ↔ x < lo ∨ hi < x := by simp [outside]

/-- A check stands among those of R14 for the fields that the rule names it for. -/
theorem SegmentFields.mem_checks {x : SegmentFields} {m : Motors} {l : Link} {p : MotorPort} {c : Check} :
    c ∈ x.checks m l p ↔
      (c = .dutyRange ∧ ∃ a, x.duty = .val a ∧ (a < -1000 ∨ 1000 < a)) ∨
      (c = .durationRange ∧ ∃ a, x.duration = .val a ∧ (a < 1 ∨ 600000 < a)) ∨
      (c = .speedRange ∧ ∃ a, x.cruise = .val a ∧ badCruise x.kind a = true) ∨
      (c = .accelRange ∧ ∃ a, x.accel = .val a ∧ (a < 100 ∨ 20000 < a)) ∨
      (c = .decelRange ∧ ∃ a, x.decel = .val a ∧ (a < 100 ∨ 20000 < a)) ∨
      (c = .targetRange ∧ ∃ a, x.target = .val a ∧ (a < -1000000 ∨ 1000000 < a)) ∨
      (c = .targetRange ∧ ∃ a, x.distance = .val a ∧ (a = 0 ∨ a < -1000000 ∨ 1000000 < a)) ∨
      (c = .toleranceRange ∧ ∃ a, x.tolerance = .val a ∧ 30 < a) ∨
      (c = .toleranceRange ∧ ∃ a, x.settleCount = .val a ∧ (a < 1 ∨ 255 < a)) ∨
      (c = .toleranceRange ∧ ∃ a, x.settleLimit = .val a ∧ (a < 10 ∨ 5000 < a)) ∨
      (c = .settleOrder ∧ badOrder x.settleCount x.settleLimit = true) ∨
      (c = .syncMask ∧ ∃ a, x.syncTag = .val a ∧ 7 < a) ∨
      (c = .syncMask ∧ ∃ a, x.members = .val a ∧ badMembers m l p a = true) := by
  have horder : c ∈ (if badOrder x.settleCount x.settleLimit then [Check.settleOrder] else []) ↔
      c = .settleOrder ∧ badOrder x.settleCount x.settleLimit = true := by
    split <;> simp_all
  simp only [SegmentFields.checks, List.mem_append, Val.mem_violates, horder, outside_eq_true, outsideNat_eq_true,
    decide_eq_true_eq, Bool.or_eq_true, beq_iff_eq, Nat.not_lt_zero, false_or, or_assoc]

/-- A rule's check on a field that is there. -/
theorem Val.exists_val {α : Type} {v : Val α} {a : α} {t : α → Prop} (h : v = .val a) :
    (∃ b, v = .val b ∧ t b) ↔ t a := by
  subst h
  constructor
  · rintro ⟨b, hb, ht⟩
    cases hb
    exact ht
  · exact fun ht => ⟨a, rfl, ht⟩

theorem Val.getD_val {α : Type} {v : Val α} {a d : α} (h : v = .val a) : v.get?.getD d = a := by
  rw [h]
  rfl

theorem Val.getD_absent {α : Type} {v : Val α} {d : α} (h : v = .absent) : v.get?.getD d = d := by
  rw [h]
  rfl

theorem Val.get_any {α : Type} {v : Val α} {t : α → Bool} : v.get?.any t = true ↔ ∃ a, v = .val a ∧ t a = true := by
  cases v <;> simp [Val.get?]

theorem badCruise_speed {c : Int} : badCruise (.val .speed) c = true ↔ c = 0 ∨ c < -2000 ∨ 2000 < c := by
  have h : (Val.val SegKind.speed).kindIn [.speed] = true := rfl
  rw [badCruise, if_pos h, absInt]
  simp only [Bool.or_eq_true, beq_iff_eq, decide_eq_true_eq]
  split <;> omega

theorem badCruise_move {k : SegKind} {c : Int} (h : k ≠ .speed) :
    badCruise (.val k) c = true ↔ c < 1 ∨ 2000 < c := by
  have hk : ¬(Val.val k).kindIn [.speed] = true := by simpa [Val.kindIn] using h
  rw [badCruise, if_neg hk, outside_eq_true]

theorem badOrder_iff {count limit : Val Nat} : badOrder count limit = true ↔
    (∃ a b, count = .val a ∧ limit = .val b ∧ b < a) ∨ (∃ a, count = .val a ∧ limit = .absent ∧ 1000 < a) ∨
      (∃ b, count = .absent ∧ limit = .val b ∧ b < 20) := by
  cases count <;> cases limit <;> simp [badOrder]

theorem badMembers_iff {m : Motors} {l : Link} {p : MotorPort} {ps : List MotorPort} : badMembers m l p ps = true ↔
    p ∉ ps ∨ ∃ q ∈ ps, (m.ch.get q).kind = .none ∨ (q ≠ p ∧ (m.ch.get q).holder ≠ some l) := by
  simp [badMembers]

/-! ### The fields the kind uses (R14; 1.3) -/

theorem Val.kindIn_val {k : SegKind} {ks : List SegKind} : (Val.val k).kindIn ks = true ↔ k ∈ ks := by
  simp [Val.kindIn]

theorem Val.onlyIf_kind {α : Type} {k : SegKind} {ks : List SegKind} {v : Val α} :
    v.onlyIf ((Val.val k).kindIn ks) = if k ∈ ks then v else .absent := by
  simp only [Val.onlyIf, Val.kindIn_val]

/-- The fields that a kind leaves in use. -/
theorem SegmentFields.used_of_kind {x : SegmentFields} {k : SegKind} (h : x.kind = .val k) :
    x.used = { x with
      duty := if k ∈ [SegKind.duty] then x.duty else .absent,
      duration := if k ∈ [SegKind.duty, .speed] then x.duration else .absent,
      cruise := if k ∈ [SegKind.speed, .moveTo, .moveBy] then x.cruise else .absent,
      accel := if k ∈ [SegKind.speed, .moveTo, .moveBy] then x.accel else .absent,
      decel := if k ∈ [SegKind.speed, .moveTo, .moveBy] then x.decel else .absent,
      target := if k ∈ [SegKind.moveTo] then x.target else .absent,
      distance := if k ∈ [SegKind.moveBy] then x.distance else .absent,
      tolerance := if k ∈ [SegKind.moveTo, .moveBy] then x.tolerance else .absent,
      settleCount := if k ∈ [SegKind.moveTo, .moveBy] then x.settleCount else .absent,
      settleLimit := if k ∈ [SegKind.moveTo, .moveBy] then x.settleLimit else .absent,
      members := x.members.onlyIf (x.syncTag.get?.any (fun n => n != 0)) } := by
  simp only [SegmentFields.used, h, Val.onlyIf_kind]

/-! ### MISSING_FIELD (R174) -/

section
variable {α : Type} {v : Val α}

theorem Val.missing_mem_need (h : v ≠ .bad .missingField) : Check.missingField ∈ v.need ↔ v = .absent := by
  cases v with
  | absent => simp [Val.need]
  | bad c => simpa [Val.need, eq_comm] using h
  | val a => simp [Val.need]

theorem Val.missing_not_mem_fails (h : v ≠ .bad .missingField) : Check.missingField ∉ v.fails := by
  cases v with
  | absent => simp [Val.fails]
  | bad c => simpa [Val.fails, eq_comm] using h
  | val a => simp [Val.fails]

theorem Val.onlyIf_ne (b : Bool) (h : v ≠ .bad .missingField) : v.onlyIf b ≠ .bad .missingField := by
  cases b
  · exact nofun
  · exact h

theorem Val.missing_mem_needIf {b : Bool} (h : v ≠ .bad .missingField) :
    Check.missingField ∈ (v.onlyIf b).needIf b ↔ b = true ∧ v = .absent := by
  cases b
  · simp [Val.needIf, Val.onlyIf, Val.fails]
  · simpa [Val.needIf, Val.onlyIf] using Val.missing_mem_need h

theorem Val.check_ne {β : Type} {c : Check} {g : α → Option β} (h : v ≠ .bad .missingField) (hc : c ≠ .missingField) :
    v.check c g ≠ .bad .missingField := by
  cases v with
  | absent => exact nofun
  | bad d => exact fun hd => h (congrArg Val.bad (Val.bad.inj hd))
  | val a =>
    cases hg : g a with
    | none => rw [Val.check_val_none c hg]; exact fun hd => hc (Val.bad.inj hd)
    | some b => rw [Val.check_val_some c hg]; exact nofun

end

section
variable {k : Nat} {fs : Fields}

theorem natField_ne : natField k fs ≠ .bad .missingField := by
  intro h
  cases natField_bad h

theorem intField_ne : intField k fs ≠ .bad .missingField := by
  unfold intField
  split
  · exact nofun
  · split
    · exact nofun
    · exact fun h => nomatch Val.bad.inj h

theorem enumField_ne {α : Type} {f : Nat → Option α} : enumField k f fs ≠ .bad .missingField :=
  Val.check_ne natField_ne (by decide)

theorem motorPortsField_ne : motorPortsField k fs ≠ .bad .missingField := by
  unfold motorPortsField
  split
  · exact nofun
  · exact Val.check_ne (nofun) (by decide)

theorem Val.check_absent {α β : Type} {v : Val α} {c : Check} {g : α → Option β} : v.check c g = .absent ↔ v = .absent := by
  cases v with
  | absent => exact ⟨fun _ => rfl, fun _ => rfl⟩
  | bad d => exact ⟨nofun, nofun⟩
  | val a => cases hg : g a <;> simp [Val.check, hg]

theorem natField_absent_iff : natField k fs = .absent ↔ fieldValue k fs = none := by
  unfold natField
  split
  next h => simp [h]
  next h => split <;> simp [h]

theorem intField_absent_iff : intField k fs = .absent ↔ fieldValue k fs = none := by
  unfold intField
  split
  next h => simp [h]
  next h => split <;> simp [h]

theorem enumField_absent_iff {α : Type} {f : Nat → Option α} : enumField k f fs = .absent ↔ fieldValue k fs = none :=
  Val.check_absent.trans natField_absent_iff

theorem motorPortsField_absent_iff : motorPortsField k fs = .absent ↔ fieldValue k fs = none := by
  unfold motorPortsField
  split
  next h => simp [h]
  next h => simp only [h, Val.check_absent, reduceCtorEq]

end

/-- R174: the fields whose absence fails. -/
theorem SegmentFields.missing_mem_failures {fs : Fields} :
    Check.missingField ∈ (SegmentFields.read fs).used.failures ↔
      fieldValue 2 fs = none ∨
      ((SegmentFields.read fs).kind.kindIn [.duty] = true ∧ fieldValue 3 fs = none) ∨
      ((SegmentFields.read fs).kind.kindIn [.duty, .speed] = true ∧ fieldValue 4 fs = none) ∨
      ((SegmentFields.read fs).kind.kindIn [.speed, .moveTo, .moveBy] = true ∧ fieldValue 5 fs = none) ∨
      ((SegmentFields.read fs).kind.kindIn [.moveTo] = true ∧ fieldValue 8 fs = none) ∨
      ((SegmentFields.read fs).kind.kindIn [.moveBy] = true ∧ fieldValue 9 fs = none) ∨
      ((natField 14 fs).get?.any (fun n => n != 0) = true ∧ fieldValue 15 fs = none) := by
  simp only [SegmentFields.failures, SegmentFields.used, SegmentFields.read, List.mem_append,
    Val.missing_mem_need enumField_ne, Val.missing_mem_needIf intField_ne, Val.missing_mem_needIf natField_ne,
    Val.missing_mem_needIf motorPortsField_ne, Val.missing_not_mem_fails natField_ne,
    Val.missing_not_mem_fails (Val.onlyIf_ne _ natField_ne), Val.missing_not_mem_fails enumField_ne,
    flagField, natFieldIn, Val.missing_not_mem_fails (Val.check_ne natField_ne _), enumField_absent_iff,
    natField_absent_iff, intField_absent_iff, motorPortsField_absent_iff, or_false, or_assoc, ne_eq, reduceCtorEq,
    not_false_eq_true]

theorem SegmentFields.missing_not_mem_checks {x : SegmentFields} {m : Motors} {l : Link} {p : MotorPort} :
    Check.missingField ∉ x.checks m l p := by
  simp [SegmentFields.mem_checks]

/-! ### The segment and its speed (R13 to R15; 1.3) -/

/-- R15: the cruise speed is held within the motor's limit, in either direction. -/
theorem keptCruise_within {power : PowerState} {kind : MotorKind} {limit : Int} (c : Int)
    (hl : (cruiseLimit power kind : Int) = limit) :
    (limit < c → keptCruise power kind c = limit) ∧ (c < -limit → keptCruise power kind c = -limit) ∧
      (-limit ≤ c → c ≤ limit → keptCruise power kind c = c) := by
  rw [keptCruise, clamp]
  refine ⟨fun hc => ?_, fun hc => ?_, fun h1 h2 => ?_⟩
  · rw [if_neg (by omega), if_pos (by omega), hl]
  · rw [if_pos (by omega), hl]
  · rw [if_neg (by omega), if_neg (by omega)]

section
variable {power : PowerState} {m : Motors} {l : Link} {p : MotorPort} {x : SegmentFields} {c : Channel}

/-- R15: the reply to a segment that joined. -/
def SegmentFields.joinedReply (power : PowerState) (l : Link) (x : SegmentFields) (c : Channel) : Reply :=
  if keptCruise power c.kind (x.segment l).cruise = (x.segment l).cruise then
    .plain .ok (fieldNat 1 1 (c.queue.length + 1))
  else .clamped [5] (fieldNat 1 1 (c.queue.length + 1) ++ fieldInt 2 2 (keptCruise power c.kind (x.segment l).cruise))

theorem SegmentFields.joinedReply_accepted : (x.joinedReply power l c).accepted = true := by
  unfold SegmentFields.joinedReply
  split <;> rfl

theorem Channel.queueSegment_fault (h : c.state = .fault) :
    c.queueSegment power m l p x = Change.none c (Reply.refuse .fault) := if_pos h

theorem Channel.queueSegment_power (hs : c.state ≠ .fault) (h : power = .critical) :
    c.queueSegment power m l p x = Change.none c (Reply.refuse .power) := (if_neg hs).trans (if_pos h)

theorem Channel.queueSegment_full (hs : c.state ≠ .fault) (hp : power ≠ .critical) (h : 8 ≤ c.queue.length) :
    c.queueSegment power m l p x = Change.none c (Reply.refuse .full) :=
  (if_neg hs).trans ((if_neg hp).trans (if_pos h))

theorem Channel.queueSegment_invalid (hs : c.state ≠ .fault) (hp : power ≠ .critical) (hq : c.queue.length < 8)
    (h : x.failures ++ x.checks m l p ≠ []) :
    c.queueSegment power m l p x = Change.none c (.invalid (x.failures ++ x.checks m l p)) :=
  (if_neg hs).trans ((if_neg hp).trans ((if_neg (Nat.not_le.mpr hq)).trans (if_pos h)))

theorem Channel.queueSegment_joins (hs : c.state ≠ .fault) (hp : power ≠ .critical) (hq : c.queue.length < 8)
    (h : x.failures ++ x.checks m l p = []) :
    c.queueSegment power m l p x =
      { ch := { c with
          queue := c.queue ++ [{ x.segment l with cruise := keptCruise power c.kind (x.segment l).cruise }] },
        sent := [], flushed := false, reply := x.joinedReply power l c } :=
  (if_neg hs).trans ((if_neg hp).trans ((if_neg (Nat.not_le.mpr hq)).trans (if_neg (not_not.mpr h))))

end

section
variable {r : Req} {fs : Fields} {p : MotorPort} {s : State}

theorem exec_queueSegment_refused {y : Reply} (hf : decodeFields r.payload = some fs)
    (hp : motorPortField 1 fs = .val p) (hk : (s.motors.ch.get p).kind ≠ .none)
    (hh : (s.motors.ch.get p).holder ≠ some r.link.other) (ha : s.admits r.link 0x12 = true)
    (hy : (s.motors.ch.get p).queueSegment s.supply.power s.motors r.link p (SegmentFields.read fs).used =
      Change.none (s.motors.ch.get p) y) (hacc : y.accepted = false) :
    exec (.queueSegment r) s = .next ((s.entered 0x12 r).replied 0x12 r y) := by
  have hm : s.motors.queueSegment s.supply.power r.link fs = MotorAnswer.none s.motors y :=
    (Motors.onPort_val hp _ _ _).trans (Motors.changing_refused (.inr hk) hh hy hacc)
  exact congrArg Host.Outcome.next
    (takeRequest_motor_refused (fun _ power l fs m => m.queueSegment power l fs) ha hf hm)

theorem exec_queueSegment_joins (hf : decodeFields r.payload = some fs)
    (hp : motorPortField 1 fs = .val p) (hk : (s.motors.ch.get p).kind ≠ .none)
    (hh : (s.motors.ch.get p).holder ≠ some r.link.other) (ha : s.admits r.link 0x12 = true) {x : Change}
    (hx : (s.motors.ch.get p).queueSegment s.supply.power s.motors r.link p (SegmentFields.read fs).used = x)
    (hacc : x.reply.accepted = true) (hfl : x.flushed = false) :
    exec (.queueSegment r) s = .next (s.changed 0x12 r p (x.ch.claimedBy r.link) x.sent [] x.reply) := by
  have hm : s.motors.queueSegment s.supply.power r.link fs = _ :=
    (Motors.onPort_val hp _ _ _).trans (Motors.changing_accepted (.inr hk) hh hx hacc)
  rw [hfl] at hm
  exact congrArg Host.Outcome.next
    (takeRequest_motor_changed (fun _ power l fs m => m.queueSegment power l fs) ha hf hm)

end

/-- Settles O25. -/
theorem queueSegmentJoinsTheQueue : Obligations.QueueSegmentJoinsTheQueue := by
  unfold Obligations.QueueSegmentJoinsTheQueue
  refine ⟨fun r fs p s ha hf hp => ?request, fun x m l p => ?checks, fun x l => ?segment, fun fs m l p => ?fields,
    fun power kind c h => ?cruise⟩
  case request =>
    intro c x bad g kept hk hh
    refine ⟨fun hs => ?fault, fun hs hpow => ?power, fun hs hpow hq => ?full, fun hs hpow hq hb => ?invalid,
      fun hs hpow hq hb => ?joins⟩
    case fault => exact exec_queueSegment_refused hf hp hk hh ha (Channel.queueSegment_fault hs) rfl
    case power => exact exec_queueSegment_refused hf hp hk hh ha (Channel.queueSegment_power hs hpow) rfl
    case full => exact exec_queueSegment_refused hf hp hk hh ha (Channel.queueSegment_full hs hpow hq) rfl
    case invalid => exact exec_queueSegment_refused hf hp hk hh ha (Channel.queueSegment_invalid hs hpow hq hb) rfl
    case joins =>
      have h := exec_queueSegment_joins hf hp hk hh ha (Channel.queueSegment_joins hs hpow hq hb)
        SegmentFields.joinedReply_accepted rfl
      rw [SegmentFields.joinedReply] at h
      exact h
  case checks =>
    simp only [SegmentFields.mem_checks, reduceCtorEq, false_and, true_and, false_or, or_false]
    refine ⟨fun d h => Val.exists_val h, fun d h => Val.exists_val h, fun a h => Val.exists_val h,
      fun a h => Val.exists_val h, fun c h hk => ?moveTo, fun c h hk => ?speed, fun c h hk => ?moveBy,
      fun g h hd => ?target, fun d h ht => ?distance, badOrder_iff, ?members, fun k hk => ?used⟩
    case moveTo => rw [Val.exists_val h, hk, badCruise_move (by decide)]
    case speed => rw [Val.exists_val h, hk, badCruise_speed]
    case moveBy => rw [Val.exists_val h, hk, badCruise_move (by decide)]
    case target => simp [Val.exists_val h, hd]
    case distance => simp [Val.exists_val h, ht]
    case members => simp only [badMembers_iff]
    case used =>
      rw [SegmentFields.used_of_kind hk]
      refine ⟨rfl, ?_⟩
      simp only [List.mem_cons, List.not_mem_nil, or_false, true_and]
      refine ⟨?_, fun n hn hne => ?_⟩
      · rintro (ht | ht) <;> rw [ht] <;> rfl
      · rw [hn]
        simp [Val.onlyIf, Val.get?, hne]
  case segment =>
    exact ⟨fun k h => Val.getD_val h, fun d h => Val.getD_val h, fun n h => Val.getD_val h, fun c h => Val.getD_val h,
      fun a h => Val.getD_val h, Val.getD_absent, fun b h => Val.getD_val h, Val.getD_absent,
      fun a h => Val.getD_val h, fun d h => Val.getD_val h, fun n h => Val.getD_val h, Val.getD_absent,
      fun n h => Val.getD_val h, Val.getD_absent, fun n h => Val.getD_val h, Val.getD_absent,
      fun a h => Val.getD_val h, Val.getD_absent, fun n h => Val.getD_val h, Val.getD_absent,
      fun ps h => congrArg portSet (Val.getD_val h), fun b h => Val.getD_val h, Val.getD_absent,
      fun n h => Val.getD_val h, Val.getD_absent, rfl⟩
  case fields =>
    refine ⟨rfl, rfl, rfl, rfl, rfl, rfl, rfl, rfl, rfl, rfl, rfl, rfl, rfl, rfl, rfl, rfl, ?_⟩
    rw [List.mem_append, SegmentFields.missing_mem_failures, or_iff_left SegmentFields.missing_not_mem_checks,
      Val.get_any]
    cases hk : (SegmentFields.read fs).kind with
    | absent => simp [Val.kindIn]
    | bad c => simp [Val.kindIn]
    | val k =>
      rw [Val.exists_val rfl]
      simp only [Val.kindIn_val, List.mem_cons, List.not_mem_nil, or_false, or_assoc, bne_iff_ne]
  case cruise =>
    refine keptCruise_within c ?_
    cases kind with
    | none => exact absurd rfl h
    | small => cases power <;> rfl
    | large => cases power <;> rfl

end Sys2Proof.Machine
end

section
/-! PAUSE, RESUME and STEP (R55 to R62): each channel and voice set up, the notice of the pause state, the requests. -/

namespace Sys2Proof.Machine

/-! ### Channels (R55, R57, R59, R60) -/

/-- R57: a channel under IMMEDIATE that runs or settles. -/
theorem Channel.pauseAtOnce_of {c : Channel} {g : Segment} (z : Resume) (h : c.current = some g) :
    c.pauseAtOnce z = if g.kind = .stop then c.pauseIn z else (c.beginStop g.decel).pauseIn z := by
  simp only [Channel.pauseAtOnce, h]

theorem Channel.pauseSetUp_free {c : Channel} (h : c.policy = .free) : c.pauseSetUp = c := by
  simp only [Channel.pauseSetUp, h]

theorem Channel.pauseSetUp_segmentEnd {c : Channel} (h : c.policy = .segmentEnd) :
    c.pauseSetUp = if c.state = .syncWait then c.pauseIn .syncWait else c := by
  simp only [Channel.pauseSetUp, h]

theorem Channel.pauseSetUp_queueEnd {c : Channel} (h : c.policy = .queueEnd) :
    c.pauseSetUp = { c with allowance := c.queue.length } := by
  simp only [Channel.pauseSetUp, h]

theorem Channel.pauseSetUp_barrier {c : Channel} (h : c.policy = .immediate) (hs : c.state = .syncWait) :
    c.pauseSetUp = c.pauseIn .syncWait := by
  simp only [Channel.pauseSetUp, h, hs]

theorem Channel.pauseSetUp_moving {c : Channel} {g : Segment} {z : Resume} (h : c.policy = .immediate)
    (hz : (c.state = .running ∧ z = .running) ∨ (c.state = .settling ∧ z = .settling)) (hg : c.current = some g) :
    c.pauseSetUp = if g.kind = .stop then c.pauseIn z else (c.beginStop g.decel).pauseIn z := by
  rcases hz with ⟨hs, rfl⟩ | ⟨hs, rfl⟩
  · simp only [Channel.pauseSetUp, h, hs]
    exact Channel.pauseAtOnce_of _ hg
  · simp only [Channel.pauseSetUp, h, hs]
    exact Channel.pauseAtOnce_of _ hg

theorem Channel.pauseSetUp_else {c : Channel} (h : c.policy = .immediate) (hr : c.state ≠ .running)
    (ht : c.state ≠ .settling) (hw : c.state ≠ .syncWait) : c.pauseSetUp = c := by
  simp only [Channel.pauseSetUp, h]

/-- R58: the condition of one channel, in the words of the rule. -/
theorem Channel.atRest_eq (c : Channel) : c.atRest =
    decide (c.policy = .free ∨
      ((c.state = .held ∨ c.state = .idle ∨ c.state = .off ∨ c.state = .fault) ∧ c.phase ≠ .stopping ∧
        c.stepMark = .none)) := by
  rw [Bool.eq_iff_iff]
  simp [Channel.atRest, or_assoc, and_assoc]

/-- R59: the condition of one channel, in the words of the rule. -/
theorem Channel.steppable_eq (c : Channel) : c.steppable =
    decide (c.policy = .segmentEnd ∧ c.state = .held ∧ (c.resume = some .idle ∨ c.resume = some .syncWait) ∧
      c.queue ≠ []) := by
  rw [Bool.eq_iff_iff]
  simp [Channel.steppable, and_assoc]

/-- R60: a channel out of HELD. -/
theorem Channel.unheld_of {c : Channel} (h : c.state ≠ .held) : c.unheld = c := if_neg h

/-- R60: a held channel at its resume state. -/
def Channel.back (z : Resume) (c : Channel) : Channel :=
  match z with
  | .idle => { c with state := .idle }
  | .syncWait => { c with state := .syncWait }
  | .running => { c with state := .running, spd := 0, phase := .holding }
  | .settling => { c with state := .settling, spd := 0, phase := .done, inTol := 0 }

/-- R60: the pause fields of a channel cleared. -/
def Channel.unpaused (c : Channel) : Channel :=
  { c with allowance := 0, heldAction := none, resume := none, stepMark := .none }

theorem Channel.resumed_other {c : Channel} (h : c.state ≠ .held) : c.resumed = c.unpaused := by
  rw [Channel.resumed, Channel.unheld_of h]
  rfl

theorem Channel.resumed_held {c : Channel} {z : Resume} (h : c.state = .held) (hz : c.resume = some z) :
    c.resumed = (c.back z).unpaused := by
  cases z <;> simp only [Channel.resumed, Channel.unheld, h, hz, if_true, Channel.back, Channel.unpaused]

theorem Channel.stepped_of {c : Channel} (h : c.steppable = true) :
    c.stepped = { c with stepMark := .pending, resume := none, heldAction := none,
                         state := if c.resume = some .syncWait then .syncWait else .idle } := if_pos h

theorem Channel.stepped_other {c : Channel} (h : c.steppable = false) : c.stepped = c :=
  if_neg (Bool.eq_false_iff.mp h)

/-! ### Voices (R62) -/

theorem Voice.frozen_eq (v : Voice) :
    v.frozen = if v.state ∈ [VoiceState.head, .loop, .tail, .tone] ∧ v.free = false
      then { v with state := .frozen, prior := some v.state } else v := by
  have h : (v.playing && v.state != .frozen && !v.free) = true ↔
      v.state ∈ [VoiceState.head, .loop, .tail, .tone] ∧ v.free = false := by
    cases hs : v.state <;> simp [Voice.playing, hs]
  simp only [Voice.frozen, h]

theorem Voice.continued_other {v : Voice} (h : v.state ≠ .frozen) : v.continued = v := if_neg h

theorem Voice.continued_frozen {v : Voice} {z : VoiceState} (h : v.state = .frozen) (hz : v.prior = some z) :
    v.continued = { v with state := z, prior := none } := by
  rw [Voice.continued, if_pos h, hz]
  rfl

theorem Voice.continued_of_frozen {v : Voice} (h : v.playing = true) (hs : v.state ≠ .frozen) (hf : v.free = false) :
    v.frozen.continued = { v with prior := none } := by
  have hc : (v.playing && v.state != .frozen && !v.free) = true := by simp [h, hs, hf]
  rw [Voice.frozen, if_pos hc]
  rfl

/-! ### The notice of a pause state and the reply (R58) -/

/-- A reply is placed by what the router is. -/
theorem State.replied_router_congr {s t : State} (h : s.router = t.router) (c : Byte) (r : Req) (y : Reply) :
    (s.replied c r y).router = (t.replied c r y).router := by
  unfold State.replied State.answer
  split
  · simp only [h]
  · exact h

theorem State.withMotors_pause (s : State) (m : Motors) :
    (s.withMotors (m, m.pauseNotice)).router = (s.notify .primary (.pauseState m.pause m.heldPorts)).router := rfl

/-! ### The requests in the part -/

section
variable {r : Req} {s : State}

theorem exec_pause_begins (ha : s.admits r.link 0x04 = true) (hp : s.motors.pause = .running) :
    exec (.pause r) s =
      .next ((s.entered 0x04 r).pauseBegun.replied 0x04 r (s.entered 0x04 r).pauseBegun.pauseReply) := by
  refine congrArg Host.Outcome.next (takeRequest_answered ha ?_)
  have he : (s.entered 0x04 r).motors.pause = .running := by rw [State.entered_motors, hp]
  rw [handlePause, if_pos he]

theorem exec_pause_answers (ha : s.admits r.link 0x04 = true) (hp : s.motors.pause ≠ .running) :
    exec (.pause r) s = .next ((s.entered 0x04 r).replied 0x04 r
      (.plain .ok (fieldNat 1 1 (pauseCode s.motors.pause)))) := by
  refine congrArg Host.Outcome.next (takeRequest_answered ha ?_)
  have he : ¬(s.entered 0x04 r).motors.pause = .running := by rw [State.entered_motors]; exact hp
  rw [handlePause, if_neg he, State.pauseReply, State.entered_motors]

theorem exec_resume_ends (ha : s.admits r.link 0x05 = true) (hp : s.motors.pause ≠ .running) :
    exec (.resume r) s = .next ((s.entered 0x05 r).pauseEnded.replied 0x05 r Reply.ok) := by
  refine congrArg Host.Outcome.next (takeRequest_answered ha ?_)
  have he : ¬(s.entered 0x05 r).motors.pause = .running := by rw [State.entered_motors]; exact hp
  rw [handleResume, if_neg he]

theorem exec_resume_answers (ha : s.admits r.link 0x05 = true) (hp : s.motors.pause = .running) :
    exec (.resume r) s = .next ((s.entered 0x05 r).replied 0x05 r Reply.ok) := by
  refine congrArg Host.Outcome.next (takeRequest_answered ha ?_)
  have he : (s.entered 0x05 r).motors.pause = .running := by rw [State.entered_motors, hp]
  rw [handleResume, if_pos he]

theorem exec_stepSegment_busy (ha : s.admits r.link 0x06 = true) (hp : s.motors.pause ≠ .paused) :
    exec (.stepSegment r) s = .next ((s.entered 0x06 r).replied 0x06 r (Reply.refuse .busy)) := by
  have he : ¬(s.entered 0x06 r).motors.pause = .paused := by rw [State.entered_motors]; exact hp
  have hx : handleStep r (s.entered 0x06 r) = refused (s.entered 0x06 r) (Reply.refuse .busy) := if_neg he
  refine congrArg Host.Outcome.next ((takeRequest_of_admits _ ha).trans ?_)
  rw [hx, finish_refused]

theorem exec_stepSegment (ha : s.admits r.link 0x06 = true) (hp : s.motors.pause = .paused) :
    exec (.stepSegment r) s = .next (State.replied
      (if s.motors.steppablePorts = [] then s.entered 0x06 r else (s.entered 0x06 r).withMotors s.motors.stepNow)
      0x06 r (.plain .ok (field 1 (portBytes s.motors.steppablePorts)))) := by
  have he : (s.entered 0x06 r).motors.pause = .paused := by rw [State.entered_motors, hp]
  refine congrArg Host.Outcome.next (takeRequest_answered ha ?_)
  rw [handleStep, if_pos he, State.entered_motors]

end

theorem Motors.pauseNow_get (m : Motors) (p : MotorPort) :
    m.pauseNow.1.ch.get p = (m.ch.get p).pauseSetUp := by
  unfold Motors.pauseNow
  dsimp only
  split <;> exact Six.get_map _ _ _

theorem Motors.pauseNow_pause (m : Motors) :
    m.pauseNow.1.pause = if m.pauseNow.1.allAtRest = true then .paused else .pausing := by
  unfold Motors.pauseNow
  dsimp only
  split
  next h => exact (if_pos h).symm
  next h => rfl

theorem Motors.pauseNow_groups (m : Motors) : m.pauseNow.1.groups = m.groups := by
  unfold Motors.pauseNow
  dsimp only
  split <;> rfl

theorem Motors.steppablePorts_nil {m : Motors} : m.steppablePorts = [] ↔ ∀ p, (m.ch.get p).steppable = false := by
  simp [Motors.steppablePorts, List.filter_eq_nil_iff, MotorPort.mem_all]

theorem State.pauseBegun_router (s : State) :
    s.pauseBegun.router =
      (s.notify .primary (.pauseState s.motors.pauseNow.1.pause s.motors.pauseNow.1.heldPorts)).router := rfl

theorem State.pauseBegun_reply (s : State) :
    s.pauseBegun.pauseReply = .plain .ok (fieldNat 1 1 (pauseCode s.motors.pauseNow.1.pause)) := rfl

theorem State.pauseEnded_router (s : State) :
    s.pauseEnded.router = (s.notify .primary (.pauseState .running s.motors.resumeNow.1.heldPorts)).router := rfl

/-- Settles O29. -/
theorem pauseResumeAndStep : Obligations.PauseResumeAndStep := by
  unfold Obligations.PauseResumeAndStep
  intro held atRest toStep
  have hheld : ∀ t, held t = t.motors.heldPorts := fun _ => rfl
  have hrest : Channel.atRest = atRest := funext Channel.atRest_eq
  have hstep : Channel.steppable = toStep := funext Channel.steppable_eq
  refine ⟨fun r s => ⟨fun ha hp => ?pause, exec_pause_answers, fun ha hp => ?resume, exec_resume_answers,
    fun v => Voice.continued_of_frozen⟩, fun r s ha => ⟨exec_stepSegment_busy ha, fun hp hno => ?noStep,
    fun hp hsome => ?step⟩⟩
  case pause =>
    have hm : ((s.entered 0x04 r).pauseBegun.replied 0x04 r (s.entered 0x04 r).pauseBegun.pauseReply).motors =
        s.motors.pauseNow.1 := by
      rw [State.replied_motors]
      exact congrArg (fun m : Motors => m.pauseNow.1) (State.entered_motors s 0x04 r)
    refine ⟨_, exec_pause_begins ha hp, ?_⟩
    have hx : ((s.entered 0x04 r).pauseBegun.replied 0x04 r (s.entered 0x04 r).pauseBegun.pauseReply).mixer =
        s.mixer.freeze := by
      rw [State.replied_mixer]
      exact congrArg Mixer.freeze (State.entered_mixer s 0x04 r)
    have hr := State.pauseBegun_router (s.entered 0x04 r)
    have hy := State.pauseBegun_reply (s.entered 0x04 r)
    rw [State.entered_motors] at hr hy
    rw [hheld, hm, hx]
    refine ⟨fun p => ⟨fun h => ?_, fun h => ?_, fun h => ?_, fun h => ⟨fun hs => ?_, fun z g hz hg => ?_,
      fun h1 h2 h3 => ?_⟩⟩, ?_, rfl, fun i => ?_, Motors.pauseNow_groups _, ?_, ?_, ?_, ?_, ?_, fun hask => ?_⟩
    · exact (Motors.pauseNow_get _ _).trans (Channel.pauseSetUp_free h)
    · exact (Motors.pauseNow_get _ _).trans (Channel.pauseSetUp_segmentEnd h)
    · exact (Motors.pauseNow_get _ _).trans (Channel.pauseSetUp_queueEnd h)
    · exact (Motors.pauseNow_get _ _).trans (Channel.pauseSetUp_barrier h hs)
    · exact (Motors.pauseNow_get _ _).trans (Channel.pauseSetUp_moving h hz hg)
    · exact (Motors.pauseNow_get _ _).trans (Channel.pauseSetUp_else h h1 h2 h3)
    · rw [← hrest]
      exact Motors.pauseNow_pause _
    · exact (Four.get_map _ _ _).trans (Voice.frozen_eq _)
    · exact (State.replied_sensors _ _ _ _).trans (State.entered_sensors s 0x04 r)
    · exact (State.replied_watch _ _ _ _).trans (State.entered_watch s 0x04 r)
    · exact (State.replied_store _ _ _ _).trans (State.entered_store s 0x04 r)
    · exact (State.replied_supply _ _ _ _).trans (State.entered_supply s 0x04 r)
    · rw [hy, State.replied_router_congr hr]
    · rw [State.replied_replies _ _ _ _ hask, hy, hr, State.notify_router, Router.place_replies, State.entered_replies]
      rfl
  case resume =>
    have hm : ((s.entered 0x05 r).pauseEnded.replied 0x05 r Reply.ok).motors = s.motors.resumeNow.1 := by
      rw [State.replied_motors]
      exact congrArg (fun m : Motors => m.resumeNow.1) (State.entered_motors s 0x05 r)
    have hx : ((s.entered 0x05 r).pauseEnded.replied 0x05 r Reply.ok).mixer = s.mixer.unfreeze := by
      rw [State.replied_mixer]
      exact congrArg Mixer.unfreeze (State.entered_mixer s 0x05 r)
    have hr := State.pauseEnded_router (s.entered 0x05 r)
    rw [State.entered_motors] at hr
    refine ⟨_, exec_resume_ends ha hp, ?_⟩
    rw [hheld, hm, hx]
    refine ⟨rfl, fun p => ⟨fun h => ?_, fun h hz => ?_, fun h hz => ?_, fun h hz => ?_, fun h hz => ?_⟩, rfl,
      fun i => ⟨fun h => ?_, fun z h hz => ?_⟩, ?_, ?_, ?_, ?_, ?_⟩
    · exact (Six.get_map _ _ _).trans (Channel.resumed_other h)
    · exact (Six.get_map _ _ _).trans (Channel.resumed_held h hz)
    · exact (Six.get_map _ _ _).trans (Channel.resumed_held h hz)
    · exact (Six.get_map _ _ _).trans (Channel.resumed_held h hz)
    · exact (Six.get_map _ _ _).trans (Channel.resumed_held h hz)
    · exact (Four.get_map _ _ _).trans (Voice.continued_other h)
    · exact (Four.get_map _ _ _).trans (Voice.continued_frozen h hz)
    · exact State.replied_router_congr hr _ _ _
    · exact (State.replied_sensors _ _ _ _).trans (State.entered_sensors s 0x05 r)
    · exact (State.replied_watch _ _ _ _).trans (State.entered_watch s 0x05 r)
    · exact (State.replied_store _ _ _ _).trans (State.entered_store s 0x05 r)
    · exact (State.replied_supply _ _ _ _).trans (State.entered_supply s 0x05 r)
  case noStep =>
    have hnil : s.motors.steppablePorts = [] := Motors.steppablePorts_nil.mpr fun p => by rw [hstep]; exact hno p
    rw [exec_stepSegment ha hp, if_pos hnil, hnil]
    rfl
  case step =>
    have hne : ¬s.motors.steppablePorts = [] := by
      obtain ⟨p, hp⟩ := hsome
      intro hnil
      rw [← hstep, Motors.steppablePorts_nil.mp hnil p] at hp
      exact Bool.noConfusion hp
    refine ⟨_, (exec_stepSegment ha hp).trans (by rw [if_neg hne]), ?_⟩
    have hports : s.motors.steppablePorts = MotorPort.all.filter (fun p => toStep (s.motors.ch.get p)) := by
      rw [← hstep]
      rfl
    rw [hports]
    have hm (y : Reply) :
        (((s.entered 0x06 r).withMotors s.motors.stepNow).replied 0x06 r y).motors = s.motors.stepNow.1 :=
      State.replied_motors _ _ _ _
    rw [hheld, hm]
    refine ⟨rfl, fun p => ⟨fun h => ?_, fun h => ?_⟩, ?_, ?_, ?_, ?_, ?_, ?_⟩
    · exact (Six.get_map _ _ _).trans (Channel.stepped_other ((congrFun hstep _).trans h))
    · exact (Six.get_map _ _ _).trans (Channel.stepped_of ((congrFun hstep _).trans h))
    · exact State.replied_router_congr (State.withMotors_pause (s.entered 0x06 r) s.motors.stepNow.1) _ _ _
    · exact (State.replied_mixer _ _ _ _).trans (State.entered_mixer s 0x06 r)
    · exact (State.replied_sensors _ _ _ _).trans (State.entered_sensors s 0x06 r)
    · exact (State.replied_watch _ _ _ _).trans (State.entered_watch s 0x06 r)
    · exact (State.replied_store _ _ _ _).trans (State.entered_store s 0x06 r)
    · exact (State.replied_supply _ _ _ _).trans (State.entered_supply s 0x06 r)

end Sys2Proof.Machine
end

section
/-! The events on the motors besides the control expiry (R1, R2, R33, R44 to R48): the samples of the ID lines and the
ending checks taken apart. -/

namespace Sys2Proof.Machine

/-! ### The conclusion of an event on one channel -/

/-- What a break of groups leaves besides the queue and what the channel waits for. -/
theorem Channel.breakGroups_settings (gs : List Group) (p : MotorPort) (c : Channel) :
    (c.breakGroups gs p).1.gains = c.gains ∧ (c.breakGroups gs p).1.policy = c.policy ∧
      (c.breakGroups gs p).1.stallTime = c.stallTime ∧ (c.breakGroups gs p).1.lastTarget = c.lastTarget ∧
      (c.breakGroups gs p).1.fault = c.fault ∧ (c.breakGroups gs p).1.idLast = c.idLast := by
  unfold Channel.breakGroups
  split
  · exact ⟨rfl, rfl, rfl, rfl, rfl, rfl⟩
  · dsimp only
    split <;> exact ⟨rfl, rfl, rfl, rfl, rfl, rfl⟩

theorem Channel.finishRelease_settings (c : Channel) :
    c.finishRelease.gains = c.gains ∧ c.finishRelease.policy = c.policy ∧ c.finishRelease.stallTime = c.stallTime ∧
      c.finishRelease.lastTarget = c.lastTarget ∧ c.finishRelease.fault = c.fault ∧
      c.finishRelease.idLast = c.idLast ∧ c.finishRelease.overCount = c.overCount := by
  unfold Channel.finishRelease
  split <;> exact ⟨rfl, rfl, rfl, rfl, rfl, rfl, rfl⟩

/-- R53, R23: a channel after the conclusion of an event that breaks the groups `gs`. -/
def Channel.concluded (gs : List Group) (p : MotorPort) (c : Channel) : Channel := (c.breakGroups gs p).1.finishRelease

theorem Channel.concluded_motor (gs : List Group) (p : MotorPort) (c : Channel) :
    (c.concluded gs p).kind = c.kind ∧ (c.concluded gs p).enc = c.enc ∧ (c.concluded gs p).applied = c.applied ∧
      (c.concluded gs p).drive = c.drive ∧ (c.concluded gs p).q = c.q ∧ (c.concluded gs p).spd = c.spd := by
  obtain ⟨-, h1, h2, h3, h4, -, -, -⟩ := c.breakGroups_frame gs p
  obtain ⟨k1, k2, -⟩ := c.breakGroups_kept gs p
  obtain ⟨f1, f2, -, -, -, -, -, -, f3, f4, f5, f6⟩ := (c.breakGroups gs p).1.finishRelease_frame
  exact ⟨f2.trans h2, f1.trans h1, f3.trans h3, f4.trans h4, f5.trans k1, f6.trans k2⟩

theorem Channel.concluded_settings (gs : List Group) (p : MotorPort) (c : Channel) :
    (c.concluded gs p).gains = c.gains ∧ (c.concluded gs p).policy = c.policy ∧
      (c.concluded gs p).stallTime = c.stallTime ∧ (c.concluded gs p).lastTarget = c.lastTarget ∧
      (c.concluded gs p).fault = c.fault ∧ (c.concluded gs p).idLast = c.idLast := by
  obtain ⟨h1, h2, h3, h4, h5, h6⟩ := c.breakGroups_settings gs p
  obtain ⟨f1, f2, f3, f4, f5, f6, -⟩ := (c.breakGroups gs p).1.finishRelease_settings
  exact ⟨f1.trans h1, f2.trans h2, f3.trans h3, f4.trans h4, f5.trans h5, f6.trans h6⟩

theorem Channel.concluded_state {gs : List Group} {p : MotorPort} {c : Channel} (h : c.waits = false) :
    (c.concluded gs p).state = c.state := by
  obtain ⟨-, -, -, -, f, -⟩ := (c.breakGroups gs p).1.finishRelease_frame
  exact f.trans (c.breakGroups_inside p (.inr h)).1

theorem Channel.concluded_empty {gs : List Group} {p : MotorPort} {c : Channel} (h : c.queue = []) :
    c.concluded gs p = c.finishRelease := by
  rw [Channel.concluded, c.breakGroups_empty gs p h]

/-! ### The ID lines (R1, R2) -/

theorem Motors.idSamples_notMem {k : Six MotorIdClass} {ps : List MotorPort} {m : Motors} {q : MotorPort} (h : q ∉ ps) :
    (Motors.idSamples k ps m).1.ch.get q = m.ch.get q := by
  induction ps generalizing m with
  | nil => rfl
  | cons p ps ih =>
    simp only [List.mem_cons, not_or] at h
    simp [Motors.idSamples, ih h.2, Motors.setCh, h.1]

/-- The sample of a port sees only its own channel. -/
theorem Motors.idSamples_get {k : Six MotorIdClass} {ps : List MotorPort} {m : Motors} (hn : ps.Nodup) (q : MotorPort) :
    (Motors.idSamples k ps m).1.ch.get q =
      if q ∈ ps then ((m.ch.get q).idSample q (k.get q)).ch else m.ch.get q := by
  induction ps generalizing m with
  | nil => rfl
  | cons p ps ih =>
    simp only [List.nodup_cons] at hn
    by_cases h : q = p
    · subst h
      simp [Motors.idSamples, Motors.idSamples_notMem hn.1, Motors.setCh]
    · simp [Motors.idSamples, ih hn.2, Motors.setCh, h]

/-- A sample of the ID lines on each channel. -/
theorem Motors.idSample_get (k : Six MotorIdClass) (m : Motors) (q : MotorPort) :
    ∃ gs, (m.idSample k).1.ch.get q = (((m.ch.get q).idSample q (k.get q)).ch).concluded gs q := by
  have h := Motors.conclude_get (Motors.idSamples k MotorPort.all m).2.2 (Motors.idSamples k MotorPort.all m).1 q
  rw [Motors.idSamples_get MotorPort.all_nodup, if_pos (MotorPort.mem_all q)] at h
  exact ⟨_, h⟩

section
variable {p : MotorPort} {k : MotorIdClass} {c : Channel}

theorem Channel.idSample_same (h : c.idLast ≠ some k ∨ motorKindOf k = c.kind) :
    c.idSample p k = Checked.quiet { c with idLast := some k } := by
  refine if_neg ?_
  rintro ⟨h1, h2⟩
  exact h.elim (· h1) h2

theorem Channel.idSample_attach (h : c.idLast = some k) (hk : motorKindOf k ≠ c.kind) (hn : motorKindOf k ≠ .none) :
    ∃ b : Channel, (c.idSample p k).ch = b.attach (motorKindOf k) ∧ b.policy = c.policy ∧ b.stallTime = c.stallTime ∧
      b.idLast = some k := by
  rw [Channel.idSample, if_pos ⟨h, hk⟩]
  split
  · exact ⟨_, rfl, rfl, rfl, rfl⟩
  · refine ⟨_, rfl, ?_⟩
    unfold Channel.detach Channel.emptied Channel.dropCurrent
    split <;> exact ⟨rfl, rfl, rfl⟩

theorem Channel.idSample_detach (h : c.idLast = some k) (hk : motorKindOf k = .none) (hn : c.kind ≠ .none) :
    (c.idSample p k).ch = (Channel.detach p { c with idLast := some k }).1 := by
  rw [Channel.idSample, if_pos ⟨h, fun he => hn (he.symm.trans hk)⟩, if_neg hn]
  exact if_pos hk

/-- R2: a detached channel. -/
theorem Channel.detach_frame (p : MotorPort) (c : Channel) :
    (c.detach p).1.kind = .none ∧ (c.detach p).1.state = .off ∧ (c.detach p).1.drive = .off ∧
      (c.detach p).1.applied = 0 ∧ (c.detach p).1.current = none ∧ (c.detach p).1.queue = [] ∧
      (c.detach p).1.rest = .coast ∧ (c.detach p).1.fault = none ∧ (c.detach p).1.policy = c.policy ∧
      (c.detach p).1.idLast = c.idLast := by
  obtain ⟨-, -, -, -, -, hcur⟩ := c.dropCurrent_frame
  refine ⟨rfl, rfl, rfl, rfl, hcur, rfl, rfl, rfl, ?_⟩
  unfold Channel.detach Channel.emptied Channel.dropCurrent
  split <;> exact ⟨rfl, rfl⟩

theorem Channel.idSample_idLast (p : MotorPort) (k : MotorIdClass) (c : Channel) :
    (c.idSample p k).ch.idLast = some k := by
  by_cases h : c.idLast ≠ some k ∨ motorKindOf k = c.kind
  · rw [Channel.idSample_same h]
    rfl
  · simp only [not_or, not_not] at h
    obtain ⟨hl, hk⟩ := h
    by_cases hn : motorKindOf k = .none
    · rw [Channel.idSample_detach hl hn (fun hc => hk (hn.trans hc.symm))]
      obtain ⟨-, -, -, -, -, -, -, -, -, hid⟩ := Channel.detach_frame p { c with idLast := some k }
      exact hid
    · obtain ⟨b, hb, -, -, hid⟩ := Channel.idSample_attach (p := p) hl hk hn
      rw [hb]
      exact hid

end

/-- Settles O34. -/
theorem motorIdSampleAttachesAndDetaches : Obligations.MotorIdSampleAttachesAndDetaches := by
  unfold Obligations.MotorIdSampleAttachesAndDetaches
  refine fun k s hs => ⟨_, next_whenAwake hs rfl, rfl, rfl, rfl, rfl, rfl, fun p => ?_⟩
  obtain ⟨gs, hd⟩ := Motors.idSample_get k s.motors p
  have hd' : (s.withMotors (s.motors.idSample k)).motors.ch.get p = _ := hd
  rw [hd']
  obtain ⟨m1, m2, m3, m4, m5, m6⟩ := ((s.motors.ch.get p).idSample p (k.get p)).ch.concluded_motor gs p
  obtain ⟨s1, s2, s3, s4, s5, s6⟩ := ((s.motors.ch.get p).idSample p (k.get p)).ch.concluded_settings gs p
  refine ⟨s6.trans (Channel.idSample_idLast _ _ _), fun hsame => ?same, fun hl hk hn => ?attached,
    fun hl hk hn => ?detached⟩
  case same =>
    rw [m1, m2, m3, m4, s1, Channel.idSample_same hsame]
    exact ⟨rfl, rfl, rfl, rfl, rfl⟩
  case attached =>
    obtain ⟨b, hb, hpol, hst, -⟩ := Channel.idSample_attach (p := p) hl hk hn
    have hstate := Channel.concluded_state (gs := gs) (p := p) (c := b.attach (motorKindOf (k.get p))) rfl
    rw [m1, m2, m5, m6, s1, s2, s3, s4, s5, hb, hstate]
    exact ⟨rfl, rfl, rfl, rfl, rfl, rfl, rfl, rfl, hpol, hst⟩
  case detached =>
    have hb := Channel.idSample_detach (p := p) hl hk hn
    obtain ⟨h1, h2, h3, h4, h5, h6, h7, h8, h9, -⟩ := Channel.detach_frame p { s.motors.ch.get p with idLast := some (k.get p) }
    rw [m1, m3, m4, s2, s5, hb, Channel.concluded_empty h6]
    obtain ⟨-, -, f1, f2, f3, f4, -⟩ := (Channel.detach p { s.motors.ch.get p with idLast := some (k.get p) }).1.finishRelease_frame
    exact ⟨h1, f3.trans h2, h3, h4, f1.trans h5, f2.trans h6, f4.trans h7, h8, h9⟩

/-! ### The ending checks taken apart (R33, R44 to R48) -/

/-- The conclusion of an event on one port that flushed it, with nothing left to end there. -/
theorem Motors.oneCheck_flushed {p : MotorPort} {x : Channel × List Sent} (m : Motors) (hq : x.1.queue = []) :
    ∃ w ns, m.oneCheck p (Checked.ofPair true x) = (w, x.2 ++ ns) ∧ w.ch.get p = x.1.finishRelease := by
  have hg : (m.setCh p x.1).ch.get p = x.1 := by simp [Motors.setCh]
  have h := Motors.conclude_get [p] (m.setCh p x.1) p
  rw [hg, x.1.breakGroups_empty _ p hq] at h
  exact ⟨_, _, rfl, h⟩

/-- The conclusion of an event that flushed nothing. -/
theorem Motors.oneCheck_quiet {p : MotorPort} {x : Checked} {m : Motors} (hf : x.flushed = false) (q : MotorPort) :
    (m.oneCheck p x).1.ch.get q = (if q = p then x.ch else m.ch.get q).finishRelease := by
  unfold Motors.oneCheck
  dsimp only
  rw [hf, if_neg Bool.false_ne_true, Motors.conclude_nil_get]
  by_cases h : q = p
  · subst h
    simp [Motors.setCh]
  · simp [Motors.setCh, h]

/-! ### A stall and an overcurrent fault -/

/-- R47: the stop of a stall. -/
theorem Channel.stallStop_frame (live : Bool) (p : MotorPort) (c : Channel) :
    (c.stallStop live p).1.drive = .off ∧ (c.stallStop live p).1.stallTimer = 0 := by
  unfold Channel.stallStop
  exact ⟨by cases live <;> rfl, rfl⟩

/-- R48: a channel that enters FAULT. -/
theorem Channel.enterFault_frame (p : MotorPort) (c : Channel) :
    (c.enterFault p).1.current = none ∧ (c.enterFault p).1.queue = [] ∧ (c.enterFault p).1.state = .fault ∧
      (c.enterFault p).1.fault = some .overcurrent ∧ (c.enterFault p).1.rest = .coast ∧
      (c.enterFault p).1.applied = 0 ∧ (c.enterFault p).1.drive = .off ∧ (c.enterFault p).1.overCount = 0 ∧
      (c.enterFault p).1.enc = c.enc := by
  obtain ⟨h1, -, -, -, -, h2⟩ := c.dropCurrent_frame
  exact ⟨h2, rfl, rfl, rfl, rfl, rfl, rfl, rfl, h1⟩

section
variable {p : MotorPort} {c : Channel}

theorem Channel.checkStall_stops {live : Bool} {u : Int} (hs : c.state = .running ∨ c.state = .settling)
    (he : c.enc = c.prevEnc) (hu : 900 ≤ absInt u) (ht : c.stallTime ≤ c.stallTimer + 1) :
    c.checkStall live 1000 u p =
      Checked.ofPair true (Channel.stallStop live p { c with stallTimer := c.stallTimer + 1, starved := false }) := by
  have hn : c.notBlocked u = false := by simp [Channel.notBlocked, he, hu]
  simp only [Channel.checkStall, hs, hn, if_true, Bool.false_eq_true, if_false, Nat.lt_irrefl, ht]

theorem Channel.checkCurrent_faults (hk : c.kind ≠ .none) (hs : c.state ≠ .fault)
    (hc : 2 * (c.kind.ratedCurrent : Int) < absInt c.mA) (ho : 49 ≤ c.overCount) :
    c.checkCurrent p = Checked.ofPair true (c.enterFault p) := by
  have h1 : c.currentChecked = true := by simp [Channel.currentChecked, hk, hs]
  have h2 : c.overCurrent = true := decide_eq_true hc
  have h3 : 50 ≤ c.overCount + 1 := Nat.succ_le_succ ho
  simp only [Channel.checkCurrent, h1, h2, h3, if_true]

theorem Channel.checkCurrent_spares (ho : c.overCount < 49) : (c.checkCurrent p).flushed = false := by
  have h3 : ¬50 ≤ c.overCount + 1 := by omega
  unfold Channel.checkCurrent
  rw [if_neg h3]
  split
  · split <;> rfl
  · rfl

end

/-- Settles O33. -/
theorem stallAndOvercurrentStopTheChannel : Obligations.StallAndOvercurrentStopTheChannel := by
  unfold Obligations.StallAndOvercurrentStopTheChannel
  refine fun p s hs => ⟨fun hst he hu hl ht => ?stalls, fun hst he hu ht => ?early, fun hk hf hc ho => ?faults,
    fun ho => ?spared⟩
  case stalls =>
    have hx := Channel.checkStall_stops (p := p) (live := s.feed.live) hst he hu ht
    have hm : s.motors.stall s.feed p = s.motors.oneCheck p (Checked.ofPair true
        (Channel.stallStop s.feed.live p
          { s.motors.ch.get p with stallTimer := (s.motors.ch.get p).stallTimer + 1, starved := false })) := by
      have hlam : s.feed.lam = 1000 := hl
      unfold Motors.stall
      rw [hlam, hx]
      rfl
    obtain ⟨henc, hkind, -, -, -, hcur, hq, hstate, hrest⟩ := Channel.stopWith_frame s.feed.live .coast
      { s.motors.ch.get p with stallTimer := (s.motors.ch.get p).stallTimer + 1, starved := false }
    obtain ⟨-, happ, -⟩ := Channel.stopWith_ends (a := .coast) s.feed.live
      { s.motors.ch.get p with stallTimer := (s.motors.ch.get p).stallTimer + 1, starved := false } (by decide)
    obtain ⟨hdrive, htimer⟩ := Channel.stallStop_frame s.feed.live p
      { s.motors.ch.get p with stallTimer := (s.motors.ch.get p).stallTimer + 1, starved := false }
    obtain ⟨w, ns, hw, hget⟩ := Motors.oneCheck_flushed s.motors (p := p) (x := Channel.stallStop s.feed.live p
      { s.motors.ch.get p with stallTimer := (s.motors.ch.get p).stallTimer + 1, starved := false }) hq
    refine ⟨w, ns, next_whenAwake hs (congrArg s.withMotors (hm.trans hw)), ?_⟩
    obtain ⟨f1, f2, f3, f4, f5, f6, f7, -, f9, f10, -, -⟩ := (Channel.stallStop s.feed.live p
      { s.motors.ch.get p with stallTimer := (s.motors.ch.get p).stallTimer + 1, starved := false }).1.finishRelease_frame
    rw [hget]
    exact ⟨f3.trans hcur, f4.trans hq, f5.trans hstate, f6.trans hrest, f9.trans happ, f10.trans hdrive,
      f7.trans htimer, f1.trans henc, f2.trans hkind⟩
  case early =>
    obtain ⟨n, b, hx⟩ := Channel.checkStall_goesOn s.feed.live s.feed.lam (s.motors.ch.get p).applied p ht
    refine next_whenAwake hs ?_
    have hm : s.motors.stall s.feed p = (s.motors, []) := by
      unfold Motors.stall
      rw [hx]
      rfl
    rw [hm]
    rfl
  case faults =>
    have hm : s.motors.overcurrentFault p =
        s.motors.oneCheck p (Checked.ofPair true ((s.motors.ch.get p).enterFault p)) := by
      unfold Motors.overcurrentFault
      rw [Channel.checkCurrent_faults hk hf hc ho]
      rfl
    obtain ⟨hcur, hq, hstate, hfault, hrest, happ, hdrive, hover, henc⟩ := (s.motors.ch.get p).enterFault_frame p
    obtain ⟨w, ns, hw, hget⟩ := Motors.oneCheck_flushed s.motors (p := p) hq
    refine ⟨w, ns, next_whenAwake hs (congrArg s.withMotors (hm.trans hw)), ?_⟩
    obtain ⟨f1, -, f3, f4, f5, f6, -, -, f9, f10, -, -⟩ := ((s.motors.ch.get p).enterFault p).1.finishRelease_frame
    obtain ⟨-, -, -, -, g5, -, g7⟩ := ((s.motors.ch.get p).enterFault p).1.finishRelease_settings
    rw [hget]
    exact ⟨f3.trans hcur, f4.trans hq, f5.trans hstate, g5.trans hfault, f6.trans hrest, f9.trans happ, f10.trans hdrive,
      g7.trans hover, f1.trans henc⟩
  case spared =>
    refine next_whenAwake hs ?_
    have hm : s.motors.overcurrentFault p = (s.motors, []) :=
      if_neg (by rw [Channel.checkCurrent_spares ho]; exact Bool.false_ne_true)
    rw [hm]
    rfl

/-! ### Endings in time (R33, R44) -/

/-- R6: an ending with an empty queue. -/
theorem Channel.complete_empty {pause : PauseState} {live : Bool} {p : MotorPort} {g : Segment} {o : SegOutcome}
    {c : Channel} (hq : c.queue = []) :
    (c.complete pause live p g o).1 =
      { c.dropCurrent.takeRest live g.endAction c.dropCurrent.rateBefore with
          state := .idle, stallTimer := 0, starved := false } := by
  obtain ⟨-, -, hd, -⟩ := c.dropCurrent_frame
  unfold Channel.complete
  dsimp only
  rw [Channel.moveOn, hd, hq]
  rfl

/-- R3, R5: an ending with a head that starts at once. -/
theorem Channel.complete_next {live : Bool} {p : MotorPort} {g h : Segment} {rest : List Segment} {o : SegOutcome}
    {c : Channel} (hq : c.queue = h :: rest) (ht : h.syncTag = 0) (hk : h.kind ≠ .stop) :
    (c.complete .running live p g o).1 = c.dropCurrent.becomeCurrent live h rest := by
  obtain ⟨-, -, hd, -⟩ := c.dropCurrent_frame
  have hst : stopsAtOnce h (c.dropCurrent.becomeCurrent live h rest) = false := by simp [stopsAtOnce, hk]
  unfold Channel.complete
  dsimp only
  rw [Channel.moveOn]
  simp [hd, hq, ht, Channel.permitted, Channel.startHead, hst]

/-- R3, R4: a head that is no STOP as it becomes current. -/
theorem Channel.becomeCurrent_moves {live : Bool} {h : Segment} {rest : List Segment} {c : Channel} (hk : h.kind ≠ .stop) :
    (c.becomeCurrent live h rest).current = some (c.planned h) ∧ (c.becomeCurrent live h rest).queue = rest ∧
      (c.becomeCurrent live h rest).state = .running ∧ (c.becomeCurrent live h rest).steps = 0 := by
  unfold Channel.becomeCurrent
  dsimp only
  rw [if_neg hk]
  exact ⟨rfl, rfl, rfl, rfl⟩

/-- R3 to R6: the channels after the ending of the current segment `g` of one of them. -/
def Motors.MovedOn (w : Motors) (p : MotorPort) (g : Segment) (m : Motors) : Prop :=
  (m.ch.get p).enc = (w.ch.get p).enc ∧ (m.ch.get p).kind = (w.ch.get p).kind ∧
  ((w.ch.get p).queue = [] →
    (m.ch.get p).current = none ∧ (m.ch.get p).queue = [] ∧ (m.ch.get p).state = .idle ∧
      (m.ch.get p).rest = g.endAction ∧ (m.ch.get p).stallTimer = 0 ∧
      ∀ q, q ≠ p → m.ch.get q = (w.ch.get q).finishRelease) ∧
  (∀ h rest, (w.ch.get p).queue = h :: rest → w.pause = .running → h.syncTag = 0 → h.kind ≠ .stop →
    (m.ch.get p).current = some ((w.ch.get p).planned h) ∧ (m.ch.get p).queue = rest ∧
      (m.ch.get p).state = .running ∧ (m.ch.get p).steps = 0)

theorem Channel.dropCurrent_planned (c : Channel) (h : Segment) : c.dropCurrent.planned h = c.planned h := by
  obtain ⟨-, -, -, hl, hq, -⟩ := c.dropCurrent_frame
  rw [Channel.planned, Channel.planned, hl, hq]

/-- An ending on a record that differs from the channel's in its counts at most. -/
theorem Motors.oneCheck_complete {w : Motors} {live : Bool} {p : MotorPort} {c : Channel} (g : Segment) (o : SegOutcome)
    (he : c.enc = (w.ch.get p).enc) (hk : c.kind = (w.ch.get p).kind) (hq : c.queue = (w.ch.get p).queue)
    (hp : ∀ h, c.planned h = (w.ch.get p).planned h) :
    ∃ m ns, w.oneCheck p (Checked.ofPair false (c.complete w.pause live p g o)) =
        (m, segmentEnd p g o c.enc g.shownTarget c.queue.length ++ ns) ∧ w.MovedOn p g m := by
  obtain ⟨d1, d2, d3, -, -, d4⟩ := c.dropCurrent_frame
  refine ⟨(w.oneCheck p (Checked.ofPair false (c.complete w.pause live p g o))).1, _,
    Prod.ext rfl (List.append_assoc _ _ _), ?_⟩
  have hget := Motors.oneCheck_quiet (p := p) (m := w) (x := Checked.ofPair false (c.complete w.pause live p g o)) rfl
  have hself := (hget p).trans (congrArg Channel.finishRelease (if_pos rfl))
  obtain ⟨f1, f2, f3, f4, f5, f6, f7, f8, -⟩ := (c.complete w.pause live p g o).1.finishRelease_frame
  obtain ⟨k1, k2⟩ := Channel.moveOn_frame w.pause live p (c.dropCurrent.queue.length + 1) (.ended g) c.dropCurrent
  rw [Motors.MovedOn, hself]
  refine ⟨f1.trans (k1.trans (d1.trans he)), f2.trans (k2.trans (d2.trans hk)), fun hnil => ?empty,
    fun h rest hcons hrun ht hstop => ?next⟩
  case empty =>
    have hx := Channel.complete_empty (pause := w.pause) (live := live) (p := p) (g := g) (o := o) (hq.trans hnil)
    obtain ⟨-, -, t1, t2⟩ := c.dropCurrent.takeRest_frame live g.endAction c.dropCurrent.rateBefore
    refine ⟨f3.trans ?_, f4.trans ?_, f5.trans ?_, f6.trans ?_, f7.trans ?_, fun q hne => ?_⟩
    · rw [hx]; exact t1.trans d4
    · rw [hx]; exact t2.trans (d3.trans (hq.trans hnil))
    · rw [hx]
    · rw [hx]; rfl
    · rw [hx]
    · exact (hget q).trans (congrArg Channel.finishRelease (if_neg hne))
  case next =>
    have hx := Channel.complete_next (live := live) (p := p) (g := g) (o := o) (hq.trans hcons) ht hstop
    rw [← hrun] at hx
    obtain ⟨b1, b2, b3, b4⟩ := Channel.becomeCurrent_moves (live := live) (rest := rest) (c := c.dropCurrent) hstop
    refine ⟨f3.trans ?_, f4.trans ?_, f5.trans ?_, f8.trans ?_⟩
    · rw [hx, b1, c.dropCurrent_planned, hp]
    · rw [hx, b2]
    · rw [hx, b3]
    · rw [hx, b4]

section
variable {f : Feed} {p : MotorPort} {g : Segment} {m : Motors}

theorem Motors.durationEnd_of (hc : (m.ch.get p).current = some g) : m.durationEnd f p =
    if (m.ch.get p).durationUsed g then
      m.oneCheck p (Checked.ofPair false ((m.ch.get p).complete m.pause f.live p g .done))
    else (m, []) := by
  simp only [Motors.durationEnd, hc]

theorem Motors.segmentSettled_of (hc : (m.ch.get p).current = some g) : m.segmentSettled f p =
    if (m.ch.get p).state = .settling ∧ g.settleCount ≤ ((m.ch.get p).settleCounted g).inTol then
      m.oneCheck p (Checked.ofPair false (((m.ch.get p).settleCounted g).complete m.pause f.live p g
        (if (m.ch.get p).short then .short else .done)))
    else (m, []) := by
  simp only [Motors.segmentSettled, hc]
  rfl

theorem Motors.settleLimit_of (hc : (m.ch.get p).current = some g) : m.settleLimit f p =
    if (m.ch.get p).state = .settling ∧ ¬g.settleCount ≤ ((m.ch.get p).settleCounted g).inTol ∧
        g.settleLimit ≤ (m.ch.get p).settleTime + 1 then
      m.oneCheck p (Checked.ofPair false (((m.ch.get p).settleCounted g).complete m.pause f.live p g .unsettled))
    else (m, []) := by
  simp only [Motors.settleLimit, hc]
  rfl

end

theorem Segment.shownTarget_of {g : Segment} (h : g.kind = .moveTo ∨ g.kind = .moveBy) :
    g.shownTarget = some g.target := by
  have hm : g.isMove = true := by rcases h with h | h <;> simp [Segment.isMove, h]
  exact if_pos hm

theorem Segment.shownTarget_none {g : Segment} (h : g.kind = .duty ∨ g.kind = .speed) : g.shownTarget = none := by
  have hm : ¬g.isMove = true := by rcases h with h | h <;> simp [Segment.isMove, h]
  exact if_neg hm

/-- Settles O32. -/
theorem segmentsEndInTime : Obligations.SegmentsEndInTime := by
  unfold Obligations.SegmentsEndInTime
  intro movedOn
  refine ⟨fun p g s hs hc => ⟨fun hno => ?early, fun hst hk hd => ?duration⟩, fun p g s hs hc hst hk => ⟨fun hin => ⟨?settled, ?noLimit⟩,
    fun hin hlim => ⟨?limit, ?notSettled⟩, fun hin hlim => ⟨?neither, ?norLimit⟩⟩⟩
  case early =>
    refine next_whenAwake hs (congrArg s.withMotors (a₂ := (s.motors, [])) ?_)
    rw [Motors.durationEnd_of hc, if_neg (by rw [hno]; exact Bool.false_ne_true)]
  case duration =>
    have hu : (s.motors.ch.get p).durationUsed g = true := by
      rcases hk with hk | hk <;> simp [Channel.durationUsed, hst, hk, hd]
    obtain ⟨m, ns, hm, hmoved⟩ := Motors.oneCheck_complete (w := s.motors) (live := s.feed.live) (p := p)
      (c := s.motors.ch.get p) g .done rfl rfl rfl fun _ => rfl
    rw [Segment.shownTarget_none hk] at hm
    exact ⟨m, ns, next_whenAwake hs (congrArg s.withMotors ((Motors.durationEnd_of hc).trans ((if_pos hu).trans hm))),
      hmoved⟩
  case settled =>
    obtain ⟨m, ns, hm, hmoved⟩ := Motors.oneCheck_complete (w := s.motors) (live := s.feed.live) (p := p)
      (c := (s.motors.ch.get p).settleCounted g) g (if (s.motors.ch.get p).short then .short else .done) rfl rfl rfl
      fun _ => rfl
    rw [Segment.shownTarget_of hk] at hm
    exact ⟨m, ns, next_whenAwake hs (congrArg s.withMotors
      ((Motors.segmentSettled_of hc).trans ((if_pos ⟨hst, hin⟩).trans hm))), hmoved⟩
  case noLimit =>
    refine next_whenAwake hs (congrArg s.withMotors (a₂ := (s.motors, [])) ?_)
    exact (Motors.settleLimit_of hc).trans (if_neg fun h => h.2.1 hin)
  case limit =>
    obtain ⟨m, ns, hm, hmoved⟩ := Motors.oneCheck_complete (w := s.motors) (live := s.feed.live) (p := p)
      (c := (s.motors.ch.get p).settleCounted g) g .unsettled rfl rfl rfl fun _ => rfl
    rw [Segment.shownTarget_of hk] at hm
    exact ⟨m, ns, next_whenAwake hs (congrArg s.withMotors
      ((Motors.settleLimit_of hc).trans ((if_pos ⟨hst, Nat.not_le.mpr hin, hlim⟩).trans hm))), hmoved⟩
  case notSettled =>
    refine next_whenAwake hs (congrArg s.withMotors (a₂ := (s.motors, [])) ?_)
    exact (Motors.segmentSettled_of hc).trans (if_neg fun h => Nat.not_le.mpr hin h.2)
  case neither =>
    refine next_whenAwake hs (congrArg s.withMotors (a₂ := (s.motors, [])) ?_)
    exact (Motors.segmentSettled_of hc).trans (if_neg fun h => Nat.not_le.mpr hin h.2)
  case norLimit =>
    refine next_whenAwake hs (congrArg s.withMotors (a₂ := (s.motors, [])) ?_)
    exact (Motors.settleLimit_of hc).trans (if_neg fun h => Nat.not_le.mpr hlim h.2.2)

end Sys2Proof.Machine
end

section
/-! The arithmetic of motion (02): the MOVE, SPEED and stopping steps case by case and the control law (R28 to R38, R57). -/

namespace Sys2Proof.Machine

/-! ### Signs, magnitudes, the range of q (R27) -/

theorem signOf_pos {x : Int} (h : 0 < x) : signOf x = 1 := if_pos h

theorem signOf_neg {x : Int} (h : x < 0) : signOf x = -1 := (if_neg (by omega)).trans (if_pos h)

theorem signOf_zero : signOf 0 = 0 := rfl

theorem absInt_pos {x : Int} (h : 0 ≤ x) : absInt x = x := if_neg (by omega)

theorem absInt_neg {x : Int} (h : x ≤ 0) : absInt x = -x := by
  unfold absInt
  split <;> omega

theorem clampQ_eq (y : Int) : clampQ y = max (-2000000000000000) (min 2000000000000000 y) := by
  unfold clampQ clamp
  split
  · omega
  · split <;> omega

theorem clampQ_inside {y : Int} (h1 : -2000000000000000 ≤ y) (h2 : y ≤ 2000000000000000) : clampQ y = y := by
  rw [clampQ_eq]
  omega

/-! ### The MOVE step (R28, R29) -/

section
variable {q spd T C a b side : Int}

/-- On the target. -/
theorem moveStep_there (hd : T * 1000000 - q = 0) : moveStep q spd T C a b = { q := q, spd := 0, phase := .done } :=
  if_pos hd

/-- The direction to the target and the distance. -/
theorem direction_of (hs : side = 1 ∨ side = -1) (hd : 0 < side * (T * 1000000 - q)) :
    T * 1000000 - q ≠ 0 ∧ signOf (T * 1000000 - q) = side ∧
      absInt (T * 1000000 - q) = side * (T * 1000000 - q) := by
  rcases hs with rfl | rfl
  · exact ⟨by omega, signOf_pos (by omega), (absInt_pos (by omega)).trans (by omega)⟩
  · exact ⟨by omega, signOf_neg (by omega), (absInt_neg (by omega)).trans (by omega)⟩

/-- R28: away from the target. -/
theorem moveStep_reverse (hs : side = 1 ∨ side = -1) (hd : 0 < side * (T * 1000000 - q)) (hv : side * spd < 0) :
    moveStep q spd T C a b =
      { q := clampQ (q + side * min 0 (side * spd + b)), spd := side * min 0 (side * spd + b), phase := .reverse } := by
  obtain ⟨hne, hsign, -⟩ := direction_of hs hd
  unfold moveStep microDeg
  dsimp only
  rw [if_neg hne, hsign, if_pos hv]

theorem approach_abs (v d C a b : Int) : approach v d C a b = approach v (absInt d) C a b := by
  have h : absInt (absInt d) = absInt d := by
    refine absInt_pos ?_
    unfold absInt
    split <;> omega
  rw [approach, approach, h]

/-- R29: toward the target, by the phase and the speed of its table, or onto it. -/
theorem moveStep_toward (h1 : -1000000 ≤ T) (h2 : T ≤ 1000000) (hs : side = 1 ∨ side = -1)
    (hd : 0 < side * (T * 1000000 - q)) (hv : 0 ≤ side * spd) :
    moveStep q spd T C a b =
      if side * (T * 1000000 - q) ≤ (approach (side * spd) (side * (T * 1000000 - q)) C a b).2 then
        { q := T * 1000000, spd := 0, phase := .done }
      else
        { q := clampQ (q + side * (approach (side * spd) (side * (T * 1000000 - q)) C a b).2),
          spd := side * (approach (side * spd) (side * (T * 1000000 - q)) C a b).2,
          phase := (approach (side * spd) (side * (T * 1000000 - q)) C a b).1 } := by
  obtain ⟨hne, hsign, habs⟩ := direction_of hs hd
  have hgoal : clampQ (q + side * (side * (T * 1000000 - q))) = T * 1000000 := by
    have : q + side * (side * (T * 1000000 - q)) = T * 1000000 := by rcases hs with rfl | rfl <;> omega
    rw [this, clampQ_inside (by omega) (by omega)]
  unfold moveStep microDeg
  dsimp only
  rw [if_neg hne, hsign, if_neg (by omega), approach_abs, habs]
  generalize approach (side * spd) (side * (T * 1000000 - q)) C a b = r
  by_cases hr : side * (T * 1000000 - q) ≤ r.2
  · rw [min_eq_right hr, if_pos rfl, if_pos hr, hgoal]
  · rw [min_eq_left (by omega), if_neg (by omega), if_neg hr]

/-! The rows of the table of R29, `v` the speed toward the target and `d` the distance. -/

variable {v d : Int}

theorem approach_decel (hd : 0 < d) (hv : 0 < v) (hb : d ≤ v * v / (2 * b)) (hm : max b 20000 < v - b) :
    approach v d C a b = (.decel, v - b) := by
  have hbrake : 0 < v ∧ brakingDistance v b ≥ absInt d := ⟨hv, by rw [absInt_pos hd.le]; exact hb⟩
  exact (if_pos hbrake).trans (if_pos hm)

theorem approach_creep (hd : 0 < d) (hv : 0 < v) (hb : d ≤ v * v / (2 * b)) (hm : v - b ≤ max b 20000) :
    approach v d C a b = (.creep, max b 20000) := by
  have hbrake : 0 < v ∧ brakingDistance v b ≥ absInt d := ⟨hv, by rw [absInt_pos hd.le]; exact hb⟩
  exact (if_pos hbrake).trans (if_neg (not_lt.mpr hm))

theorem approach_far (hd : 0 < d) (hb : v * v / (2 * b) < d) :
    approach v d C a b =
      if v < C then (.accel, min (v + a) C) else if v > C then (.decel, max (v - b) C) else (.cruise, v) := by
  have hbrake : ¬(0 < v ∧ brakingDistance v b ≥ absInt d) := fun h => by
    rw [absInt_pos hd.le] at h
    exact absurd h.2 (not_le.mpr hb)
  exact if_neg hbrake

theorem approach_nonneg (hC : 0 < C) (ha : 0 ≤ a) (hv : 0 ≤ v) : 0 ≤ (approach v d C a b).2 := by
  unfold approach creepSpeed
  split
  · split
    · dsimp only; omega
    · dsimp only; omega
  · split
    · dsimp only; omega
    · split
      · dsimp only; omega
      · exact hv

theorem approach_moving : (approach v d C a b).1 ≠ .done := by
  unfold approach
  split
  · split <;> nofun
  · split
    · nofun
    · split <;> nofun

/-- R28: a step toward the target from its side does not pass it. -/
theorem moveStep_between (h1 : -1000000 ≤ T) (h2 : T ≤ 1000000) (hC : 0 < C) (ha : 0 ≤ a) (hs : side = 1 ∨ side = -1)
    (hd : 0 < side * (T * 1000000 - q)) (hq : -2000000000000000 ≤ side * q) (hv : 0 ≤ side * spd) :
    side * q ≤ side * (moveStep q spd T C a b).q ∧ side * (moveStep q spd T C a b).q ≤ side * (T * 1000000) ∧
      0 ≤ side * (moveStep q spd T C a b).spd := by
  have hr := approach_nonneg (v := side * spd) (d := side * (T * 1000000 - q)) (b := b) hC ha hv
  rw [moveStep_toward h1 h2 hs hd hv]
  generalize (approach (side * spd) (side * (T * 1000000 - q)) C a b).2 = w at hr ⊢
  split
  · refine ⟨?_, le_refl _, ?_⟩ <;> rcases hs with rfl | rfl <;> dsimp only <;> omega
  · dsimp only
    rw [clampQ_inside (by rcases hs with rfl | rfl <;> omega) (by rcases hs with rfl | rfl <;> omega)]
    rcases hs with rfl | rfl <;> exact ⟨by omega, by omega, by omega⟩

/-- R29: DONE stands for the target reached at rest. -/
theorem moveStep_done (h1 : -1000000 ≤ T) (h2 : T ≤ 1000000) (h : (moveStep q spd T C a b).phase = .done) :
    (moveStep q spd T C a b).q = T * 1000000 ∧ (moveStep q spd T C a b).spd = 0 := by
  by_cases h0 : T * 1000000 - q = 0
  · rw [moveStep_there h0]
    exact ⟨by dsimp only; omega, rfl⟩
  · obtain ⟨side, hs, hd⟩ : ∃ side : Int, (side = 1 ∨ side = -1) ∧ 0 < side * (T * 1000000 - q) := by
      rcases Int.lt_or_gt_of_ne h0 with h0 | h0
      · exact ⟨-1, .inr rfl, by omega⟩
      · exact ⟨1, .inl rfl, by omega⟩
    rcases Int.lt_or_le (side * spd) 0 with hv | hv
    · rw [moveStep_reverse hs hd hv] at h
      cases h
    · rw [moveStep_toward h1 h2 hs hd hv] at h ⊢
      split at h
      next hr =>
        rw [if_pos hr]
        exact ⟨rfl, rfl⟩
      next => exact absurd h approach_moving

end

/-- R31. -/
theorem startsShort_iff {q spd T b : Int} : startsShort q spd T b = true ↔
    (T * 1000000 - q = 0 ∧ spd ≠ 0) ∨ (0 < T * 1000000 - q ∧ 0 < spd ∧ T * 1000000 - q < spd * spd / (2 * b)) ∨
      (T * 1000000 - q < 0 ∧ spd < 0 ∧ -(T * 1000000 - q) < spd * spd / (2 * b)) := by
  unfold startsShort microDeg
  dsimp only
  generalize T * 1000000 - q = d
  rcases Int.lt_trichotomy d 0 with h | rfl | h
  · rw [if_neg (by omega), signOf_neg h, absInt_neg h.le]
    simp only [decide_eq_true_eq, brakingDistance, neg_mul, mul_neg, one_mul, neg_neg]
    omega
  · simp
  · rw [if_neg (by omega), signOf_pos h, absInt_pos h.le]
    simp only [decide_eq_true_eq, brakingDistance, one_mul]
    omega

/-! ### SPEED steps and stops (R32, R34, R57) -/

section
variable {spd C a b : Int}

theorem speedToward_up (hC : 0 < C) (hs : 0 ≤ spd) (ha : 0 ≤ a) (h : spd ≤ C) :
    (speedToward spd C a b).2 = min (spd + a) C := by
  unfold speedToward
  rcases Int.lt_or_eq_of_le h with h | rfl
  · have hsame : ¬(spd ≠ 0 ∧ signOf spd ≠ signOf C) := by
      rintro ⟨h0, h1⟩
      exact h1 ((signOf_pos (by omega)).trans (signOf_pos hC).symm)
    rw [if_neg h.ne, if_neg hsame, absInt_pos hs, absInt_pos hC.le, if_pos h, signOf_pos hC]
    exact one_mul _
  · rw [if_pos rfl]
    dsimp only
    omega

theorem speedToward_down (hC : 0 < C) (h : C < spd) : (speedToward spd C a b).2 = max (spd - b) C := by
  have hsame : ¬(spd ≠ 0 ∧ signOf spd ≠ signOf C) := by
    rintro ⟨h0, h1⟩
    exact h1 ((signOf_pos (by omega)).trans (signOf_pos hC).symm)
  unfold speedToward
  rw [if_neg h.ne', if_neg hsame, absInt_pos (by omega), absInt_pos hC.le, if_neg (by omega), signOf_pos hC]
  exact one_mul _

theorem speedToward_turn (hC : C < 0) (h : 0 < spd) : (speedToward spd C a b).2 = max (spd - b) 0 := by
  have hturn : spd ≠ 0 ∧ signOf spd ≠ signOf C := by
    rw [signOf_pos h, signOf_neg hC]
    exact ⟨by omega, by decide⟩
  unfold speedToward
  rw [if_neg (by omega), if_pos hturn, signOf_pos h, absInt_pos h.le]
  exact one_mul _

/-- A SPEED step in one direction is the mirror image of that in the other. -/
theorem speedToward_neg : (speedToward (-spd) (-C) a b).2 = -(speedToward spd C a b).2 := by
  have hsign (x : Int) : signOf (-x) = -signOf x := by
    rcases Int.lt_trichotomy x 0 with h | rfl | h
    · rw [signOf_pos (by omega), signOf_neg h]; rfl
    · rfl
    · rw [signOf_neg (by omega), signOf_pos h]
  have habs (x : Int) : absInt (-x) = absInt x := by
    unfold absInt
    split <;> split <;> omega
  unfold speedToward
  simp only [hsign, habs, neg_inj, ne_eq, neg_eq_zero]
  split
  · rfl
  · split
    · exact neg_mul _ _
    · split <;> exact neg_mul _ _

theorem slowed_pos (hb : 0 ≤ b) (h : 0 ≤ spd) : slowed spd b = max (spd - b) 0 := by
  unfold slowed
  rcases Int.lt_or_eq_of_le h with h | rfl
  · rw [signOf_pos h, absInt_pos h.le, one_mul]
  · rw [signOf_zero, zero_mul]
    omega

theorem slowed_neg (hb : 0 ≤ b) (h : spd ≤ 0) : slowed spd b = min (spd + b) 0 := by
  unfold slowed
  rcases Int.lt_or_eq_of_le h with h | rfl
  · rw [signOf_neg h, absInt_neg h.le]
    omega
  · rw [signOf_zero, zero_mul]
    omega

end

/-- R57: whether the stopping step of a held MOVE ends on the target. -/
theorem heldMove_cut {w d : Int} : (w ≠ 0 ∧ (d = 0 ∨ signOf w = signOf d) ∧ absInt d ≤ absInt w) ↔
    (0 < w ∧ 0 ≤ d ∧ d ≤ w) ∨ (w < 0 ∧ d ≤ 0 ∧ w ≤ d) := by
  unfold signOf absInt
  constructor
  · rintro ⟨h1, h2, h3⟩
    split at h3 <;> split at h3 <;> split at h2 <;> split at h2 <;> omega
  · intro h
    refine ⟨by omega, ?_, ?_⟩
    · split <;> split <;> omega
    · split <;> split <;> omega

theorem heldMoveStep_stopping (q spd b T : Int) : heldMoveStep { q := q, spd := spd, phase := .stopping } b T =
    if (0 < slowed spd b ∧ 0 ≤ T * 1000000 - q ∧ T * 1000000 - q ≤ slowed spd b) ∨
        (slowed spd b < 0 ∧ T * 1000000 - q ≤ 0 ∧ slowed spd b ≤ T * 1000000 - q) then
      { q := T * 1000000, spd := 0, phase := .holding }
    else stopStep { q := q, spd := spd, phase := .stopping } b := by
  unfold heldMoveStep microDeg
  dsimp only
  rw [if_pos rfl]
  simp only [heldMove_cut]

/-! ### The control law (R36 to R38) -/

theorem windsUp_iff {c : Control} {e : Int} :
    windsUp c e = true ↔ c.sat = true ∧ e ≠ 0 ∧ signOf e = signOf c.uc := by
  simp [windsUp, and_assoc]

/-- R37. -/
theorem integrate_eq (g : Gains) (c : Control) (e : Int) : integrate g c e =
    if c.sat = true ∧ e ≠ 0 ∧ signOf e = signOf c.uc then c.integ
    else clamp (-(g.iLimit : Int)) g.iLimit (c.integ + e) := by
  simp only [integrate, windsUp_iff]

/-- R38: gains of 0 give no output. -/
theorem rawOutput_zero {g : Gains} (hp : g.kp = 0) (hi : g.ki = 0) (hf : g.kf = 0) (e i f : Int) :
    rawOutput g e i f = 0 := by
  simp [rawOutput, truncDiv, hp, hi, hf]

theorem clamp_ne {lo hi x : Int} : clamp lo hi x ≠ x ↔ x < lo ∨ hi < x := by
  unfold clamp
  split
  · omega
  · split <;> omega

/-- Settles O31. -/
theorem motionArithmetic : Obligations.MotionArithmetic := by
  unfold Obligations.MotionArithmetic
  refine ⟨⟨fun q spd T C a b h1 h2 hC ha hb => ⟨fun hq hlo hv => ?forward, fun hq hhi hv => ?backward,
      fun hdone _ _ => moveStep_done h1 h2 hdone⟩, fun q spd T C a b side h1 h2 hs => ?table,
      fun q spd T b => startsShort_iff, fun q spd C a b hC ha hb => ?speed, heldMoveStep_stopping,
      fun x b T hx => ⟨if_neg hx, (if_neg hx).trans (if_neg hx)⟩⟩, fun g q spd enc c => ?law⟩
  case forward =>
    obtain ⟨g1, g2, g3⟩ := moveStep_between (b := b) (spd := spd) (q := q) (side := 1) h1 h2 hC ha (.inl rfl) (by omega)
      (by omega) (by omega)
    exact ⟨by omega, by omega, by omega⟩
  case backward =>
    obtain ⟨g1, g2, g3⟩ := moveStep_between (b := b) (spd := spd) (q := q) (side := -1) h1 h2 hC ha (.inr rfl) (by omega)
      (by omega) (by omega)
    exact ⟨by omega, by omega, by omega⟩
  case table =>
    intro dist v B m held advance x
    have hheld : held = clampQ := funext fun y => (clampQ_eq y).symm
    have toward (hd : 0 < dist) (hv : 0 ≤ v) {ph : Phase} {w : Int} (h : approach v dist C a b = (ph, w)) :
        x = advance ph w := by
      have hx : x = _ := moveStep_toward h1 h2 hs hd hv
      rw [show approach (side * spd) (side * (T * 1000000 - q)) C a b = (ph, w) from h, ← hheld] at hx
      exact hx
    refine ⟨fun hd => ?there, fun hd hv => ?reverse, fun hd hv hB hm => ?decel, fun hd hv hB hm => ?creep,
      fun hd hv hB hc => ?accel, fun hd hv hB hc => ?slow, fun hd hv hB hc => ?cruise⟩
    case there =>
      refine moveStep_there ?_
      rcases hs with rfl | rfl <;> omega
    case reverse => rw [hheld]; exact moveStep_reverse hs hd hv
    case decel => exact toward hd hv.le (approach_decel hd hv hB hm)
    case creep => exact toward hd hv.le (approach_creep hd hv hB hm)
    case accel => exact toward hd hv ((approach_far hd hB).trans (if_pos hc))
    case slow => exact toward hd hv ((approach_far hd hB).trans ((if_neg (by omega)).trans (if_pos hc)))
    case cruise =>
      refine toward hd hv ((approach_far hd hB).trans ((if_neg (by omega)).trans ((if_neg (by omega)).trans ?_)))
      rw [hc]
  case speed =>
    refine ⟨fun hv hC h => speedToward_up hC hv ha h, fun hv hC h => speedToward_down hC h,
      fun hv hC => speedToward_turn hC hv, fun hv hC h => ?_, fun hv hC h => ?_, fun hv hC => ?_, rfl,
      fun hv => slowed_pos hb hv, fun hv => slowed_neg hb hv, rfl, rfl⟩
    · have h := speedToward_up (spd := -spd) (C := -C) (a := a) (b := b) (by omega) (by omega) ha (by omega)
      rw [speedToward_neg] at h
      show (speedToward spd C a b).2 = _
      omega
    · have h := speedToward_down (spd := -spd) (C := -C) (a := a) (b := b) (by omega) (by omega)
      rw [speedToward_neg] at h
      show (speedToward spd C a b).2 = _
      omega
    · have h := speedToward_turn (spd := -spd) (C := -C) (a := a) (b := b) (by omega) (by omega)
      rw [speedToward_neg] at h
      show (speedToward spd C a b).2 = _
      omega
  case law =>
    have hinteg := integrate_eq g c (trackError q enc)
    refine ⟨hinteg, ?_, ?_, fun hp hi hf => ?_⟩
    · rw [trackError] at hinteg
      rw [← hinteg]
      rfl
    · rw [trackError] at hinteg
      rw [← hinteg]
      exact decide_eq_true_iff.trans clamp_ne
    · exact congrArg (clamp (-1000) 1000) (rawOutput_zero hp hi hf _ _ _)

end Sys2Proof.Machine
end

section
/-! The supply monitor (R8, R140, R160 to R164): the dwell counts, a transition, what each block takes of it. -/

namespace Sys2Proof.Machine

/-! ### The counts and the transition that is due (R161) -/

theorem dwell_eq (t : Prop) [Decidable t] (n : Nat) : dwell (decide t) n = if t then n + 1 else 0 := by
  by_cases h : t <;> simp [dwell, h]

theorem Supply.counted_eq (x : Supply) : x.counted =
    { x with toEconomy := x.counted.toEconomy, toCritical := x.counted.toCritical, toRun := x.counted.toRun } := by
  unfold Supply.counted
  split <;> rfl

theorem Supply.counted_power (x : Supply) : x.counted.power = x.power := by
  rw [x.counted_eq]

section
variable {x : Supply}

theorem Supply.counted_run (h : x.power = .run) : x.counted =
    { x with toEconomy := if x.vb < 6300 then x.toEconomy + 1 else 0,
             toCritical := if x.vb < 5600 then x.toCritical + 1 else 0, toRun := 0 } := by
  simp only [Supply.counted, h, dwell_eq]

theorem Supply.counted_economy (h : x.power = .economy) : x.counted =
    { x with toRun := if 6600 < x.vb then x.toRun + 1 else 0,
             toCritical := if x.vb < 5600 then x.toCritical + 1 else 0, toEconomy := 0 } := by
  simp only [Supply.counted, h, dwell_eq]

theorem Supply.counted_critical (h : x.power = .critical) : x.counted =
    { x with toEconomy := if 6000 < x.vb then x.toEconomy + 1 else 0, toCritical := 0, toRun := 0 } := by
  simp only [Supply.counted, h, dwell_eq]

theorem Supply.transition_run (h : x.power = .run) : x.transition =
    if 100 ≤ x.toEconomy ∧ 20 ≤ x.toCritical then
      (if Config.tieGoesToCritical then some .critical else some .economy)
    else if 20 ≤ x.toCritical then some .critical
    else if 100 ≤ x.toEconomy then some .economy
    else none := by
  simp only [Supply.transition, h]

theorem Supply.transition_economy (h : x.power = .economy) : x.transition =
    if 20 ≤ x.toCritical then some .critical else if 100 ≤ x.toRun then some .run else none := by
  simp only [Supply.transition, h]

theorem Supply.transition_critical (h : x.power = .critical) : x.transition =
    if 100 ≤ x.toEconomy then some .economy else none := by
  simp only [Supply.transition, h]

theorem Supply.transition_sleep (h : x.power = .sleep) : x.transition = none := by
  simp only [Supply.transition, h]

/-- R161: with both counts of RUN reached. -/
theorem Supply.transition_tie (h : x.power = .run) (he : 100 ≤ x.toEconomy) (hc : 20 ≤ x.toCritical) :
    x.transition = some .economy ∨ x.transition = some .critical := by
  rw [Supply.transition_run h, if_pos ⟨he, hc⟩]
  split
  · exact .inr rfl
  · exact .inl rfl

/-- R161: the states that a state can go to. -/
theorem Supply.transition_into {new : PowerState} (h : x.transition = some new) :
    (x.power = .run → new = .economy ∨ new = .critical) ∧ (x.power = .economy → new = .run ∨ new = .critical) ∧
      (x.power = .critical → new = .economy) ∧ new ≠ .sleep := by
  cases hp : x.power with
  | run =>
    rw [Supply.transition_run hp] at h
    split at h
    · split at h <;> cases h <;> simp
    · split at h
      · cases h; simp
      · split at h <;> cases h; simp
  | economy =>
    rw [Supply.transition_economy hp] at h
    split at h
    · cases h; simp
    · split at h <;> cases h; simp
  | critical =>
    rw [Supply.transition_critical hp] at h
    split at h <;> cases h; simp
  | sleep =>
    rw [Supply.transition_sleep hp] at h
    cases h

theorem Supply.counted_transition_run (h : x.power = .run) :
    (x.counted.transition = none ↔ x.counted.toEconomy < 100 ∧ x.counted.toCritical < 20) ∧
      (x.counted.toCritical < 20 → 100 ≤ x.counted.toEconomy → x.counted.transition = some .economy) ∧
      (20 ≤ x.counted.toCritical → x.counted.toEconomy < 100 → x.counted.transition = some .critical) ∧
      (20 ≤ x.counted.toCritical → 100 ≤ x.counted.toEconomy →
        x.counted.transition = some .economy ∨ x.counted.transition = some .critical) := by
  have hp : x.counted.power = .run := x.counted_power.trans h
  refine ⟨?_, fun hc he => ?_, fun hc he => ?_, fun hc he => Supply.transition_tie hp he hc⟩
  · rw [Supply.transition_run hp]
    constructor
    · intro hn
      split at hn
      · split at hn <;> cases hn
      · split at hn
        · cases hn
        · split at hn
          · cases hn
          · omega
    · rintro ⟨he, hc⟩
      rw [if_neg (by omega), if_neg (by omega), if_neg (by omega)]
  · rw [Supply.transition_run hp, if_neg (by omega), if_neg (by omega), if_pos he]
  · rw [Supply.transition_run hp, if_neg (by omega), if_pos hc]

theorem Supply.counted_transition_economy (h : x.power = .economy) :
    (x.counted.transition = none ↔ x.counted.toRun < 100 ∧ x.counted.toCritical < 20) ∧
      (20 ≤ x.counted.toCritical → x.counted.transition = some .critical) ∧
      (x.counted.toCritical < 20 → 100 ≤ x.counted.toRun → x.counted.transition = some .run) := by
  have hp : x.counted.power = .economy := x.counted_power.trans h
  rw [Supply.transition_economy hp]
  refine ⟨?_, fun hc => if_pos hc, fun hc hr => ?_⟩
  · constructor
    · intro hn
      split at hn
      · cases hn
      · split at hn
        · cases hn
        · omega
    · rintro ⟨hr, hc⟩
      rw [if_neg (by omega), if_neg (by omega)]
  · rw [if_neg (by omega), if_pos hr]

end

/-! ### The motors (R8) -/

theorem Motors.criticalPorts_nodup (m : Motors) :
    (MotorPort.all.filter (fun p => (m.ch.get p).hasSegments)).Nodup := MotorPort.all_nodup.filter _

theorem MotorPort.mem_filter_all {t : MotorPort → Bool} {p : MotorPort} : p ∈ MotorPort.all.filter t ↔ t p = true := by
  simp [MotorPort.mem_all]

/-- R8: what entry into CRITICAL does to the channels that it stops. -/
def Channel.powerStop (p : MotorPort) (c : Channel) : Channel × List Sent :=
  (c.stopWith false .coast, c.endNotices p .power .power)

theorem Motors.enterCritical_eq (m : Motors) : m.enterCritical =
    ({ (Motors.event Channel.powerStop (MotorPort.all.filter (fun p => (m.ch.get p).hasSegments)) m).1 with
        ch := (Motors.event Channel.powerStop (MotorPort.all.filter (fun p => (m.ch.get p).hasSegments)) m).1.ch.map
          Channel.driveOff },
      (Motors.event Channel.powerStop (MotorPort.all.filter (fun p => (m.ch.get p).hasSegments)) m).2) := rfl

/-- R8: entry into CRITICAL on each channel. -/
theorem Motors.enterCritical_get (m : Motors) (p : MotorPort) :
    ∃ gs, m.enterCritical.1.ch.get p =
      ((if (m.ch.get p).hasSegments = true then (m.ch.get p).stopWith false .coast else m.ch.get p).concluded gs
        p).driveOff := by
  have h := Motors.event_get (f := Channel.powerStop) (m := m) m.criticalPorts_nodup p
  simp only [MotorPort.mem_filter_all] at h
  rw [Motors.enterCritical_eq]
  exact ⟨_, (Six.get_map _ _ _).trans (congrArg Channel.driveOff h)⟩

/-- R8: its notices, those of the channels it stops first. -/
theorem Motors.enterCritical_sent (m : Motors) :
    ∃ ns, m.enterCritical.2 = MotorPort.all.flatMap (fun p =>
        if (m.ch.get p).hasSegments = true then (m.ch.get p).endNotices p .power .power else []) ++ ns ∧
      (m.groups = [] → (∀ p, (m.ch.get p).state ≠ .syncWait) → m.pause ≠ .pausing → ns = []) := by
  refine ⟨_, congrArg (· ++ _) ((Motors.onPorts_sent m.criticalPorts_nodup).trans
    (MotorPort.filter_flatMap _ _ _)), fun hg hs hp => ?_⟩
  refine Motors.conclude_silent ?_ (by rw [(Motors.onPorts_rest _ _ m).1]; exact hp)
  have hf (q : MotorPort) : (Channel.powerStop q (m.ch.get q)).1.state ≠ .syncWait := by
    obtain ⟨-, -, -, -, -, -, -, hst, -⟩ := (m.ch.get q).stopWith_frame false .coast
    rw [Channel.powerStop, hst]
    decide
  have hq := Motors.event_quiet (f := Channel.powerStop) m.criticalPorts_nodup (fun q _ => hf q) hg hs
  exact congrArg (List.filter _) hq

/-- R8: a channel stopped by the entry into CRITICAL. -/
theorem Channel.criticalStop_spec (gs : List Group) (p : MotorPort) (c : Channel) :
    let d := ((c.stopWith false .coast).concluded gs p).driveOff
    d.current = none ∧ d.queue = [] ∧ d.state = .idle ∧ d.rest = .coast ∧ d.q = c.enc * 1000000 ∧ d.spd = 0 ∧
      d.lastTarget = none ∧ d.holder = (if c.lostLink = true then none else c.holder) := by
  obtain ⟨-, -, -, hh, hl, hcur, hq, hst, hrest⟩ := c.stopWith_frame false .coast
  obtain ⟨hspd, -, htarget, hpos⟩ := Channel.stopWith_ends (a := .coast) false c (by decide)
  obtain ⟨-, -, f3, f4, f5, f6, -, -, -, -, f11, f12⟩ := (c.stopWith false .coast).finishRelease_frame
  obtain ⟨-, -, -, g4, -, -, -⟩ := (c.stopWith false .coast).finishRelease_settings
  rw [Channel.concluded_empty hq]
  refine ⟨f3.trans hcur, f4.trans hq, f5.trans hst, f6.trans hrest, f11.trans hpos, f12.trans hspd, g4.trans htarget, ?_⟩
  show (c.stopWith false .coast).finishRelease.holder = _
  simp only [Channel.finishRelease, hl, hcur, hq, Option.isNone_none, List.isEmpty_nil, Bool.and_true]
  split
  · rfl
  · exact hh

/-- R8: the end of CRITICAL, in the words of the rule. -/
theorem Channel.restAgain_eq (c : Channel) : c.restAgain =
    if (c.state = .idle ∨ c.state = .held) ∧ (if c.state = .held then c.heldAction.getD c.rest else c.rest) = .brake
    then { c with drive := .shorted } else c := rfl

theorem Motors.powerChanged_get {old new : PowerState} (h : new ≠ .critical) (m : Motors) (p : MotorPort) :
    (m.powerChanged old new).1.ch.get p = if old = .critical then (m.ch.get p).restAgain else m.ch.get p := by
  have hm : m.powerChanged old new = if old = .critical then (m.leaveCritical, []) else (m, []) := by
    cases new with
    | critical => exact absurd rfl h
    | run => rfl
    | economy => rfl
    | sleep => rfl
  rw [hm]
  split
  · exact Six.get_map _ _ _
  · rfl

theorem Motors.powerChanged_sent {old new : PowerState} (h : new ≠ .critical) (m : Motors) :
    (m.powerChanged old new).2 = [] := by
  cases new with
  | critical => exact absurd rfl h
  | run => unfold Motors.powerChanged; dsimp only; split <;> rfl
  | economy => unfold Motors.powerChanged; dsimp only; split <;> rfl
  | sleep => unfold Motors.powerChanged; dsimp only; split <;> rfl

theorem Motors.powerChanged_notices (old new : PowerState) (m : Motors) :
    ∃ ns, (m.powerChanged old new).2 = MotorPort.all.flatMap (fun p =>
        if new = .critical ∧ (m.ch.get p).hasSegments = true then (m.ch.get p).endNotices p .power .power else []) ++ ns ∧
      ((m.groups = [] ∧ (∀ p, (m.ch.get p).state ≠ .syncWait) ∧ m.pause ≠ .pausing) ∨ new ≠ .critical → ns = []) := by
  by_cases hc : new = .critical
  · subst hc
    obtain ⟨ns, hns, hq⟩ := m.enterCritical_sent
    refine ⟨ns, hns.trans (by simp only [true_and]), fun h => h.elim (fun ⟨h1, h2, h3⟩ => hq h1 h2 h3) fun h => absurd rfl h⟩
  · exact ⟨[], by simp [Motors.powerChanged_sent hc, hc], fun _ => rfl⟩

/-- R8: what entry into CRITICAL leaves of every channel. -/
theorem Channel.critical_keeps (gs : List Group) (p : MotorPort) (c : Channel) :
    let d := ((if c.hasSegments = true then c.stopWith false .coast else c).concluded gs p).driveOff
    d.enc = c.enc ∧ d.kind = c.kind ∧ d.gains = c.gains ∧ (c.state = .off ∨ c.state = .fault → d.state = c.state) := by
  intro d
  by_cases hs : c.hasSegments = true
  · have hd : d = ((c.stopWith false .coast).concluded gs p).driveOff := by
      show ((if c.hasSegments = true then _ else _ : Channel).concluded gs p).driveOff = _
      rw [if_pos hs]
    obtain ⟨h1, h2, h3, -⟩ := c.stopWith_frame false .coast
    obtain ⟨m1, m2, -⟩ := (c.stopWith false .coast).concluded_motor gs p
    obtain ⟨s1, -⟩ := (c.stopWith false .coast).concluded_settings gs p
    rw [hd]
    refine ⟨m2.trans h1, m1.trans h2, s1.trans h3, fun hst => ?_⟩
    rcases hst with hst | hst <;> simp [Channel.hasSegments, hst] at hs
  · have hd : d = (c.concluded gs p).driveOff := by
      show ((if c.hasSegments = true then _ else _ : Channel).concluded gs p).driveOff = _
      rw [if_neg hs]
    obtain ⟨m1, m2, -⟩ := c.concluded_motor gs p
    obtain ⟨s1, -⟩ := c.concluded_settings gs p
    rw [hd]
    refine ⟨m2, m1, s1, fun hst => Channel.concluded_state ?_⟩
    rcases hst with hst | hst <;> simp [Channel.waits, hst]

/-! ### The mixer (R140) -/

/-- R140: the voices that a new power state ends. -/
def Mixer.endsVoice (x : Mixer) (new : PowerState) (i : VoiceId) : Bool :=
  (x.voices.get i).playing && (new == .critical || (new == .economy && (i == .n3 || i == .n4)))

/-- R140: what a new power state that another can go to makes of the mixer. -/
theorem Mixer.powerChanged_spec (time : Word32) {old new : PowerState} (x : Mixer) (hn : new ≠ .sleep) :
    (∀ i, (x.powerChanged time old new).1.voices.get i =
      if x.endsVoice new i = true then (x.voices.get i).freed else x.voices.get i) ∧
    (x.powerChanged time old new).2 = Num4.all.flatMap (fun i =>
      if x.endsVoice new i = true then voiceEndNotice time i (x.voices.get i) .power else []) ∧
    (x.powerChanged time old new).1.amp =
      (if new = .critical then false else if new = .economy ∧ old = .critical then true else x.amp) ∧
    (x.powerChanged time old new).1.output = (if new = .critical then 0 else x.output) ∧
    (x.powerChanged time old new).1.volume = x.volume ∧ (new = .run → (x.powerChanged time old new).1 = x) := by
  cases new with
  | sleep => exact absurd rfl hn
  | run => exact ⟨fun i => by simp [Mixer.powerChanged, Mixer.endsVoice],
      by simp [Mixer.powerChanged, Mixer.endsVoice], rfl, rfl, rfl, fun _ => rfl⟩
  | economy =>
    obtain ⟨hx, hv, hs⟩ := Mixer.endVoices_spec time .power [.n3, .n4] x (by decide)
    have hp : x.powerChanged time old .economy =
        (if old = .critical then { (x.endVoices time .power [.n3, .n4]).1 with amp := true }
          else (x.endVoices time .power [.n3, .n4]).1, (x.endVoices time .power [.n3, .n4]).2) := rfl
    rw [hp]
    generalize x.endVoices time .power [.n3, .n4] = r at hx hv hs ⊢
    have hvoices : (if old = .critical then { r.1 with amp := true } else r.1).voices = r.1.voices := by split <;> rfl
    refine ⟨fun i => ?_, ?_, ?_, ?_, ?_, nofun⟩
    · dsimp only
      rw [hvoices, hv]
      cases i <;> simp [Mixer.endsVoice]
    · dsimp only
      rw [hs]
      simp [Mixer.endsVoice, Num4.all]
    · rw [hx]
      simp only [reduceCtorEq, if_false, true_and]
      split <;> rfl
    · rw [hx]
      dsimp only
      split <;> rfl
    · rw [hx]
      dsimp only
      split <;> rfl
  | critical =>
    obtain ⟨hx, hv, hs⟩ := Mixer.endVoices_spec time .power Num4.all x (by decide)
    have hp : x.powerChanged time old .critical =
        ({ (x.endVoices time .power Num4.all).1 with amp := false, output := 0 },
          (x.endVoices time .power Num4.all).2) := rfl
    rw [hp]
    generalize x.endVoices time .power Num4.all = r at hx hv hs ⊢
    refine ⟨fun i => ?_, ?_, rfl, rfl, ?_, nofun⟩
    · have hi : i ∈ Num4.all := by cases i <;> decide
      exact (hv i).trans (by simp [hi, Mixer.endsVoice])
    · exact hs.trans (by simp [Mixer.endsVoice])
    · rw [hx]

/-! ### The transition in the part (R162) -/

theorem State.changePower_supply (s : State) (new : PowerState) : (s.changePower new).supply =
    { s.supply with power := new, toEconomy := 0, toCritical := 0, toRun := 0 } := rfl

theorem State.changePower_router (s : State) (new : PowerState) : (s.changePower new).router =
    (s.router.place .primary (.powerEvent s.supply.power new s.supply.vb s.supply.lambda s.now)).placeAll
      ((s.motors.powerChanged s.supply.power new).2 ++ (s.mixer.powerChanged s.now s.supply.power new).2) :=
  (Router.placeAll_append _ _ _).symm

theorem State.takeTransition_none {s : State} (h : s.supply.transition = none) : s.takeTransition = s := by
  simp only [State.takeTransition, h]

theorem State.takeTransition_some {s : State} {new : PowerState} (h : s.supply.transition = some new) :
    s.takeTransition = s.changePower new := by
  simp only [State.takeTransition, h]

/-- R161: whether a transition is due or not, what a supply update leaves to the other blocks and of the monitor's own
fields. -/
theorem State.takeTransition_rest (s : State) :
    s.takeTransition.sensors = s.sensors ∧ s.takeTransition.store = s.store ∧ s.takeTransition.watch = s.watch ∧
      ∃ p a b c, s.takeTransition.supply =
        { s.supply with power := p, toEconomy := a, toCritical := b, toRun := c } := by
  cases h : s.supply.transition with
  | none =>
    rw [State.takeTransition_none h]
    exact ⟨rfl, rfl, rfl, _, _, _, _, rfl⟩
  | some new =>
    rw [State.takeTransition_some h]
    exact ⟨rfl, rfl, rfl, _, _, _, _, State.changePower_supply s new⟩

theorem exec_supplyUpdate {mv : Nat} {s : State} (hs : s.supply.power ≠ .sleep) :
    exec (.supplyUpdate mv) s = .next
      { ({ s with supply := (s.supply.measured mv).counted } : State).takeTransition with
        supply := ({ s with supply := (s.supply.measured mv).counted } : State).takeTransition.supply.budget } :=
  congrArg Host.Outcome.next (if_pos (State.awake_of hs))

/-- Settles O21. -/
theorem supplyUpdateAndPowerStates : Obligations.SupplyUpdateAndPowerStates := by
  unfold Obligations.SupplyUpdateAndPowerStates
  intro entered
  have enters (s : State) (x w : Supply) (new : PowerState) (hpow : x.power = s.supply.power)
      (hlam : x.lambda = s.supply.lambda)
      (hinto : (s.supply.power = .run → new = .economy ∨ new = .critical) ∧
        (s.supply.power = .economy → new = .run ∨ new = .critical) ∧
        (s.supply.power = .critical → new = .economy) ∧ new ≠ .sleep)
      (hw : w.power = new ∧ w.toEconomy = 0 ∧ w.toCritical = 0 ∧ w.toRun = 0 ∧ w.vb = x.vb) :
      entered s { ({ s with supply := x } : State).changePower new with supply := w } w.vb new := by
    obtain ⟨hrun, heco, hcrit, hsleep⟩ := hinto
    obtain ⟨hw1, hw2, hw3, hw4, hw5⟩ := hw
    obtain ⟨hv1, hv2, hv3, hv4, hv5, hv6⟩ := Mixer.powerChanged_spec s.now (old := x.power) s.mixer hsleep
    have hmixer : (({ s with supply := x } : State).changePower new).mixer =
        (s.mixer.powerChanged s.now x.power new).1 := rfl
    have hmotors : (({ s with supply := x } : State).changePower new).motors =
        (s.motors.powerChanged x.power new).1 := rfl
    refine ⟨hw1, hw2, hw3, hw4, rfl, rfl, rfl, rfl, hrun, heco, hcrit, ?router, fun p => ⟨fun hc => ?stopped,
      fun hc => ?back⟩, fun i => ?voices, ?amp, ?output, ?volume, fun hn => ?run⟩
    case voices => rw [hmixer]; exact hv1 i
    case amp =>
      rw [hmixer, hv3, hpow]
      by_cases hc : new = .critical
      · rw [if_pos hc, if_pos hc]
      · rw [if_neg hc, if_neg hc]
        by_cases ho : s.supply.power = .critical
        · rw [if_pos ⟨hcrit ho, ho⟩, if_pos ho]
        · rw [if_neg fun h => ho h.2, if_neg ho]
    case output => rw [hmixer]; exact hv4
    case volume => rw [hmixer]; exact hv5
    case run => rw [hmixer]; exact hv6 hn
    case router =>
      obtain ⟨ns, hns, hq⟩ := s.motors.powerChanged_notices x.power new
      refine ⟨ns, (State.changePower_router { s with supply := x } new).trans ?_, hq⟩
      show (s.router.place .primary (.powerEvent x.power new x.vb x.lambda s.now)).placeAll
        ((s.motors.powerChanged x.power new).2 ++ (s.mixer.powerChanged s.now x.power new).2) = _
      rw [hns, hv2, hpow, hlam, ← hw5, List.append_assoc]
      rfl
    case stopped =>
      subst hc
      obtain ⟨gs, hgs⟩ := s.motors.enterCritical_get p
      have hd : (({ s with supply := x } : State).changePower .critical).motors.ch.get p = _ := hgs
      obtain ⟨k1, k2, k3, k4⟩ := (s.motors.ch.get p).critical_keeps gs p
      rw [hd]
      refine ⟨rfl, rfl, k1, k2, k3, fun hst => ?_, fun hst hl hq => ?_, k4⟩
      · rw [if_pos (show (s.motors.ch.get p).hasSegments = true from hst)]
        exact (s.motors.ch.get p).criticalStop_spec gs p
      · have hno : ¬(s.motors.ch.get p).hasSegments = true := Bool.eq_false_iff.mp hst
        rw [if_neg hno, Channel.concluded_empty hq, Channel.finishRelease_unmarked hl]
        rfl
    case back =>
      rw [hmotors, Motors.powerChanged_get hc, hpow, Channel.restAgain_eq]
      by_cases ho : s.supply.power = .critical
      · rw [if_pos ho]
        simp only [ho, true_and]
      · rw [if_neg ho, if_neg fun h => ho h.1]
  refine ⟨fun mv s hs => ⟨_, exec_supplyUpdate hs, ?update⟩, fun s new hs hnew => ⟨s.changePower new, ?change, rfl, ?entered⟩,
    fun s hn => ?none, fun x => ⟨x.counted_eq, fun hp => ?run, fun hp => ?economy, fun hp => ?critical⟩⟩
  case change =>
    refine next_whenAwake hs ?_
    simp only [State.powerStateChange, hnew]
  case entered =>
    have hinto := Supply.transition_into hnew
    rw [Supply.counted_power] at hinto
    exact enters s s.supply (s.changePower new).supply new rfl rfl hinto ⟨rfl, rfl, rfl, rfl, rfl⟩
  case none =>
    refine congrArg Host.Outcome.next (whenAwake_self ?_)
    simp only [State.powerStateChange, hn]
  case run =>
    refine ⟨?_, ?_, Supply.counted_transition_run hp⟩
    · rw [Supply.counted_run hp]
    · rw [Supply.counted_run hp]
  case economy =>
    refine ⟨?_, ?_, Supply.counted_transition_economy hp⟩
    · rw [Supply.counted_economy hp]
    · rw [Supply.counted_economy hp]
  case critical =>
    refine ⟨?_, Supply.transition_critical (x.counted_power.trans hp)⟩
    rw [Supply.counted_critical hp]
  case update =>
    obtain ⟨hsens, hstore, hwatch, p, a, b, c, hsup⟩ :=
      ({ s with supply := (s.supply.measured mv).counted } : State).takeTransition_rest
    have hbudget : ({ s with supply := (s.supply.measured mv).counted } : State).takeTransition.supply.budget =
        { s.supply with
          history := s.supply.history.drop 1 ++ [mv], vb := averageOf (s.supply.history.drop 1 ++ [mv]),
          power := p, toEconomy := a, toCritical := b, toRun := c, total := s.supply.currentSum / 10, currentSum := 0,
          lambda := nextLambda s.supply.lambda s.supply.limit (s.supply.currentSum / 10) } := by
      rw [hsup, Supply.counted_eq]
      simp only [Supply.budget, Supply.measured]
    intro now
    have hvb := averageOf_mem (s.supply.history.drop 1 ++ [mv])
    refine ⟨?_, ?_, ?_, ?_, ?_, ?_, fun hl => ?_, fun hl => ?_, ?_, ?_, hsens, hstore, hwatch, fun hn => ?none,
      fun new hn => ?entered⟩
    case none =>
      rw [State.takeTransition_none hn]
      exact ⟨Supply.counted_power _, rfl, rfl, rfl, rfl, rfl, rfl⟩
    case entered =>
      have hinto := Supply.transition_into hn
      rw [Supply.counted_power] at hinto
      rw [State.takeTransition_some hn]
      exact enters s now _ new (Supply.counted_power _) (by rw [show now = _ from Supply.counted_eq _]; rfl) hinto
        ⟨rfl, rfl, rfl, rfl, rfl⟩
    · rw [hbudget]
    · rw [hbudget]
    · simp only [hbudget, hvb]
    · simp only [hbudget, hvb]
    · rw [hbudget]
    · rw [hbudget]
    · rw [hbudget] at hl ⊢
      exact if_pos hl
    · rw [hbudget] at hl ⊢
      exact if_neg (Nat.not_lt.mpr hl)
    · rw [hbudget]
    · rw [hbudget]

end Sys2Proof.Machine
end

section
/-! What a watch entry compares, fires and scans, and what its actions do (R100, R102 to R105). -/

namespace Sys2Proof.Machine

/-! ### Comparisons and firing (R102, R103) -/

/-- R102: each comparison with its hysteresis. -/
theorem Watch.newCond_cases (e : Watch) (v x : Int) :
    (∀ lo, e.cmp = .above lo → (e.newCond v = true ↔ if e.cond then lo - e.hyst ≤ v else lo < v)) ∧
    (∀ hi, e.cmp = .below hi → (e.newCond v = true ↔ if e.cond then v ≤ hi + e.hyst else v < hi)) ∧
    (∀ lo hi, e.cmp = .inside lo hi →
      (e.newCond v = true ↔ if e.cond then lo - e.hyst ≤ v ∧ v ≤ hi + e.hyst else lo ≤ v ∧ v ≤ hi)) ∧
    (∀ lo hi, e.cmp = .outside lo hi →
      (e.newCond v = true ↔ if e.cond then v < lo + e.hyst ∨ hi - e.hyst < v else v < lo ∨ hi < v)) ∧
    (∀ n, e.cmp = .equal n → (e.newCond v = true ↔ v = n)) ∧
    (e.cmp = .change → e.last = some x → (e.newCond v = true ↔ v ≠ x)) ∧
    (e.cmp = .change → e.last = none → e.newCond v = false) := by
  refine ⟨fun lo h => ?_, fun hi h => ?_, fun lo hi h => ?_, fun lo hi h => ?_, fun n h => ?_, fun h hl => ?_,
    fun h hl => ?_⟩
  · cases hc : e.cond <;> simp [Watch.newCond, hc, h, Comparison.falls, Comparison.rises]
  · cases hc : e.cond <;> simp [Watch.newCond, hc, h, Comparison.falls, Comparison.rises]
  · cases hc : e.cond <;> simp [Watch.newCond, hc, h, Comparison.falls, Comparison.rises]
  · cases hc : e.cond <;> simp [Watch.newCond, hc, h, Comparison.falls, Comparison.rises]
  · cases hc : e.cond <;> simp [Watch.newCond, hc, h, Comparison.falls, Comparison.rises]
  · rw [ne_comm]
    cases hc : e.cond <;> simp [Watch.newCond, hc, h, hl, Comparison.falls, Comparison.rises]
  · cases hc : e.cond <;> simp [Watch.newCond, hc, h, hl, Comparison.falls, Comparison.rises]

theorem Watch.seen_fires_iff (e : Watch) (v : Int) : (e.seen v).fires? = true ↔
    e.newCond v = true ∧ e.state = .active ∧ e.latch = false ∧ e.debounce ≤ min e.debounce (e.trueCount + 1) := by
  cases hc : e.newCond v <;> simp [Watch.fires?, Watch.seen, hc, and_assoc]

theorem Reach.fireNow_fires {f : WatchFeed} {i : WatchId} {v : Int} {w : Reach} {e : Watch}
    (he : w.watch.entries.get i = some e) (hs : e.state = .active) (hf : (e.seen v).fires? = true) :
    w.fireNow f i v = (evalWith f 3 i v w).1 := by
  simp only [Reach.fireNow, he]
  exact if_pos ⟨hs, hf⟩

theorem Reach.fireNow_rests {f : WatchFeed} {i : WatchId} {v : Int} {w : Reach} {e : Watch}
    (he : w.watch.entries.get i = some e) (h : e.state ≠ .active ∨ (e.seen v).fires? = false) : w.fireNow f i v = w := by
  simp only [Reach.fireNow, he]
  refine if_neg fun hc => ?_
  rcases h with h | h
  · exact h hc.1
  · rw [h] at hc
    exact Bool.false_ne_true hc.2

/-- R103: the entry after a firing whose actions leave the entries alone. -/
theorem Watch.evaluated_fires {e : Watch} {v : Int} (hs : e.state = .active) (hf : (e.seen v).fires? = true) :
    e.evaluated v = { e.seen v with
      fires := min 65535 (e.fires + 1), state := if e.rearm = .once then .fired else .active,
      latch := if e.rearm = .once then (e.seen v).latch else true } := by
  rw [Watch.evaluated_active e v hs]
  simp only [hf, if_true, true_and, Bool.true_and]
  cases hr : e.rearm <;> simp [Watch.seen, hr]

/-! ### The scan (R100) -/

/-- R100: the watch unit as the evaluations of a scan find it. -/
def WatchUnit.atScan (m : Motors) (u : WatchUnit) : WatchUnit := { u.clearMotorless m with scanEnc := keptCounts m }

theorem Reach.scan_eq (f : WatchFeed) (vb : Nat) (w : Reach) : w.scan f vb =
    (evalEach (evalWith f 3) (Source.scanned w.motors) (Watch.scanValue w.motors w.watch.scanEnc vb) Num16.all
      { w with watch := w.watch.atScan w.motors }).1 := rfl

/-- R100: an entry on a motorless port as a scan finds it. -/
def Watch.waiting (m : Motors) (e : Watch) : Watch := if e.state = .active ∧ e.motorless m = true then e.cleared else e

theorem WatchUnit.atScan_get (m : Motors) (u : WatchUnit) (k : WatchId) :
    (u.atScan m).entries.get k = (u.entries.get k).map (Watch.waiting m) := Sixteen.get_map _ _ _

/-- A source that is scanned is on no motorless port. -/
theorem Watch.waiting_scanned {m : Motors} {e : Watch} (h : Source.scanned m e.source = true) : e.waiting m = e := by
  refine if_neg fun hc => ?_
  have hm := hc.2
  unfold Watch.motorless at hm
  unfold Source.scanned at h
  cases hs : e.source <;> simp_all

theorem Watch.waiting_source (m : Motors) (e : Watch) :
    (e.waiting m).source = e.source ∧ (e.waiting m).state = e.state ∧ (e.waiting m).actions = e.actions := by
  unfold Watch.waiting
  split <;> exact ⟨rfl, rfl, rfl⟩

theorem Source.scanned_eq (m : Motors) : Source.scanned m = fun x => match x with
    | .motor p _ => (m.ch.get p).kind != .none
    | .battery => true
    | _ => false := by
  funext x
  cases x <;> rfl

theorem Watch.motorless_eq (m : Motors) : Watch.motorless m = fun e => match e.source with
    | .motor p _ => (m.ch.get p).kind == .none
    | _ => false := by
  funext e
  unfold Watch.motorless
  cases e.source <;> rfl

theorem Watch.scanValue_eq (m : Motors) (old : Six Int) (vb : Nat) : Watch.scanValue m old vb = fun e => match e.source with
    | .motor p .position => (m.ch.get p).enc
    | .motor p .speed => motorSpeed ((m.ch.get p).enc - old.get p)
    | .motor p .current => (m.ch.get p).mA
    | .motor p .stall => ((m.ch.get p).stallTimer : Int)
    | .battery => (vb : Int)
    | _ => 0 := by
  funext e
  unfold Watch.scanValue
  cases e.source with
  | motor p q => cases q <;> rfl
  | _ => rfl

/-! ### The actions (R104, R105) -/

section
variable {f : WatchFeed} {inner : Option Evaluate} {k : WatchId} {v : Int} {as : List Action} {w : Reach}

/-- An action that writes no virtual input is followed by the rest. -/
def GoesOn (f : WatchFeed) (inner : Option Evaluate) (k : WatchId) (v : Int) (as : List Action) (w : Reach)
    (a : Action) (x : Reach) (y : ActionResult) : Prop :=
  performActions f inner k v (a :: as) w =
    ((performActions f inner k v as x).1, y :: (performActions f inner k v as x).2.1,
      (performActions f inner k v as x).2.2)

theorem goesOn_play {g volume priority : Nat} {x : Reach} {y : ActionResult} (h : w.play f g volume priority = (x, y)) :
    GoesOn f inner k v as w (.play g volume priority) x y := by
  simp only [GoesOn, performActions, h, Nat.zero_add]

theorem goesOn_cut {a : Action} {ps : List MotorPort} {rest : Rest}
    (h : (a = .brake ps ∧ rest = .brake) ∨ (a = .coast ps ∧ rest = .coast)) :
    GoesOn f inner k v as w a (w.cut f rest ps).1 (w.cut f rest ps).2 := by
  rcases h with ⟨rfl, rfl⟩ | ⟨rfl, rfl⟩ <;> simp only [GoesOn, performActions, Nat.zero_add]

theorem goesOn_stopVoices : GoesOn f inner k v as w .stopVoices (w.stopVoices f).1 (w.stopVoices f).2 := by
  simp only [GoesOn, performActions, Nat.zero_add]

theorem goesOn_notify {l : Link} {c : Nat} :
    GoesOn f inner k v as w (.notify l c) (w.send [{ link := l, notice := .watchNote k c v f.time }]) .done := by
  simp only [GoesOn, performActions, Nat.zero_add]

end

/-! ### PLAY and STOP_VOICES (R105) -/

theorem Voice.begun_priority (paused : Bool) (v : Voice) : (v.begun paused).priority = v.priority := by
  unfold Voice.begun
  split <;> rfl

theorem clipVoice_priority (paused : Bool) (id : Nat) (y : Layout) (pitch loopCount : Nat) (o : StartOptions) :
    (clipVoice paused id y pitch loopCount o).priority = o.priority := Voice.begun_priority _ _

section
variable {st : Store} {id : Nat} {x : Region}

theorem Store.playable_missing (h : st.find id = none) : st.playable id = .error (.invalid [.region]) := by
  simp only [Store.playable, h]

theorem Store.playable_capture (h : st.find id = some x) (hk : x.kind = .capture) :
    st.playable id = .error (.invalid [.kind]) := by
  simp only [Store.playable, h, hk, if_true]

theorem Store.playable_barred (h : st.find id = some x) (hk : x.kind = .clip)
    (hb : x.layout = none ∨ x.ready = false ∨ st.windowOn id = true) :
    st.playable id = .error (Reply.refuse .access) := by
  simp only [Store.playable, h, hk, reduceCtorEq, if_false]
  cases hl : x.layout with
  | none => rfl
  | some y =>
    refine if_pos ?_
    rcases hb with hb | hb | hb
    · rw [hl] at hb; cases hb
    · simp [hb]
    · simp [hb]

theorem Store.playable_ok {y : Layout} (h : st.find id = some x) (hk : x.kind = .clip) (hl : x.layout = some y)
    (hr : x.ready = true) (hw : st.windowOn id = false) : st.playable id = .ok y := by
  simp [Store.playable, h, hk, hl, hr, hw]

end

/-- R105: the voice of a PLAY action. -/
def Reach.playVoice (w : Reach) (g volume priority : Nat) (y : Layout) : Voice :=
  clipVoice (w.motors.pause != .running) g y 1000 1
    { volume := volume, priority := priority, free := false, notify := false, origin := .localUnit }

section
variable {f : WatchFeed} {w : Reach} {g volume priority : Nat}

theorem Reach.play_busy (h : f.store.compaction ≠ none) : w.play f g volume priority = (w, .refused .busy) :=
  if_pos (Option.isSome_iff_ne_none.mpr h)

theorem Reach.play_power (hc : f.store.compaction = none) (h : f.power = .critical) :
    w.play f g volume priority = (w, .refused .power) :=
  (if_neg (by rw [hc]; exact Bool.false_ne_true)).trans (if_pos h)

theorem Reach.play_error {r : Reply} (hc : f.store.compaction = none) (hp : f.power ≠ .critical)
    (h : f.store.playable g = .error r) : w.play f g volume priority = (w, .refused (refusalStatus r)) := by
  refine (if_neg (by rw [hc]; exact Bool.false_ne_true)).trans ((if_neg hp).trans ?_)
  simp only [Mixer.startClip, h]

theorem Reach.play_clip {y : Layout} (hc : f.store.compaction = none) (hp : f.power ≠ .critical)
    (h : f.store.playable g = .ok y) :
    w.play f g volume priority =
      match w.mixer.start f.power f.time (w.playVoice g volume priority y) with
      | (x, ns, some s) => ({ w with mixer := x }.send ns, .doneVoice s.voice)
      | (_, _, none) => (w, .refused .noVoice) := by
  refine (if_neg (by rw [hc]; exact Bool.false_ne_true)).trans ((if_neg hp).trans ?_)
  have hpitch : keptPitch 1000 = 1000 := rfl
  simp only [Mixer.startClip, h, hpitch]
  rw [show clipVoice (w.motors.pause != .running) g y 1000 1
    { volume := volume, priority := priority, free := false, notify := false, origin := .localUnit } =
      w.playVoice g volume priority y from rfl]
  generalize w.mixer.start f.power f.time (w.playVoice g volume priority y) = r
  obtain ⟨x, ns, _ | s⟩ := r <;> rfl

theorem Reach.playVoice_priority (y : Layout) : (w.playVoice g volume priority y).priority = priority :=
  clipVoice_priority _ _ _ _ _ _

end

/-- R105: what STOP_VOICES leaves. -/
theorem Reach.stopVoices_eq (f : WatchFeed) (w : Reach) : w.stopVoices f =
    ({ w with mixer := (w.mixer.endVoices f.time .stopped Num4.all).1 }.send
        (w.mixer.endVoices f.time .stopped Num4.all).2,
      .doneCount (Num4.all.filter (fun i => (w.mixer.voices.get i).playing)).length) := rfl

/-! ### The watch cut (R104) -/

theorem Motors.cutPorts_nodup (ps : List MotorPort) (m : Motors) :
    ((portSet ps).filter (fun p => !(m.ch.get p).cutSkips)).Nodup := (MotorPort.all_nodup.filter _).filter _

theorem mem_portSet {ps : List MotorPort} {p : MotorPort} : p ∈ portSet ps ↔ p ∈ ps := by
  simp [portSet, MotorPort.mem_all]

theorem Channel.cutSkips_iff (c : Channel) : c.cutSkips = true ↔ ¬(c.kind ≠ .none ∧ c.state ≠ .fault) := by
  simp [Channel.cutSkips]
  tauto

/-- R104: the ports that an action takes. -/
theorem Motors.mem_cutPorts {ps : List MotorPort} {m : Motors} {p : MotorPort} :
    p ∈ (portSet ps).filter (fun p => !(m.ch.get p).cutSkips) ↔
      p ∈ ps ∧ (m.ch.get p).kind ≠ .none ∧ (m.ch.get p).state ≠ .fault := by
  rw [List.mem_filter, mem_portSet]
  simp [Channel.cutSkips]

theorem Motors.watchCut_get (live : Bool) (a : Rest) (ps : List MotorPort) (m : Motors) (p : MotorPort) :
    ∃ gs, (m.watchCut live a ps).1.ch.get p =
        (if p ∈ ps ∧ (m.ch.get p).kind ≠ .none ∧ (m.ch.get p).state ≠ .fault then (m.ch.get p).stopWith live a
          else m.ch.get p).concluded gs p ∧
      (m.groups = [] → (∀ q, (m.ch.get q).state ≠ .syncWait) → gs = []) := by
  have h := Motors.event_get (f := Channel.cut live a) (m := m) (m.cutPorts_nodup ps) p
  simp only [Motors.mem_cutPorts] at h
  exact ⟨_, h, fun hg hs => by
    rw [Motors.groupsOn, Motors.event_quiet (m.cutPorts_nodup ps) (fun q _ => ?_) hg hs]
    · rfl
    · obtain ⟨-, -, -, -, -, -, -, hst, -⟩ := (m.ch.get q).stopWith_frame live a
      rw [Channel.cut, hst]
      decide⟩

/-- R104: the notices of a cut, port by port. -/
theorem Motors.watchCut_sent (live : Bool) (a : Rest) (ps : List MotorPort) (m : Motors) :
    ∃ ns, (m.watchCut live a ps).2.1 = MotorPort.all.flatMap (fun p =>
        if p ∈ ps ∧ (m.ch.get p).kind ≠ .none ∧ (m.ch.get p).state ≠ .fault then (m.ch.get p).cutNotices p else []) ++ ns ∧
      (m.groups = [] → (∀ q, (m.ch.get q).state ≠ .syncWait) → m.pause ≠ .pausing → ns = []) := by
  have hfilter : (portSet ps).filter (fun p => !(m.ch.get p).cutSkips) =
      MotorPort.all.filter (fun p => decide (p ∈ ps ∧ (m.ch.get p).kind ≠ .none ∧ (m.ch.get p).state ≠ .fault)) := by
    rw [portSet, List.filter_filter]
    refine List.filter_congr fun p _ => ?_
    rw [Bool.eq_iff_iff]
    simp [Channel.cutSkips]
    tauto
  refine ⟨_, congrArg (· ++ _) ((Motors.onPorts_sent (m.cutPorts_nodup ps)).trans ?_), fun hg hs hp => ?_⟩
  · rw [hfilter, MotorPort.filter_flatMap]
    simp only [decide_eq_true_eq]
    rfl
  · refine Motors.conclude_silent ?_ (by rw [(Motors.onPorts_rest _ _ m).1]; exact hp)
    rw [Motors.groupsOn, Motors.event_quiet (m.cutPorts_nodup ps) (fun q _ => ?_) hg hs]
    · rfl
    · obtain ⟨-, -, -, -, -, -, -, hst, -⟩ := (m.ch.get q).stopWith_frame live a
      rw [Channel.cut, hst]
      decide

/-- R104: a channel that was cut. -/
theorem Channel.cut_spec {live : Bool} {a : Rest} (gs : List Group) (p : MotorPort) (c : Channel)
    (ha : a = .brake ∨ a = .coast) :
    let d := (c.stopWith live a).concluded gs p
    d.current = none ∧ d.queue = [] ∧ d.state = .idle ∧ d.rest = a ∧ d.q = c.enc * 1000000 ∧ d.spd = 0 ∧
      d.integ = 0 ∧ d.lastTarget = none ∧ d.resume = none ∧ d.heldAction = none ∧ d.stepMark = .none ∧
      d.applied = 0 ∧ d.drive = (if live = true ∧ a = .brake then .shorted else .off) ∧ d.enc = c.enc ∧
      d.kind = c.kind ∧ d.gains = c.gains ∧ d.holder = (if c.lostLink = true then none else c.holder) := by
  obtain ⟨henc, hkind, hgains, hholder, hlost, hcur, hq, hst, hrest⟩ := c.stopWith_frame live a
  obtain ⟨hspd, happ, htarget, hpos⟩ := Channel.stopWith_ends (a := a) live c (by rcases ha with rfl | rfl <;> decide)
  have hmore : (c.stopWith live a).integ = 0 ∧ (c.stopWith live a).resume = none ∧ (c.stopWith live a).heldAction = none ∧
      (c.stopWith live a).stepMark = .none ∧
      (c.stopWith live a).drive = (if live = true ∧ a = .brake then .shorted else .off) := by
    rcases ha with rfl | rfl <;> cases live <;> exact ⟨rfl, rfl, rfl, rfl, rfl⟩
  obtain ⟨m1, m2, m3, m4, m5⟩ := hmore
  have hfin : (c.stopWith live a).finishRelease =
      if c.lostLink = true then { c.stopWith live a with holder := none, lostLink := false } else c.stopWith live a := by
    simp only [Channel.finishRelease, hlost, hcur, hq, Option.isNone_none, List.isEmpty_nil, Bool.and_true]
  rw [Channel.concluded_empty hq, hfin]
  split
  · exact ⟨hcur, hq, hst, hrest, hpos, hspd, m1, htarget, m2, m3, m4, happ, m5, henc, hkind, hgains, rfl⟩
  · exact ⟨hcur, hq, hst, hrest, hpos, hspd, m1, htarget, m2, m3, m4, happ, m5, henc, hkind, hgains, hholder⟩

/-! ### The events of the watch unit -/

theorem State.withReach_reach (s : State) : s.withReach s.reach = s := rfl

section
variable {s : State} {i : WatchId} {v : Int} {e : Watch}

theorem exec_watchFire (hs : s.supply.power ≠ .sleep) (he : s.watch.entries.get i = some e) (ha : e.state = .active)
    (hf : (e.seen v).fires? = true) :
    exec (.watchFire i v) s = .next (s.withReach (evalWith s.watchFeed 3 i v s.reach).1) :=
  next_whenAwake hs (congrArg s.withReach (Reach.fireNow_fires he ha hf))

theorem exec_watchFire_rests (hs : s.supply.power ≠ .sleep) (he : s.watch.entries.get i = some e)
    (h : e.state ≠ .active ∨ (e.seen v).fires? = false) : exec (.watchFire i v) s = .next s :=
  next_whenAwake hs ((congrArg s.withReach (Reach.fireNow_rests he h)).trans s.withReach_reach)

end

/-- R100: each entry after a scan whose entries write no virtual input. -/
theorem Reach.scan_entries (f : WatchFeed) (vb : Nat) (w : Reach)
    (h : ∀ k e, w.watch.entries.get k = some e → e.state = .active → Source.scanned w.motors e.source = true →
      ∀ a ∈ e.actions, ∀ j b, a ≠ .setVirtual j b) :
    (w.scan f vb).watch.virt = w.watch.virt ∧
      ∀ k, (w.scan f vb).watch.entries.get k = (w.watch.entries.get k).map (fun e =>
        if e.state = .active ∧ Source.scanned w.motors e.source = true then
          e.evaluated (e.scanValue w.motors w.watch.scanEnc vb)
        else e.waiting w.motors) := by
  have hplain : ∀ k e, ({ w with watch := w.watch.atScan w.motors } : Reach).watch.entries.get k = some e →
      e.on (Source.scanned w.motors) = true → ∀ a ∈ e.actions, ∀ j b, a ≠ .setVirtual j b := by
    intro k e he hon
    obtain ⟨e0, he0, rfl⟩ := Option.map_eq_some_iff.mp ((w.watch.atScan_get w.motors k).symm.trans he)
    obtain ⟨h1, h2, h3⟩ := e0.waiting_source w.motors
    simp only [Watch.on, h1, h2, Bool.and_eq_true, beq_iff_eq] at hon
    rw [h3]
    exact h k e0 he0 hon.1 hon.2
  obtain ⟨hvirt, hentry⟩ := evalEach_entries f (Source.scanned w.motors)
    (Watch.scanValue w.motors w.watch.scanEnc vb) { w with watch := w.watch.atScan w.motors } hplain
  refine ⟨hvirt, fun k => ?_⟩
  refine (hentry k).trans ((congrArg (Option.map _) (w.watch.atScan_get w.motors k)).trans ?_)
  rw [Option.map_map]
  refine congrArg (fun g => Option.map g (w.watch.entries.get k)) (funext fun e => ?_)
  obtain ⟨h1, h2, -⟩ := e.waiting_source w.motors
  simp only [Function.comp_apply, h1, h2]
  by_cases hsc : Source.scanned w.motors e.source = true
  · rw [Watch.waiting_scanned hsc]
  · rw [if_neg fun h => hsc h.2, if_neg fun h => hsc h.2]

/-- Settles O47. -/
theorem watchComparesFiresAndScans : Obligations.WatchComparesFiresAndScans := by
  unfold Obligations.WatchComparesFiresAndScans
  refine ⟨fun e v x => e.newCond_cases v x, fun i v e s hs he => ⟨fun ha hf hplain => ?fired,
    fun ha hf => exec_watchFire hs he ha hf, fun h => exec_watchFire_rests hs he h, e.seen_fires_iff v⟩,
    fun d h1 h2 => if_pos ⟨h1, h2⟩, fun s hs => ?scan, fun f inner k v as w => ?actions,
    fun live rest ps m hr => ?cut⟩
  case fired =>
    obtain ⟨-, ⟨hvirt, hscan, -⟩, hentry⟩ := evaluate_plain s.watchFeed (4 - 3) (innerWith s.watchFeed 3) i v s.reach he hplain
    rw [← evalWith_eq _ (le_refl 3)] at hvirt hscan hentry
    refine ⟨_, exec_watchFire hs he ha hf, ?_, fun k hk => ?_, hvirt, hscan, rfl, rfl, rfl⟩
    · exact (hentry i).trans ((if_pos rfl).trans (congrArg some (Watch.evaluated_fires ha hf)))
    · exact (hentry k).trans (if_neg hk)
  case scan =>
    intro bare scanned value judged waits
    have hscanned : Source.scanned s.motors = scanned := Source.scanned_eq _
    have hvalue : Watch.scanValue s.motors s.watch.scanEnc s.supply.vb = value := Watch.scanValue_eq _ _ _
    have hbare : Watch.motorless s.motors = bare := Watch.motorless_eq _
    have hwaits : Watch.waiting s.motors = waits := by
      funext e
      show (if e.state = .active ∧ Watch.motorless s.motors e = true then e.cleared else e) = _
      rw [hbare]
      rfl
    have hscan := s.reach.scan_eq s.watchFeed s.supply.vb
    rw [show s.reach.motors = s.motors from rfl, show s.reach.watch = s.watch from rfl, hscanned, hvalue] at hscan
    refine ⟨s.watch.atScan s.motors, _, next_whenAwake hs (congrArg s.withReach hscan), rfl, fun k => ?_,
      fun p => ?_, rfl, ?_, rfl, rfl, rfl, fun hplain => ?_, fun hno => ?_⟩
    · rw [← hwaits]
      exact s.watch.atScan_get s.motors k
    · exact Six.get_map _ _ _
    · exact evalEach_counts (evalWith_counts _ 3) _ _ _ _
    · obtain ⟨hvirt, hentry⟩ := s.reach.scan_entries s.watchFeed s.supply.vb (fun k e he ha hsc =>
        hplain k e he ha ((congrFun hscanned e.source).symm.trans hsc))
      rw [hscan] at hvirt hentry
      rw [show s.reach.motors = s.motors from rfl, show s.reach.watch = s.watch from rfl, hscanned, hvalue, hwaits] at hentry
      refine ⟨hvirt, fun k => (hentry k).trans ?_⟩
      refine congrArg (fun g => Option.map g (s.watch.entries.get k)) (funext fun e => ?_)
      by_cases hc : e.state = .active ∧ scanned e.source = true
      · rw [if_pos hc, if_pos hc, Watch.evaluated_active e _ hc.1]
      · rw [if_neg hc, if_neg hc]
    · have hquiet := evalEach_quiet (evalWith s.watchFeed 3) scanned value Num16.all
        { s.reach with watch := s.watch.atScan s.motors } (fun k e he => by
          obtain ⟨e0, he0, rfl⟩ := Option.map_eq_some_iff.mp ((s.watch.atScan_get s.motors k).symm.trans he)
          obtain ⟨h1, h2, -⟩ := e0.waiting_source s.motors
          rw [Watch.on, h1, h2]
          cases ha : (e0.state == .active) with
          | false => rfl
          | true => exact hno k e0 he0 (by simpa using ha))
      exact ⟨congrArg (fun r : Reach × Nat × Nat => r.1.motors) hquiet,
        congrArg (fun r : Reach × Nat × Nat => r.1.mixer) hquiet,
        congrArg (fun r : Reach × Nat × Nat => r.1.router) hquiet⟩
  case actions =>
    refine ⟨fun a ps rest h => goesOn_cut h, fun g volume priority => ⟨fun hc => goesOn_play (Reach.play_busy hc),
      fun hc hp => goesOn_play (Reach.play_power hc hp), fun hc hp => ⟨fun hbad => ?invalid, fun x hx hk =>
      ⟨fun hbar => ?access, fun y hy hr hw => ⟨fun harb => ?noVoice, fun i harb => ?free, fun i harb => ?steal⟩⟩⟩⟩,
      ?stop, fun l c => goesOn_notify⟩
    case invalid =>
      rcases hbad with hn | ⟨x, hx, hk⟩
      · exact goesOn_play (Reach.play_error hc hp (Store.playable_missing hn))
      · exact goesOn_play (Reach.play_error hc hp (Store.playable_capture hx hk))
    case access => exact goesOn_play (Reach.play_error hc hp (Store.playable_barred hx hk hbar))
    case noVoice =>
      have hs := Mixer.start_refused (time := f.time) (v := w.playVoice g volume priority y)
        (by rw [Reach.playVoice_priority]; exact harb)
      exact goesOn_play ((Reach.play_clip hc hp (Store.playable_ok hx hk hy hr hw)).trans (by rw [hs]))
    case free =>
      have hs := Mixer.start_free (time := f.time) (v := w.playVoice g volume priority y)
        (by rw [Reach.playVoice_priority]; exact harb)
      exact goesOn_play ((Reach.play_clip hc hp (Store.playable_ok hx hk hy hr hw)).trans (by rw [hs]; rfl))
    case steal =>
      have hs := Mixer.start_steal (time := f.time) (v := w.playVoice g volume priority y)
        (by rw [Reach.playVoice_priority]; exact harb)
      exact goesOn_play ((Reach.play_clip hc hp (Store.playable_ok hx hk hy hr hw)).trans (by rw [hs]; rfl))
    case stop =>
      obtain ⟨hx, hv, hsent⟩ := Mixer.endVoices_spec f.time .stopped Num4.all w.mixer (by decide)
      refine ⟨(w.mixer.endVoices f.time .stopped Num4.all).1, hx, fun i => ?_, ?_⟩
      · have hi : i ∈ Num4.all := by cases i <;> decide
        rw [hv i]
        simp only [hi, true_and]
        rfl
      · have h := goesOn_stopVoices (f := f) (inner := inner) (k := k) (v := v) (as := as) (w := w)
        rw [Reach.stopVoices_eq, hsent] at h
        exact h
  case cut =>
    refine ⟨fun p => ?_, ?_, fun p => ⟨fun ht => ?_, fun ht => ?_⟩⟩
    · show p ∈ (portSet ps).filter _ ↔ _
      rw [List.mem_filter, mem_portSet, Channel.cutSkips_iff]
      tauto
    · obtain ⟨ns, hns, hq⟩ := m.watchCut_sent live rest ps
      refine ⟨ns, hns.trans (congrArg (· ++ ns) (List.flatMap_congr fun p _ => ?_)), fun hst hp => hq hst.1 hst.2 hp⟩
      rfl
    · obtain ⟨gs, hget, -⟩ := m.watchCut_get live rest ps p
      rw [if_pos ht] at hget
      rw [hget]
      exact (m.ch.get p).cut_spec gs p hr
    · obtain ⟨gs, hget, hq⟩ := m.watchCut_get live rest ps p
      rw [if_neg ht] at hget
      obtain ⟨f1, f2, f3, f4, f5, -, -, f8⟩ := (m.ch.get p).breakGroups_frame gs p
      obtain ⟨r1, r2, r3, r4, r5, r6⟩ := ((m.ch.get p).breakGroups gs p).1.finishRelease_rest
      rw [hget]
      refine ⟨r1.trans f1, r3.trans f2, r4.trans f3, r5.trans f4, r6.trans f5, ?_, fun hst hl => ?_⟩
      · rw [Channel.concluded, r2, f8]
        exact takeBroken_sublist _ _
      · rw [hq hst.1 hst.2, Channel.concluded, Channel.breakGroups_nil]
        exact Channel.finishRelease_unmarked hl

end Sys2Proof.Machine
end

section
/-! The region table of the sound store: DEFINE_REGION and DELETE_REGION (R115, R116). -/

namespace Sys2Proof.Machine

/-- A request of the store alone that is let in and decodes: the store takes its answer, and the reply is sent. -/
theorem takeRequest_store {s : State} {channel : Byte} {r : Req} {fs : Fields} (a : Link → Fields → State → StoreAnswer)
    {y : StoreAnswer} (ha : s.admits r.link channel = true) (hc : s.store.compaction = none)
    (hf : decodeFields r.payload = some fs) (hy : a r.link fs (s.entered channel r) = y) :
    s.takeRequest channel (unlessCompacting (onFields (fun l fs t => t.storeOutcome (a l fs t)))) r =
      State.replied { s.entered channel r with store := y.store } channel r y.reply :=
  takeRequest_idle_onFields ha hc hf (by rw [hy]; rfl)

/-- A store's answer that changes nothing leaves the state as it was entered. -/
theorem State.entered_keeps_store (s : State) (channel : Byte) (r : Req) :
    { s.entered channel r with store := s.store } = s.entered channel r := by
  rw [← State.entered_store s channel r]

/-! ### The place of a region (R115) -/

theorem Store.firstFit_lowest {st : Store} {n : Nat} (hn : 1 ≤ n)
    (hin : ∀ g ∈ st.regions, 0 < g.length ∧ g.base / 64 + (g.length + 63) / 64 ≤ 2048)
    (hsep : st.regions.Pairwise (fun g h => g.base / 64 + (g.length + 63) / 64 ≤ h.base / 64)) :
    let fits (b : Nat) : Prop :=
      b + n ≤ 2048 ∧ ∀ g ∈ st.regions, b + n ≤ g.base / 64 ∨ g.base / 64 + (g.length + 63) / 64 ≤ b
    (∀ b, st.firstFit n = some b → fits b ∧ ∀ a, a < b → ¬ fits a) ∧ (st.firstFit n = none → ∀ b, ¬ fits b) := by
  obtain ⟨hsome, hnone⟩ := gapsFrom_lowest n hn st.regions 0
    (fun g hg => ⟨(hin g hg).1, (hin g hg).2, Nat.zero_le _⟩) hsep
  refine ⟨fun b hb => ?_, fun h b hfit => hnone h b ⟨Nat.zero_le _, hfit⟩⟩
  obtain ⟨⟨-, hfit⟩, hlow⟩ := hsome b hb
  exact ⟨hfit, fun a hab hfa => hlow a hab ⟨Nat.zero_le _, hfa⟩⟩

/-! ### DEFINE_REGION (R115) -/

theorem badLength_true {kind : RegionKind} {n : Nat} (h : n < 64 ∨ 131072 < n ∨ (kind = .capture ∧ n % 2 = 1)) :
    badLength (.val kind) n = true := by
  rcases h with h | h | ⟨rfl, h⟩
  · simp [badLength, outsideNat_true (.inl h)]
  · simp [badLength, outsideNat_true (.inr h)]
  · simp [badLength, Val.get?, h]

theorem badLength_false {kind : RegionKind} {n : Nat} (hlo : 64 ≤ n) (hhi : n ≤ 131072)
    (hodd : kind = .capture → n % 2 = 0) : badLength (.val kind) n = false := by
  cases kind
  · simp [badLength, outsideNat_false ⟨hlo, hhi⟩, Val.get?]
  · simp [badLength, outsideNat_false ⟨hlo, hhi⟩, hodd rfl]

section
variable {st : Store} {fs : Fields} {id n : Nat} {kind : RegionKind} (hi : idField .id 1 fs = .val id)
  (hk : enumFieldAs .kind 2 regionKindOfCode fs = .val kind) (hn : natField 3 fs = .val n)
include hi hk hn

theorem Store.defineRegion_length (h : badLength (.val kind) n = true) :
    st.defineRegion fs = StoreAnswer.none st (.invalid [.length]) := by
  simp only [Store.defineRegion, hi, hk, hn, h, if_true]

theorem Store.defineRegion_full (h : badLength (.val kind) n = false) (hf : 24 ≤ st.regions.length) :
    st.defineRegion fs = StoreAnswer.none st (Reply.refuse .full) := by
  simp only [Store.defineRegion, hi, hk, hn, h, hf, if_true, Bool.false_eq_true, if_false]

variable (h : badLength (.val kind) n = false) (hf : st.regions.length < 24)
include h hf

theorem Store.defineRegion_taken (hs : (st.find id).isSome) :
    st.defineRegion fs = StoreAnswer.none st (Reply.refuse .access) := by
  simp only [Store.defineRegion, hi, hk, hn, h, Nat.not_le.2 hf, hs, if_true, Bool.false_eq_true, if_false]

theorem Store.defineRegion_noSpace (hs : st.find id = none) (hb : st.firstFit (ceilDiv n 64) = none) :
    st.defineRegion fs =
      StoreAnswer.none st (.plain .noSpace (fieldNat 1 2 st.freeBlocks ++ fieldNat 2 2 st.largestGap)) := by
  simp only [Store.defineRegion, hi, hk, hn, h, Nat.not_le.2 hf, hs, hb, Option.isSome_none, Bool.false_eq_true, if_false]

theorem Store.defineRegion_placed {b : Nat} (hs : st.find id = none) (hb : st.firstFit (ceilDiv n 64) = some b) :
    (st.defineRegion fs).store = st.define id kind n b := by
  simp only [Store.defineRegion, hi, hk, hn, h, Nat.not_le.2 hf, hs, hb, Option.isSome_none, Bool.false_eq_true, if_false]

end

/-- The extent of a region placed reads 0, and nothing outside it changes. -/
theorem Store.define_read (st : Store) (id : Nat) (kind : RegionKind) (n b : Nat) :
    (∀ a, b * 64 ≤ a → a < b * 64 + (n + 63) / 64 * 64 → Memory.read a (st.define id kind n b).mem = 0) ∧
    (∀ a, a < b * 64 ∨ b * 64 + (n + 63) / 64 * 64 ≤ a →
      Memory.read a (st.define id kind n b).mem = Memory.read a st.mem) :=
  ⟨fun a hlo hhi => (Memory.read_clear _ _ a st.mem).trans (if_pos ⟨hlo, hhi⟩),
    fun a ha => (Memory.read_clear _ _ a st.mem).trans
      (if_neg (fun h : b * 64 ≤ a ∧ a < b * 64 + (n + 63) / 64 * 64 => by omega))⟩

/-! ### DELETE_REGION (R116) -/

section
variable {st : Store} {u : Uses} {fs : Fields} {id : Nat} (hi : idField .region 1 fs = .val id)
include hi

theorem Store.deleteRegion_missing (hs : st.find id = none) :
    st.deleteRegion u fs = StoreAnswer.none st (.invalid [.region]) := by
  simp only [Store.deleteRegion, hi, hs, Option.isNone_none, if_true]

theorem Store.deleteRegion_inUse (hs : (st.find id).isSome) (hu : st.inUse u id = true) :
    st.deleteRegion u fs = StoreAnswer.none st (Reply.refuse .access) := by
  simp only [Store.deleteRegion, hi, Option.isNone_eq_false_iff.2 hs, hu, Bool.false_eq_true, if_false, if_true]

theorem Store.deleteRegion_ok (hs : (st.find id).isSome) (hu : st.inUse u id = false) :
    let st1 : Store := { st with regions := st.regions.filter (fun g => g.id != id) }
    st.deleteRegion u fs = { store := st1, reply := .plain .ok (fieldNat 1 2 st1.freeBlocks) } := by
  simp only [Store.deleteRegion, hi, Option.isNone_eq_false_iff.2 hs, hu, Bool.false_eq_true, if_false]

end

/-- An answer that changes nothing: the state entered, with its reply. -/
theorem takeRequest_store_none {s : State} {channel : Byte} {r : Req} {fs : Fields} (a : Link → Fields → State → StoreAnswer)
    {y : Reply} (ha : s.admits r.link channel = true) (hc : s.store.compaction = none)
    (hf : decodeFields r.payload = some fs) (hy : a r.link fs (s.entered channel r) = StoreAnswer.none s.store y) :
    s.takeRequest channel (unlessCompacting (onFields (fun l fs t => t.storeOutcome (a l fs t)))) r =
      (s.entered channel r).replied channel r y :=
  (takeRequest_store a ha hc hf hy).trans (congrArg (State.replied · channel r y) (s.entered_keeps_store channel r))

/-- Settles O48. -/
theorem regionsAreDefinedAndDeleted : Obligations.RegionsAreDefinedAndDeleted := by
  unfold Obligations.RegionsAreDefinedAndDeleted
  refine ⟨fun st n hn hin hsep => Store.firstFit_lowest hn hin hsep, fun r fs id s hfs hid hc _ => ⟨?define, ?delete⟩⟩
  case define =>
    intro ha kind n hkind hn
    have unchanged : ∀ {y : Reply}, s.store.defineRegion fs = StoreAnswer.none s.store y →
        exec (.defineRegion r) s = .next ((s.entered 0x40 r).replied 0x40 r y) := fun hy =>
      congrArg Host.Outcome.next (takeRequest_store_none (fun _ fs t => t.store.defineRegion fs) ha hc hfs
        (by rw [State.entered_store, hy]))
    refine ⟨fun hb => unchanged (Store.defineRegion_length hid hkind hn (badLength_true hb)), fun hlo hhi hodd => ?_⟩
    have hok := badLength_false hlo hhi hodd
    refine ⟨fun hf => unchanged (Store.defineRegion_full hid hkind hn hok hf),
      fun hf hs => unchanged (Store.defineRegion_taken hid hkind hn hok hf hs),
      fun hf hs hb => unchanged (Store.defineRegion_noSpace hid hkind hn hok hf hs hb), fun b hf hs hb => ?_⟩
    have hy : (s.store.defineRegion fs).store = s.store.define id kind n b :=
      Store.defineRegion_placed hid hkind hn hok hf hs hb
    obtain ⟨hzero, hrest⟩ := Store.define_read s.store id kind n b
    refine ⟨_, congrArg Host.Outcome.next (takeRequest_store (fun _ fs t => t.store.defineRegion fs) ha hc hfs
      (by rw [State.entered_store])), ?_⟩
    simp only [State.replied_store, State.replied_motors, State.replied_sensors, State.replied_mixer, State.replied_watch,
      State.replied_supply, hy, State.entered_motors, State.entered_sensors, State.entered_mixer, State.entered_watch,
      State.entered_supply, and_true]
    exact ⟨rfl, hzero, hrest, rfl⟩
  case delete =>
    intro ha hid'
    have unchanged : ∀ {y : Reply}, s.store.deleteRegion s.uses fs = StoreAnswer.none s.store y →
        exec (.deleteRegion r) s = .next ((s.entered 0x41 r).replied 0x41 r y) := fun hy =>
      congrArg Host.Outcome.next
        (takeRequest_store_none (fun _ fs t => t.store.deleteRegion t.uses fs) ha hc hfs (by rw [State.entered_store, State.entered_uses, hy]))
    exact ⟨fun hs => unchanged (Store.deleteRegion_missing hid' hs),
      fun hs hu => unchanged (Store.deleteRegion_inUse hid' hs hu),
      fun hs hu => congrArg Host.Outcome.next ((takeRequest_store
        (fun _ fs t => t.store.deleteRegion t.uses fs) ha hc hfs rfl).trans
        (by rw [State.entered_store, State.entered_uses, Store.deleteRegion_ok hid' hs hu]))⟩

end Sys2Proof.Machine
end

section
/-! The layout of a clip: SET_CLIP and SET_LOOP_START (R117, R137; 7.3, 11.5). -/

namespace Sys2Proof.Machine

/-! ### The checks of R117 -/

theorem badLoopStart_iff {l n : Nat} : badLoopStart l n = true ↔ (l ≠ 0 ∧ l ≤ n) ∨ (l = 0 ∧ n ≠ 0) := by
  by_cases hl : l = 0 <;> simp [badLoopStart, hl]

/-- The checks of a layout, each with the fields it reads. -/
theorem ClipFields.mem_checks {x : ClipFields} {fill : Nat} {d : Check} :
    d ∈ x.checks fill ↔
      (d = .rate ∧ ∃ q, x.rate = .val q ∧ q ≠ 8000 ∧ q ≠ 16000 ∧ q ≠ 22050) ∨
      (d = .layoutSum ∧ ∃ n, x.sum = .val n ∧ (n ≠ fill ∨ n = 0)) ∨
      (d = .loopStart ∧ ∃ l, x.loop = .val l ∧ ∃ n, x.loopStart = .val n ∧ badLoopStart l n = true) ∨
      (d = .loopShort ∧ ∃ l, x.loop = .val l ∧ 1 ≤ l ∧ l ≤ 63) ∨
      (d = .cueRange ∧ ∃ n, x.sum = .val n ∧ ∃ c, x.cue = .val c ∧ n ≤ c) ∨
      (d = .reverseLoop ∧ ∃ l, x.loop = .val l ∧ l ≠ 0 ∧ x.reverse.get? = some true) := by
  simp only [ClipFields.checks, List.mem_append, Val.mem_violates, Val.get_any, decide_eq_true_eq, Bool.and_eq_true,
    Bool.or_eq_true, bne_iff_ne, beq_iff_eq, or_assoc, and_assoc, ne_eq]

theorem ClipFields.sum_of {x : ClipFields} {h l t : Nat} (hh : x.head = .val h) (hl : x.loop = .val l)
    (ht : x.tail = .val t) : x.sum = .val (h + l + t) := by
  simp only [ClipFields.sum, hh, hl, ht]

theorem Val.get_eq_some {α : Type} {v : Val α} {a : α} : v.get? = some a ↔ v = .val a := by
  cases v <;> simp [Val.get?]

/-- R117: when each check fails. -/
theorem ClipFields.checks_spec (x : ClipFields) (fill : Nat) :
    (∀ q, x.rate = .val q → (Check.rate ∈ x.checks fill ↔ q ≠ 8000 ∧ q ≠ 16000 ∧ q ≠ 22050)) ∧
    (∀ h l t, x.head = .val h → x.loop = .val l → x.tail = .val t →
      (Check.layoutSum ∈ x.checks fill ↔ h + l + t ≠ fill ∨ h + l + t = 0) ∧
      (∀ n, x.loopStart = .val n → (Check.loopStart ∈ x.checks fill ↔ (l ≠ 0 ∧ l ≤ n) ∨ (l = 0 ∧ n ≠ 0))) ∧
      (x.loopStart = .absent → Check.loopStart ∉ x.checks fill) ∧
      (Check.loopShort ∈ x.checks fill ↔ 1 ≤ l ∧ l ≤ 63) ∧
      (∀ c, x.cue = .val c → (Check.cueRange ∈ x.checks fill ↔ h + l + t ≤ c)) ∧
      (x.cue = .absent → Check.cueRange ∉ x.checks fill) ∧
      (∀ d, x.reverse = .val d → (Check.reverseLoop ∈ x.checks fill ↔ d = true ∧ l ≠ 0)) ∧
      (x.reverse = .absent → Check.reverseLoop ∉ x.checks fill)) := by
  simp only [ClipFields.mem_checks, reduceCtorEq, false_and, false_or, or_false, true_and, Val.get_eq_some]
  refine ⟨fun q hq => Val.exists_val hq, fun h l t hh hl ht => ?_⟩
  have hs := ClipFields.sum_of hh hl ht
  refine ⟨Val.exists_val hs, fun n hn => ?_, fun hn => ?_, Val.exists_val hl, fun c hc => ?_, fun hc => ?_,
    fun d hd => ?_, fun hd => ?_⟩
  · rw [Val.exists_val hl, Val.exists_val hn, badLoopStart_iff]
  · simp [hn]
  · rw [Val.exists_val hs, Val.exists_val hc]
  · simp [hc]
  · rw [Val.exists_val hl, hd, Val.val.injEq, and_comm]
  · simp [hd]

/-! ### The fields of SET_CLIP -/

theorem ClipFields.missing_not_mem_checks {x : ClipFields} {fill : Nat} : Check.missingField ∉ x.checks fill := by
  simp [ClipFields.mem_checks]

theorem ClipFields.missing_of_absent {x : ClipFields}
    (h : x.rate = .absent ∨ x.head = .absent ∨ x.loop = .absent ∨ x.tail = .absent) :
    Check.missingField ∈ x.failures := by
  rcases h with h | h | h | h <;> simp [ClipFields.failures, h, Val.need]

/-- R174: MISSING_FIELD exactly when the rate or a length is absent. -/
theorem ClipFields.missing_mem {fs : Fields} {fill : Nat} :
    Check.missingField ∈ (ClipFields.read fs).failures ++ (ClipFields.read fs).checks fill ↔
      fieldValue 2 fs = none ∨ fieldValue 3 fs = none ∨ fieldValue 4 fs = none ∨ fieldValue 5 fs = none := by
  simp only [List.mem_append, ClipFields.missing_not_mem_checks, or_false, ClipFields.failures, ClipFields.read,
    Val.missing_mem_need natField_ne, Val.missing_not_mem_fails natField_ne, flagField,
    Val.missing_not_mem_fails enumField_ne, natField_absent_iff, or_assoc]

theorem flagField_one {k : Nat} {fs : Fields} (h : natField k fs = .val 1) : flagField k fs = .val true := by
  simp [flagField, enumField, h, flagOfCode]

theorem flagField_zero {k : Nat} {fs : Fields} (h : natField k fs = .val 0) : flagField k fs = .val false := by
  simp [flagField, enumField, h, flagOfCode]

/-- 7.3, 11.5: the layout of a request's fields. -/
theorem ClipFields.layout_spec (fs : Fields) :
    let y := (ClipFields.read fs).layout
    (∀ n, natField 2 fs = .val n → y.rate = n) ∧ (∀ n, natField 3 fs = .val n → y.head = n) ∧
    (∀ n, natField 4 fs = .val n → y.loop = n) ∧ (∀ n, natField 5 fs = .val n → y.tail = n) ∧
    (∀ n, natField 6 fs = .val n → y.loopStart = n) ∧ (fieldValue 6 fs = none → y.loopStart = 0) ∧
    (∀ n, natField 7 fs = .val n → y.cue = some n) ∧ (fieldValue 7 fs = none → y.cue = none) ∧
    (natField 8 fs = .val 1 → y.reverse = true) ∧
    (natField 8 fs = .val 0 ∨ fieldValue 8 fs = none → y.reverse = false) := by
  refine ⟨fun n => Val.getD_val, fun n => Val.getD_val, fun n => Val.getD_val, fun n => Val.getD_val,
    fun n => Val.getD_val, fun h => Val.getD_absent (natField_absent h), fun n h => Val.get_eq_some.2 h, fun h => ?_,
    fun h => Val.getD_val (flagField_one h), fun h => ?_⟩
  · simp [ClipFields.layout, ClipFields.read, natField_absent h, Val.get?]
  · rcases h with h | h
    · exact Val.getD_val (flagField_zero h)
    · exact Val.getD_absent (enumField_absent_iff.2 h)

/-! ### SET_CLIP (R117) -/

section
variable {st : Store} {u : Uses} {fs : Fields} {id : Nat} {g : Region} (hi : idField .region 1 fs = .val id)
  (hg : st.find id = some g)
include hi hg

theorem Store.setClip_capture (hk : g.kind = .capture) :
    st.setClip u fs = StoreAnswer.none st (.invalid [.kind]) := by
  simp only [Store.setClip, hi, hg, hk, if_true]

theorem Store.setClip_held (hk : g.kind = .clip) (h : g.ready = false ∨ u.voice id = true ∨ st.windowOn id = true) :
    st.setClip u fs = StoreAnswer.none st (Reply.refuse .access) := by
  have hb : (!g.ready || u.voice id || st.windowOn id) = true := by
    simpa [or_assoc] using h
  simp only [Store.setClip, hi, hg, hk, hb, reduceCtorEq, if_false, if_true]

section
variable (hk : g.kind = .clip) (hr : g.ready = true) (hv : u.voice id = false) (hw : st.windowOn id = false)
include hk hr hv hw

theorem Store.setClip_bad (hb : (ClipFields.read fs).failures ++ (ClipFields.read fs).checks g.fill ≠ []) :
    st.setClip u fs =
      StoreAnswer.none st (.invalid ((ClipFields.read fs).failures ++ (ClipFields.read fs).checks g.fill)) := by
  simp only [Store.setClip, hi, hg, hk, hr, hv, hw, reduceCtorEq, if_false, Bool.not_true, Bool.or_self,
    Bool.false_eq_true, if_pos hb]

theorem Store.setClip_ok (hb : (ClipFields.read fs).failures ++ (ClipFields.read fs).checks g.fill = []) :
    st.setClip u fs =
      { store := st.update id (fun y => { y with layout := some (ClipFields.read fs).layout }), reply := Reply.ok } := by
  simp only [Store.setClip, hi, hg, hk, hr, hv, hw, reduceCtorEq, if_false, Bool.not_true, Bool.or_self,
    Bool.false_eq_true, hb, ne_eq, not_true_eq_false]

end

/-! ### SET_LOOP_START (R137) -/

variable {n : Nat} {y : Layout} (hn : natField 2 fs = .val n) (hk : g.kind = .clip) (hy : g.layout = some y)
include hn hk hy

theorem Store.setLoopStart_bad (hb : badLoopStart y.loop n = true) :
    st.setLoopStart fs = StoreAnswer.none st (.invalid [.loopStart]) := by
  simp only [Store.setLoopStart, hi, hn, hg, hk, hy, hb, reduceCtorEq, if_false, if_true]

theorem Store.setLoopStart_ok (hb : badLoopStart y.loop n = false) :
    st.setLoopStart fs =
      { store := st.update id (fun z => { z with layout := some { y with loopStart := n } }), reply := Reply.ok } := by
  simp only [Store.setLoopStart, hi, hn, hg, hk, hy, hb, reduceCtorEq, if_false, Bool.false_eq_true]

end

/-- Settles O49. -/
theorem clipLayoutsAreWritten : Obligations.ClipLayoutsAreWritten := by
  unfold Obligations.ClipLayoutsAreWritten
  refine ⟨fun x fill => ⟨(x.checks_spec fill).1, (x.checks_spec fill).2, ClipFields.missing_of_absent⟩,
    fun fs fill => ⟨rfl, rfl, rfl, rfl, rfl, rfl, rfl, ClipFields.missing_mem, ClipFields.layout_spec fs⟩,
    fun r fs id g s hfs hid hc hg => ⟨?clip, ?loop⟩⟩
  case clip =>
    intro ha
    have unchanged : ∀ {y : Reply}, s.store.setClip s.uses fs = StoreAnswer.none s.store y →
        exec (.setClip r) s = .next ((s.entered 0x42 r).replied 0x42 r y) := fun hy =>
      congrArg Host.Outcome.next (takeRequest_store_none (fun _ fs t => t.store.setClip t.uses fs) ha hc hfs
        (by rw [State.entered_store, State.entered_uses, hy]))
    exact ⟨fun hk => unchanged (Store.setClip_capture hid hg hk),
      fun hk h => unchanged (Store.setClip_held hid hg hk h),
      fun hk hr hv hw hb => unchanged (Store.setClip_bad hid hg hk hr hv hw hb),
      fun hk hr hv hw hb => congrArg Host.Outcome.next
        ((takeRequest_store (fun _ fs t => t.store.setClip t.uses fs) ha hc hfs rfl).trans
          (by rw [State.entered_store, State.entered_uses, Store.setClip_ok hid hg hk hr hv hw hb]))⟩
  case loop =>
    intro ha n y hn hk hy
    refine ⟨fun hb => ?_, fun hb => ?_⟩
    · have hbad : badLoopStart y.loop n = true := badLoopStart_iff.2 hb.symm
      exact congrArg Host.Outcome.next (takeRequest_store_none (fun _ fs t => t.store.setLoopStart fs) ha hc hfs
        (by rw [State.entered_store, Store.setLoopStart_bad hid hg hn hk hy hbad]))
    · have hbad : badLoopStart y.loop n = false := by
        rw [Bool.eq_false_iff, ne_eq, badLoopStart_iff]
        omega
      exact congrArg Host.Outcome.next
        ((takeRequest_store (fun _ fs t => t.store.setLoopStart fs) ha hc hfs rfl).trans
          (by rw [State.entered_store, Store.setLoopStart_ok hid hg hn hk hy hbad]))

end Sys2Proof.Machine
end

section
/-! The content of a region: the upload window (R119 to R121, R126) and READ_REGION (R123). -/

namespace Sys2Proof.Machine

/-! ### WRITE_START (R119) -/

section
variable {st : Store} {u : Uses} {l : Link} {fs : Fields} {id o : Nat} {md : WriteMode} {g : Region}
  (hi : idField .region 1 fs = .val id) (ho : natField 2 fs = .val o)
  (hm : enumFieldAs .mode 3 writeModeOfCode fs = .val md) (hg : st.find id = some g)
include hi ho hm hg

theorem Store.writeStart_open (hw : st.window ≠ none) :
    st.writeStart u l fs = StoreAnswer.none st (Reply.refuse .busy) := by
  simp only [Store.writeStart, hi, ho, hm, hg, Option.isSome_iff_ne_none.2 hw, if_true]

variable (hw : st.window = none)
include hw

theorem Store.writeStart_held (h : g.kind = .capture ∨ u.voice id = true) :
    st.writeStart u l fs = StoreAnswer.none st (Reply.refuse .access) := by
  have hb : (g.kind == .capture || u.voice id) = true := by simpa using h
  simp only [Store.writeStart, hi, ho, hm, hg, hw, hb, Option.isSome_none, Bool.false_eq_true, if_false, if_true]

variable (hk : g.kind = .clip) (hv : u.voice id = false)
include hk hv

theorem Store.writeStart_offset (h : g.length ≤ o) :
    st.writeStart u l fs = StoreAnswer.none st (.invalid [.offset]) := by
  have hb : (g.kind == .capture || u.voice id) = false := by simp [hk, hv]
  simp only [Store.writeStart, hi, ho, hm, hg, hw, hb, Option.isSome_none, Bool.false_eq_true, if_false, if_pos h]

theorem Store.writeStart_ok (h : o < g.length) :
    st.writeStart u l fs =
      { store := { st.update id (fun y => { y with ready := false, layout := none }) with
                   window := some { region := id, owner := l, mode := md, cursor := o, accepted := 0 } },
        reply := .plain .ok (fieldNat 1 4 g.length ++ fieldNat 2 4 g.fill) } := by
  have hb : (g.kind == .capture || u.voice id) = false := by simp [hk, hv]
  simp only [Store.writeStart, hi, ho, hm, hg, hw, hb, Option.isSome_none, Bool.false_eq_true, if_false,
    if_neg (Nat.not_le.2 h)]

end

/-! ### WRITE_DATA (R120) -/

section
variable {st : Store} {l : Link} {data : List Byte}

theorem Store.writeData_empty : st.writeData l [] = StoreAnswer.none st (Reply.refuse .length) := if_pos rfl

variable (hd : data ≠ [])
include hd

theorem Store.writeData_closed (hw : st.window = none) :
    st.writeData l data = StoreAnswer.none st (Reply.refuse .busy) := by
  simp only [Store.writeData, if_neg hd, hw]

variable {w : Window} (hw : st.window = some w)
include hw

theorem Store.writeData_foreign (ho : w.owner ≠ l) :
    st.writeData l data = StoreAnswer.none st (Reply.refuse .access) := by
  simp only [Store.writeData, if_neg hd, hw, if_pos ho]

theorem Store.writeData_owner {g : Region} (ho : w.owner = l) (hg : st.find w.region = some g) :
    let x := uploadBytes g.base g.length w.mode data { mem := st.mem, cursor := w.cursor, fill := g.fill, written := 0 }
    let info := fieldNat 1 1 x.written ++ fieldNat 2 4 x.cursor
    st.writeData l data =
      { store := { st.update w.region (fun r => { r with fill := x.fill }) with
                   mem := x.mem,
                   window := some { w with cursor := x.cursor, accepted := addCount w.accepted x.written } },
        reply := if x.written = data.length then .plain .ok info else .clamped [1] info } := by
  simp only [Store.writeData, if_neg hd, hw, ho, hg, ne_eq, not_true_eq_false, if_false]

end

theorem addCount_of_lt {n k : Nat} (h : n + k < 4294967296) : addCount n k = n + k := if_pos h

/-- The reply of a WRITE_DATA: CLAMPED, naming the count, when bytes were dropped. -/
theorem writeReply_payload (b : Prop) [Decidable b] (info : List Byte) :
    (if b then Reply.plain .ok info else .clamped [1] info).payload =
      (if b then [byte 0] else [byte 1, byte 1, byte 1]) ++ info := by
  split <;> rfl

/-! ### WRITE_END (R121) -/

section
variable {st : Store} {l : Link}

theorem Store.writeEnd_closed (hw : st.window = none) :
    st.writeEnd l = StoreAnswer.none st (Reply.refuse .busy) := by
  simp only [Store.writeEnd, hw]

variable {w : Window} (hw : st.window = some w)
include hw

theorem Store.writeEnd_foreign (ho : w.owner ≠ l) :
    st.writeEnd l = StoreAnswer.none st (Reply.refuse .access) := by
  simp only [Store.writeEnd, hw, if_pos ho]

theorem Store.writeEnd_owner {g : Region} (ho : w.owner = l) (hg : st.find w.region = some g) :
    st.writeEnd l =
      { store := { st.update w.region (fun r => { r with ready := true }) with window := none },
        reply := .plain .ok (fieldNat 1 4 g.fill ++ fieldNat 2 4 w.accepted) } := by
  simp only [Store.writeEnd, hw, ho, hg, ne_eq, not_true_eq_false, if_false, Option.map_some, Option.getD_some]

end

/-! ### READ_REGION (R123) -/

theorem Memory.getD_slice {a n i : Nat} (m : Memory) (h : i < n) :
    (Memory.slice a n m).getD i 0 = Memory.read (a + i) m := by
  simp [Memory.slice, List.getD_eq_getElem?_getD, h]

theorem Store.readRegion_of {st : Store} {fs : Fields} {id o n : Nat} {g : Region}
    (hi : idField .region 1 fs = .val id) (ho : natField 2 fs = .val o) (hn : natField 3 fs = .val n)
    (h1 : 1 ≤ n) (h2 : n ≤ 240) (hg : st.find id = some g) :
    st.readRegion fs = StoreAnswer.none st (st.readReply g o n) := by
  have hc : (natField 3 fs).check .count (fun n => if 1 ≤ n ∧ n ≤ 240 then some n else none) = .val n := by
    rw [hn, Val.check_val, if_pos ⟨h1, h2⟩]
  simp only [Store.readRegion, hi, ho, hc, hg]

/-! ### The requests -/

section
variable {s : State} {channel : Byte} {r : Req} (hc : s.store.compaction = none)
include hc

/-- A request of the store without tagged fields. -/
theorem takeRequest_storeRaw {h : Handler} {y : StoreAnswer} (ha : s.admits r.link channel = true)
    (hy : h r (s.entered channel r) = answered ((s.entered channel r).storeOutcome y)) :
    s.takeRequest channel (unlessCompacting h) r =
      State.replied { s.entered channel r with store := y.store } channel r y.reply :=
  (takeRequest_idle h ha hc).trans (takeRequest_answered ha hy)

theorem takeRequest_storeRaw_none {h : Handler} {y : Reply} (ha : s.admits r.link channel = true)
    (hy : h r (s.entered channel r) = answered ((s.entered channel r).storeOutcome (StoreAnswer.none s.store y))) :
    s.takeRequest channel (unlessCompacting h) r = (s.entered channel r).replied channel r y :=
  (takeRequest_storeRaw hc ha hy).trans (congrArg (State.replied · channel r y) (s.entered_keeps_store channel r))

theorem takeRequest_writeData {y : StoreAnswer} (hp : s.supply.power ≠ .critical) (ha : s.admits r.link 0x44 = true)
    (hy : s.store.writeData r.link r.payload = y) :
    s.takeRequest 0x44 handleWriteData r = State.replied { s.entered 0x44 r with store := y.store } 0x44 r y.reply :=
  takeRequest_storeRaw hc ha (by rw [State.entered_supply, if_neg hp, State.entered_store, hy])

theorem takeRequest_writeData_none {y : Reply} (hp : s.supply.power ≠ .critical) (ha : s.admits r.link 0x44 = true)
    (hy : s.store.writeData r.link r.payload = StoreAnswer.none s.store y) :
    s.takeRequest 0x44 handleWriteData r = (s.entered 0x44 r).replied 0x44 r y :=
  takeRequest_storeRaw_none hc ha (by rw [State.entered_supply, if_neg hp, State.entered_store, hy])

/-- R120: the bytes of the window's owner are uploaded, the store, the window and the reply as they say. -/
theorem exec_writeData_owner {w : Window} {g : Region} (ha : s.admits r.link 0x44 = true)
    (hp : s.supply.power ≠ .critical) (hd : r.payload ≠ []) (hw : s.store.window = some w) (ho : w.owner = r.link)
    (hg : s.store.find w.region = some g) :
    let x := uploadBytes g.base g.length w.mode r.payload
      { mem := s.store.mem, cursor := w.cursor, fill := g.fill, written := 0 }
    ∃ t, exec (.writeData r) s = .next t ∧ t.store.mem = x.mem ∧
      t.store.window = some { w with cursor := x.cursor, accepted := addCount w.accepted x.written } ∧
      t.store.regions = (s.store.update w.region (fun y => { y with fill := x.fill })).regions ∧
      t.motors = s.motors ∧ t.mixer = s.mixer ∧ t.sensors = s.sensors ∧ t.watch = s.watch ∧ t.supply = s.supply ∧
      (r.cls = .ask → (t.router.link r.link).replies = (s.router.link r.link).replies ++
        [replyFrame 0x44 r.tag ((if x.written = r.payload.length then [byte 0] else [byte 1, byte 1, byte 1]) ++
          (fieldNat 1 1 x.written ++ fieldNat 2 4 x.cursor))]) := by
  intro x
  refine ⟨_, congrArg Host.Outcome.next (takeRequest_writeData hc hp ha (Store.writeData_owner hd hw ho hg)), ?_⟩
  simp only [State.replied_store, State.replied_motors, State.replied_sensors, State.replied_mixer, State.replied_watch,
    State.replied_supply, State.entered_motors, State.entered_sensors, State.entered_mixer, State.entered_watch,
    State.entered_supply, true_and]
  refine ⟨rfl, rfl, rfl, fun hask => ?_⟩
  rw [State.replied_replies _ _ _ _ hask, writeReply_payload]
  exact congrArg (· ++ _) (State.entered_replies s 0x44 r r.link)

end

/-- Settles O50. -/
theorem regionContentIsWrittenAndRead : Obligations.RegionContentIsWrittenAndRead := by
  unfold Obligations.RegionContentIsWrittenAndRead
  refine ⟨fun r s hc => ⟨?start, fun ha hp => ?critical,
    fun ha hp hd => congrArg Host.Outcome.next (takeRequest_writeData_none hc hp ha (by rw [hd, Store.writeData_empty])),
    fun ha hp hd hw => congrArg Host.Outcome.next (takeRequest_writeData_none hc hp ha (Store.writeData_closed hd hw)),
    ?owner,
    fun w ha hp hd hw ho =>
      congrArg Host.Outcome.next (takeRequest_writeData_none hc hp ha (Store.writeData_foreign hd hw ho)),
    fun ha hw => ?endClosed, fun w ha hw ho => ?endForeign, fun w g ha hw ho hg => ?endOwner⟩, ?read⟩
  case start =>
    intro fs id o md g ha hfs hi ho hm hg
    have unchanged : ∀ {y : Reply}, s.store.writeStart s.uses r.link fs = StoreAnswer.none s.store y →
        exec (.writeStart r) s = .next ((s.entered 0x43 r).replied 0x43 r y) := fun hy =>
      congrArg Host.Outcome.next (takeRequest_store_none (fun l fs t => t.store.writeStart t.uses l fs) ha hc hfs
        (by rw [State.entered_store, State.entered_uses, hy]))
    exact ⟨fun hw => unchanged (Store.writeStart_open hi ho hm hg hw),
      fun hw h => unchanged (Store.writeStart_held hi ho hm hg hw h),
      fun hw hk hv h => unchanged (Store.writeStart_offset hi ho hm hg hw hk hv h),
      fun hw hk hv h => congrArg Host.Outcome.next
        ((takeRequest_store (fun l fs t => t.store.writeStart t.uses l fs) ha hc hfs rfl).trans
          (by rw [State.entered_store, State.entered_uses, Store.writeStart_ok hi ho hm hg hw hk hv h]))⟩
  case critical =>
    exact congrArg Host.Outcome.next ((takeRequest_idle _ ha hc).trans
      ((takeRequest_of_admits _ ha).trans (by rw [State.entered_supply, if_pos hp]; rfl)))
  case owner =>
    intro w g ha hp hd hw ho hg hm hcur hlen
    obtain ⟨t, ht, hmem, hwin, hreg, hmot, hmix, hsen, hwat, hsup, hrep⟩ := exec_writeData_owner hc ha hp hd hw ho hg
    refine ⟨fun hmode => ?_, fun hmode hlt => ?_⟩
    · have hx := uploadBytes_truncate hlen r.payload
        { mem := s.store.mem, cursor := w.cursor, fill := g.fill, written := 0 } hcur hm
      rw [← hmode] at hx
      obtain ⟨hwr, hcu, hfi, -, hin, hout⟩ := hx
      simp only [Nat.zero_add] at hwr
      rw [hwr, hcu] at hwin hrep
      rw [hfi] at hreg
      rw [← hmem] at hin hout
      exact ⟨t, ht, hin, hout, ⟨hwin, addCount_of_lt, hreg, hmot, hmix, hsen, hwat, hsup⟩, hrep⟩
    · have hx := uploadBytes_wrap hlen r.payload
        { mem := s.store.mem, cursor := w.cursor, fill := g.fill, written := 0 } hlt hm
      rw [← hmode] at hx
      obtain ⟨hwr, hcu, hfi, -, hin, hout⟩ := hx
      simp only [Nat.zero_add] at hwr
      rw [hwr, hcu] at hwin hrep
      rw [hfi hd] at hreg
      rw [← hmem] at hin hout
      rw [if_pos rfl] at hrep
      exact ⟨t, ht, hin, hout, ⟨hwin, addCount_of_lt, hreg, hmot, hmix, hsen, hwat, hsup⟩, hrep⟩
  case endClosed =>
    exact congrArg Host.Outcome.next (takeRequest_storeRaw_none hc ha
      (by rw [State.entered_store, Store.writeEnd_closed hw]))
  case endForeign =>
    exact congrArg Host.Outcome.next (takeRequest_storeRaw_none hc ha
      (by rw [State.entered_store, Store.writeEnd_foreign hw ho]))
  case endOwner =>
    exact congrArg Host.Outcome.next ((takeRequest_storeRaw hc ha rfl).trans
      (by rw [State.entered_store, Store.writeEnd_owner hw ho hg]))
  case read =>
    intro r fs id o n g s ha hc hfs hi ho hn h1 h2 hg
    refine ⟨Memory.slice (g.base + o) (min (readable g o n) 232) s.store.mem, Memory.length_slice _ _ _,
      fun i h => Memory.getD_slice _ h, ?_⟩
    exact congrArg Host.Outcome.next (takeRequest_store_none (fun _ fs t => t.store.readRegion fs) ha hc hfs
      (by rw [State.entered_store, Store.readRegion_of hi ho hn h1 h2 hg]; rfl))

end Sys2Proof.Machine
end

section
/-! Compaction: the copies of its plan and its end (R124, R125). -/

namespace Sys2Proof.Machine

/-! ### Copying bytes -/

/-- Bytes with distinct addresses written at their places behind `dst`: each address reads its byte where there is one. -/
theorem Memory.read_foldl_write {src dst n : Nat} (hdst : dst + n ≤ storeSize) (x : Nat) (cs : Memory) {lo : Nat}
    (hcs : Memory.wfFrom lo cs = true) (hin : ∀ c ∈ cs, src ≤ c.1 ∧ c.1 < src + n) {m : Memory}
    (hm : Memory.wf m = true) :
    Memory.read x (cs.foldl (fun acc c => Memory.write (c.1 - src + dst) c.2 acc) m) =
      if dst ≤ x ∧ Memory.read (x - dst + src) cs ≠ 0 then Memory.read (x - dst + src) cs else Memory.read x m := by
  induction cs generalizing lo m with
  | nil => simp [Memory.read]
  | cons c cs ih =>
    obtain ⟨k, b⟩ := c
    obtain ⟨-, -, hb, hrest⟩ := (Memory.wfFrom_cons lo k b cs).1 hcs
    obtain ⟨hlo, hhi⟩ := hin (k, b) List.mem_cons_self
    simp only at hlo hhi
    rw [List.foldl_cons, ih hrest (fun c hc => hin c (List.mem_cons_of_mem _ hc)) (Memory.write_wf _ _ hm),
      Memory.read_write _ _ _ hm]
    by_cases hk : dst ≤ x ∧ k = x - dst + src
    · obtain ⟨hx, hk⟩ := hk
      have hbelow : Memory.read (x - dst + src) cs = 0 := Memory.read_below (by omega) hrest
      rw [hbelow, if_neg (by simp), if_pos ⟨by omega, by omega⟩, Memory.read, if_pos hk, if_pos ⟨hx, hb⟩]
    · have hx : ¬(x = k - src + dst ∧ k - src + dst < storeSize) := by omega
      rw [if_neg hx]
      by_cases hd : dst ≤ x
      · rw [Memory.read, if_neg (fun h => hk ⟨hd, h⟩)]
      · simp only [hd, false_and, if_false]

/-- R124: the bytes from `dst` on read what those from `src` on read before, also where the two overlap. -/
theorem Memory.read_copy {src dst n : Nat} (hdst : dst + n ≤ storeSize) (x : Nat) {m : Memory}
    (hm : Memory.wf m = true) :
    Memory.read x (Memory.copy src dst n m) =
      if dst ≤ x ∧ x < dst + n then Memory.read (x - dst + src) m else Memory.read x m := by
  have hin : ∀ c ∈ m.filter (fun c => inRange src n c.1), src ≤ c.1 ∧ c.1 < src + n := by
    intro c hc
    simpa [inRange] using (List.mem_filter.1 hc).2
  rw [Memory.copy, Memory.read_foldl_write hdst x _ (Memory.filter_wf _ hm) hin (Memory.clear_wf _ _ hm),
    Memory.read_filter (fun a => inRange src n a), Memory.read_clear]
  by_cases h : dst ≤ x ∧ x < dst + n
  · have hr : inRange src n (x - dst + src) = true := by
      simp only [inRange, Bool.and_eq_true, decide_eq_true_eq]
      omega
    rw [hr, if_pos h, if_pos h, if_pos rfl]
    split
    · rfl
    next h0 => exact (not_not.1 (fun hne => h0 ⟨h.1, hne⟩)).symm
  · rw [if_neg h, if_neg h]
    by_cases hd : dst ≤ x
    · have hr : inRange src n (x - dst + src) = false := by
        simp only [inRange, Bool.and_eq_false_iff, decide_eq_false_iff_not]
        omega
      simp [hr]
    · simp [hd]

/-! ### The plan of a table (R124) -/

/-- The bytes the extent of the `n`-th region takes. -/
def sizeAt (gs : List Region) (n : Nat) : Nat := (gs.map (fun g => (g.length + 63) / 64 * 64)).getD n 0

/-- The bytes of the extents before the `n`-th region. -/
def placeAt (gs : List Region) (n : Nat) : Nat := ((List.range n).map (sizeAt gs)).sum

/-- Whether the `n`-th region moves, the table packed from `next` on. -/
def movesAt (next : Nat) (gs : List Region) (n : Nat) : Bool := (gs.map (fun g => g.base)).getD n 0 != next + placeAt gs n

/-- The bytes copied up to and with the `n`-th region. -/
def copiedAt (next : Nat) (gs : List Region) (n : Nat) : Nat :=
  (((List.range (n + 1)).filter (movesAt next gs)).map (sizeAt gs)).sum

/-- The move of the `n`-th region, `moved` bytes copied before the table's first. -/
def moveAt (next moved : Nat) (gs : List Region) (n : Nat) : RegionMove :=
  { region := (gs.map (fun g => g.id)).getD n 0, base := next + placeAt gs n,
    due := 1 + (moved + copiedAt next gs n + 4095) / 4096 }

section
variable (next moved : Nat) (g : Region) (gs : List Region) (n : Nat)

theorem placeAt_cons_succ : placeAt (g :: gs) (n + 1) = g.extent * 64 + placeAt gs n := by
  rw [placeAt, List.range_succ_eq_map, List.map_cons, List.sum_cons, List.map_map]
  rfl

theorem movesAt_cons_zero : movesAt next (g :: gs) 0 = (g.base != next) := rfl

theorem movesAt_cons_succ : movesAt next (g :: gs) (n + 1) = movesAt (next + g.extent * 64) gs n := by
  rw [movesAt, placeAt_cons_succ, ← Nat.add_assoc]
  rfl

theorem copiedAt_cons_zero :
    copiedAt next (g :: gs) 0 = if g.base = next then 0 else g.extent * 64 := by
  have hr : List.range (0 + 1) = [0] := rfl
  rw [copiedAt, hr, List.filter_cons, movesAt_cons_zero, List.filter_nil]
  by_cases h : g.base = next
  · rw [if_neg (by simp [h]), if_pos h]
    rfl
  · rw [if_pos (by simp [h]), if_neg h, List.map_singleton, List.sum_singleton]
    rfl

theorem copiedAt_cons_succ :
    copiedAt next (g :: gs) (n + 1) =
      (if g.base = next then 0 else g.extent * 64) + copiedAt (next + g.extent * 64) gs n := by
  have hm : (movesAt next (g :: gs)) ∘ Nat.succ = movesAt (next + g.extent * 64) gs :=
    funext (movesAt_cons_succ next g gs)
  have hs : sizeAt (g :: gs) ∘ Nat.succ = sizeAt gs := rfl
  rw [copiedAt, List.range_succ_eq_map, List.filter_cons, movesAt_cons_zero, List.filter_map, hm]
  by_cases h : g.base = next
  · rw [if_neg (by simp [h]), if_pos h, Nat.zero_add, List.map_map, hs]
    rfl
  · rw [if_pos (by simp [h]), if_neg h, List.map_cons, List.sum_cons, List.map_map, hs]
    rfl

theorem moveAt_cons_succ :
    moveAt next moved (g :: gs) (n + 1) =
      moveAt (next + g.extent * 64) (moved + if g.base = next then 0 else g.extent * 64) gs n := by
  rw [moveAt, placeAt_cons_succ, copiedAt_cons_succ, ← Nat.add_assoc, ← Nat.add_assoc]
  rfl

end

/-- R124: the plan moves every region that does not lie right behind those before it. -/
theorem compactPlan_eq (next moved : Nat) (gs : List Region) :
    compactPlan next moved gs =
      ((List.range gs.length).filter (movesAt next gs)).map (moveAt next moved gs) := by
  induction gs generalizing next moved with
  | nil => rfl
  | cons g gs ih =>
    have hm : (movesAt next (g :: gs)) ∘ Nat.succ = movesAt (next + g.extent * 64) gs :=
      funext (movesAt_cons_succ next g gs)
    have hv : moveAt next moved (g :: gs) ∘ Nat.succ =
        moveAt (next + g.extent * 64) (moved + if g.base = next then 0 else g.extent * 64) gs :=
      funext (moveAt_cons_succ next moved g gs)
    rw [compactPlan, List.length_cons, List.range_succ_eq_map, List.filter_cons, movesAt_cons_zero, List.filter_map, hm]
    by_cases h : g.base = next
    · rw [if_pos h, if_neg (by simp [h]), List.map_map, hv, if_pos h, ih]
      rfl
    · rw [if_neg h, if_pos (by simp [h]), List.map_cons, List.map_map, hv, if_neg h, ih]
      refine congrArg₂ List.cons ?_ rfl
      rw [moveAt, copiedAt_cons_zero, if_neg h, ceilDiv, Nat.add_sub_assoc (by decide)]
      rfl

theorem planDue_append (plan : List RegionMove) (mv : RegionMove) : planDue (plan ++ [mv]) = mv.due := by
  simp [planDue, List.foldl_append]

/-! ### COMPACT, its copies and its end (R124) -/

section
variable {st : Store} {u : Uses} {p : PowerState}

theorem Store.compactRefusal_power : st.compactRefusal u .critical = some .power := if_pos rfl

variable (hp : p ≠ .critical)
include hp

theorem Store.compactRefusal_access (h : st.window ≠ none ∨ ∃ g ∈ st.regions, st.inUse u g.id = true) :
    st.compactRefusal u p = some .access := by
  have hb : (st.window.isSome || st.regions.any (fun r => st.inUse u r.id)) = true := by
    simpa [Option.isSome_iff_ne_none] using h
  rw [Store.compactRefusal, if_neg hp, if_pos hb]

theorem Store.compactRefusal_none (hw : st.window = none) (h : ∀ g ∈ st.regions, st.inUse u g.id = false) :
    st.compactRefusal u p = none := by
  have hb : ¬(st.window.isSome || st.regions.any (fun r => st.inUse u r.id)) = true := by
    simpa [hw] using h
  rw [Store.compactRefusal, if_neg hp, if_neg hb]

end

section
variable {s : State} {r : Req} (ha : s.admits r.link 0x47 = true) (hc : s.store.compaction = none)
include ha hc

theorem takeRequest_compact_refused {y : Status} (h : s.store.compactRefusal s.uses s.supply.power = some y) :
    s.takeRequest 0x47 handleCompact r = (s.entered 0x47 r).replied 0x47 r (Reply.refuse y) :=
  (takeRequest_idle _ ha hc).trans ((takeRequest_of_admits _ ha).trans
    (by rw [State.entered_store, State.entered_uses, State.entered_supply, h]; rfl))

theorem takeRequest_compact_begins (h : s.store.compactRefusal s.uses s.supply.power = none) :
    s.takeRequest 0x47 handleCompact r =
      { s.entered 0x47 r with
          store := s.store.beginCompaction (if r.cls = .ask then some (r.link, r.tag) else none) } :=
  (takeRequest_idle _ ha hc).trans ((takeRequest_of_admits _ ha).trans
    (by rw [State.entered_store, State.entered_uses, State.entered_supply, h]
        simp only [State.finish, State.entered_supply]))

end

section
variable {st : Store} {k : Compaction} (hc : st.compaction = some k)
include hc

theorem Store.regionCopied_due {mv : RegionMove} {rest : List RegionMove} (hplan : k.plan = mv :: rest)
    (hdue : mv.due ≤ k.elapsed) :
    st.regionCopied =
      { st.applyMove mv with compaction := if k.soft then none else some { k with plan := rest } } := by
  simp only [Store.regionCopied, hc, hplan, if_pos hdue]

theorem Store.compactComplete_due (hplan : k.plan = []) (hdue : k.due ≤ k.elapsed) (hsoft : k.soft = false) :
    st.compactComplete =
      ({ st with compaction := none }, k.asker.map (fun a => (a.1, a.2, st.compactReply k))) := by
  simp only [Store.compactComplete, hc, if_pos (And.intro hplan (And.intro hdue hsoft))]

end

theorem Store.applyMove_of {st : Store} {mv : RegionMove} {g : Region} (hg : st.find mv.region = some g) :
    st.applyMove mv =
      { st.update mv.region (fun y => { y with base := mv.base }) with
        mem := Memory.copy g.base mv.base (g.extent * 64) st.mem } := by
  simp only [Store.applyMove, hg]

/-- R124: the ASK of a compaction that ends is answered, a TELL is not. -/
theorem State.compactComplete_due {s : State} {k : Compaction} (hc : s.store.compaction = some k) (hplan : k.plan = [])
    (hdue : k.due ≤ k.elapsed) (hsoft : k.soft = false) :
    s.compactComplete =
      (k.asker.elim { s with store := { s.store with compaction := none } }
        (fun a => State.answer { s with store := { s.store with compaction := none } } a.1 0x47 a.2
          (s.store.compactReply k))) := by
  rw [State.compactComplete, Store.compactComplete_due hc hplan hdue hsoft]
  cases k.asker <;> rfl

/-- Settles O51. -/
theorem compactionMovesTheRegions : Obligations.CompactionMovesTheRegions := by
  unfold Obligations.CompactionMovesTheRegions
  refine fun r s => ⟨fun ha hc hp => ?power, fun ha hc hp h => ?access, fun ha hc hp hw h => ?begins, ?copied, ?complete,
    fun hc => ?busy, fun gs => ?plan, rfl, planDue_append⟩
  case power =>
    exact congrArg Host.Outcome.next
      (takeRequest_compact_refused ha hc (by rw [hp, Store.compactRefusal_power]))
  case access =>
    exact congrArg Host.Outcome.next (takeRequest_compact_refused ha hc (Store.compactRefusal_access hp h))
  case begins =>
    exact congrArg Host.Outcome.next (takeRequest_compact_begins ha hc (Store.compactRefusal_none hp hw h))
  case copied =>
    intro k mv rest g hs hc hplan hdue hg hm hlen
    have hst : s.store.regionCopied = _ := Store.regionCopied_due hc hplan hdue
    rw [Store.applyMove_of hg] at hst
    refine ⟨_, next_whenAwake hs rfl, ?_⟩
    rw [hst]
    refine ⟨fun i hi => ?_, fun a ha => ?_, rfl, rfl, rfl, rfl⟩
    · refine (Memory.read_copy hlen _ hm).trans ?_
      rw [if_pos (by omega)]
      congr 1
      omega
    · exact (Memory.read_copy hlen _ hm).trans (if_neg (by omega))
  case complete =>
    intro k hs hc hplan hdue hsoft
    have ht := State.compactComplete_due hc hplan hdue hsoft
    cases ha : k.asker with
    | none =>
      rw [ha] at ht
      exact ⟨_, next_whenAwake hs ht, rfl, rfl, rfl, fun _ => rfl, nofun⟩
    | some a =>
      rw [ha] at ht
      refine ⟨_, next_whenAwake hs ht, rfl, rfl, rfl, nofun, fun l tag h => ?_⟩
      cases h
      rfl
  case busy =>
    have busy : ∀ {channel : Byte} (h : Handler), s.admits r.link channel = true →
        (Host.Outcome.next (s.takeRequest channel (unlessCompacting h) r) : Done) =
          .next ((s.entered channel r).replied channel r (Reply.refuse .busy)) :=
      fun h ha => congrArg Host.Outcome.next (takeRequest_compacting h ha hc)
    simp only [List.forall_mem_cons]
    refine ⟨busy _, busy _, busy _, busy _, busy _, busy _, busy _, busy _, busy _, busy _, busy _, busy _,
      busy _, busy _, busy _, fun _ h => nomatch h⟩
  case plan =>
    intro size place moves copied
    have hm : movesAt 0 gs = moves := funext fun n => congrArg (_ != ·) (Nat.zero_add (placeAt gs n))
    have hc : copiedAt 0 gs = copied := funext fun n => by rw [copiedAt, hm]; rfl
    refine (compactPlan_eq 0 0 gs).trans ?_
    rw [hm]
    refine List.map_congr_left fun n _ => ?_
    rw [moveAt, hc, Nat.zero_add, Nat.zero_add]
    rfl

end Sys2Proof.Machine
end

section
/-! The master volume (R139) and the ends of voices by a request or by the end of a tone (R132, R136, R142). -/

namespace Sys2Proof.Machine

/-! ### Requests of the mixer -/

section
variable {s : State} {channel : Byte} {r : Req} {fs : Fields} (a : Link → Fields → State → MixerAnswer)
  (ha : s.admits r.link channel = true) (hc : s.store.compaction = none) (hf : decodeFields r.payload = some fs)
include ha hc hf

/-- A request of the mixer that is let in and decodes: the mixer takes its answer, its notices go out, the reply is
sent. -/
theorem takeRequest_mixer {y : MixerAnswer} (hy : a r.link fs (s.entered channel r) = y) :
    s.takeRequest channel (unlessCompacting (onFields (fun l fs t => t.mixerOutcome (a l fs t)))) r =
      ((s.entered channel r).withMixer (y.mixer, y.sent)).replied channel r y.reply :=
  takeRequest_idle_onFields ha hc hf (by rw [hy]; rfl)

/-- A mixer answer without notices. -/
theorem takeRequest_mixer_quiet {x : Mixer} {y : Reply}
    (hy : a r.link fs (s.entered channel r) = { mixer := x, sent := [], reply := y }) :
    s.takeRequest channel (unlessCompacting (onFields (fun l fs t => t.mixerOutcome (a l fs t)))) r =
      State.replied { s.entered channel r with mixer := x } channel r y :=
  takeRequest_mixer a ha hc hf hy

/-- A mixer answer that changes nothing. -/
theorem takeRequest_mixer_none {y : Reply}
    (hy : a r.link fs (s.entered channel r) = MixerAnswer.none s.mixer y) :
    s.takeRequest channel (unlessCompacting (onFields (fun l fs t => t.mixerOutcome (a l fs t)))) r =
      (s.entered channel r).replied channel r y := by
  have hm : { s.entered channel r with mixer := s.mixer } = s.entered channel r := by
    rw [← State.entered_mixer s channel r]
  exact (takeRequest_mixer_quiet a ha hc hf hy).trans (congrArg (State.replied · channel r y) hm)

end

/-! ### SET_VOLUME and the ramp (R139) -/

section
variable {fs : Fields} {n : Nat} {x : Mixer} (hn : natField 1 fs = .val n)
include hn

theorem Mixer.volumeRequest_high (h : 255 < n) (hr : (flagField 2 fs).fails = []) :
    x.volumeRequest fs = MixerAnswer.none x (.invalid [.volume]) := by
  simp [Mixer.volumeRequest, hn, hr, Val.need, Val.violates, h]

theorem Mixer.volumeRequest_ok {ramp : Bool} (h : n ≤ 255) (hr : (flagField 2 fs).fails = [])
    (hb : (flagField 2 fs).get?.getD false = ramp) :
    x.volumeRequest fs =
      { mixer := x.setVolume n ramp, sent := [],
        reply := .plain .ok (fieldNat 1 1 (x.setVolume n ramp).volume ++ fieldNat 2 1 (x.setVolume n ramp).target) } := by
  rw [← hb]
  simp [Mixer.volumeRequest, hn, hr, Val.need, Val.violates, Val.get?, Nat.not_lt.2 h]

end

theorem Mixer.rampStep_up {x : Mixer} (hr : x.ramping = true) (ht : 4 ≤ x.rampTimer) (h : x.volume < x.target) :
    x.rampStep =
      { x with volume := x.volume + 1, rampTimer := 0, ramping := decide (x.volume + 1 ≠ x.target) } := by
  simp only [Mixer.rampStep, hr, ht, h, and_self, if_true]

theorem Mixer.rampStep_down {x : Mixer} (hr : x.ramping = true) (ht : 4 ≤ x.rampTimer) (h : x.target < x.volume) :
    x.rampStep =
      { x with volume := x.volume - 1, rampTimer := 0, ramping := decide (x.volume - 1 ≠ x.target) } := by
  simp only [Mixer.rampStep, hr, ht, Nat.not_lt.2 (Nat.le_of_lt h), and_self, if_true, if_false]

theorem Mixer.rampStep_waits {x : Mixer} (h : x.ramping = false ∨ x.rampTimer < 4) : x.rampStep = x := by
  rw [Mixer.rampStep, if_neg]
  rintro ⟨hr, ht⟩
  rcases h with h | h
  · rw [hr] at h; cases h
  · omega

/-- Settles O54. -/
theorem volumeIsSetOrRamped : Obligations.VolumeIsSetOrRamped := by
  unfold Obligations.VolumeIsSetOrRamped
  refine fun r fs n s => ⟨fun ha hc hf hn => ⟨fun h hr => ?high, fun h hr => ?atOnce, fun h hr => ?ramp⟩,
    fun hs hr ht => ⟨fun h => ?_, fun h => ?_⟩, fun h => ?waits⟩
  case high =>
    exact congrArg Host.Outcome.next (takeRequest_mixer_none (fun _ fs t => t.mixer.volumeRequest fs) ha hc hf
      (by rw [State.entered_mixer, Mixer.volumeRequest_high hn h hr]))
  case atOnce =>
    have hflag : (flagField 2 fs).fails = [] ∧ (flagField 2 fs).get?.getD false = false := by
      rcases hr with hr | hr <;> rw [hr] <;> exact ⟨rfl, rfl⟩
    exact congrArg Host.Outcome.next (takeRequest_mixer_quiet (fun _ fs t => t.mixer.volumeRequest fs) ha hc hf
      (by rw [State.entered_mixer, Mixer.volumeRequest_ok hn h hflag.1 hflag.2]; rfl))
  case ramp =>
    have hflag : (flagField 2 fs).fails = [] ∧ (flagField 2 fs).get?.getD false = true := by
      rw [hr]; exact ⟨rfl, rfl⟩
    exact congrArg Host.Outcome.next (takeRequest_mixer_quiet (fun _ fs t => t.mixer.volumeRequest fs) ha hc hf
      (by rw [State.entered_mixer, Mixer.volumeRequest_ok hn h hflag.1 hflag.2]; rfl))
  case waits =>
    exact congrArg Host.Outcome.next
      (whenAwake_self (congrArg (fun x => { s with mixer := x }) (Mixer.rampStep_waits h)))
  · exact next_whenAwake hs (congrArg (fun x => { s with mixer := x }) (Mixer.rampStep_up hr ht h))
  · exact next_whenAwake hs (congrArg (fun x => { s with mixer := x }) (Mixer.rampStep_down hr ht h))

end Sys2Proof.Machine
end

section
/-! The ends of voices: RELEASE_VOICE, STOP_VOICE and TONE_END (R132, R136, R142). -/

namespace Sys2Proof.Machine

@[simp] theorem Num4.ofNum_num (i : Num4) : Num4.ofNum i.num = some i := by cases i <;> rfl

theorem Voice.playing_of {v : Voice} (h : v.state ≠ .free) : v.playing = true := by simpa [Voice.playing] using h

/-! ### The checks of a request for a voice (R136) -/

section
variable {x : Mixer} {l : Link} {fs : Fields} {i : VoiceId} (act : VoiceId → Mixer → Mixer × List Sent)
  (hi : natField 1 fs = .val i.num)
include hi

theorem voiceField_of : voiceField fs = .val i := by
  rw [voiceField, hi]
  exact Val.check_val_some _ (Num4.ofNum_num i)

theorem Mixer.onVoice_denied (hl : l = .remote) (ho : (x.voices.get i).origin = .primary) :
    x.onVoice l fs act = MixerAnswer.none x (Reply.refuse .denied) := by
  simp only [Mixer.onVoice, voiceField_of hi, hl, ho, and_self, if_true]

variable (hd : l = .primary ∨ (x.voices.get i).origin ≠ .primary)
include hd

theorem Mixer.onVoice_allowed :
    x.onVoice l fs act =
      if !(x.voices.get i).playing then MixerAnswer.none x (.invalid [.state])
      else { mixer := (act i x).1, sent := (act i x).2,
             reply := .plain .ok (fieldNat 1 1 (voiceStateCode ((act i x).1.voices.get i).state)) } := by
  have hn : ¬(l = .remote ∧ (x.voices.get i).origin = .primary) := by
    rintro ⟨hl, ho⟩
    rcases hd with h | h
    · rw [hl] at h; cases h
    · exact h ho
  simp only [Mixer.onVoice, voiceField_of hi, if_neg hn]

theorem Mixer.onVoice_free (hp : (x.voices.get i).playing = false) :
    x.onVoice l fs act = MixerAnswer.none x (.invalid [.state]) := by
  rw [Mixer.onVoice_allowed act hi hd, hp]
  rfl

theorem Mixer.onVoice_acts {z : Mixer × List Sent} (hp : (x.voices.get i).playing = true) (hz : act i x = z) :
    x.onVoice l fs act =
      { mixer := z.1, sent := z.2, reply := .plain .ok (fieldNat 1 1 (voiceStateCode (z.1.voices.get i).state)) } := by
  rw [Mixer.onVoice_allowed act hi hd, hp, hz]
  rfl

/-- A playing voice that the request ends. -/
theorem Mixer.onVoice_ends {time : Word32} {o : VoiceOutcome} (hp : (x.voices.get i).playing = true)
    (hz : act i x = x.endVoice time o i) :
    x.onVoice l fs act =
      { mixer := x.setVoice i (x.voices.get i).freed, sent := voiceEndNotice time i (x.voices.get i) o,
        reply := .plain .ok (fieldNat 1 1 0) } := by
  rw [Mixer.onVoice_acts act hi hd hp (hz.trans (Mixer.endVoice_playing time o hp))]
  simp only [Mixer.setVoice, Four.get_set_same]
  rfl

end

/-! ### RELEASE_VOICE (R136) -/

section
variable {x : Mixer} {i : VoiceId} {time : Word32}

/-- The state a release looks at: a FROZEN voice's prior state. -/
theorem Mixer.releaseVoice_loops {k : VoiceState} (hk : k = .head ∨ k = .loop)
    (h : (x.voices.get i).state = k ∨ ((x.voices.get i).state = .frozen ∧ (x.voices.get i).prior = some k)) :
    x.releaseVoice time i = (x.setVoice i { x.voices.get i with release := true }, []) := by
  have hs : (if (x.voices.get i).state = .frozen then (x.voices.get i).prior.getD .free else (x.voices.get i).state) = k := by
    rcases h with h | ⟨h, hq⟩
    · rw [h, if_neg (by rcases hk with rfl | rfl <;> decide)]
    · rw [h, hq, if_pos rfl, Option.getD_some]
  rcases hk with rfl | rfl <;> simp only [Mixer.releaseVoice, hs]

theorem Mixer.releaseVoice_tail
    (h : (x.voices.get i).state = .tail ∨ ((x.voices.get i).state = .frozen ∧ (x.voices.get i).prior = some .tail)) :
    x.releaseVoice time i = (x, []) := by
  rcases h with h | ⟨h, hq⟩
  · simp only [Mixer.releaseVoice, h, reduceCtorEq, if_false]
  · simp only [Mixer.releaseVoice, h, hq, if_true, Option.getD_some]

theorem Mixer.releaseVoice_tone
    (h : (x.voices.get i).state = .tone ∨ ((x.voices.get i).state = .frozen ∧ (x.voices.get i).prior = some .tone)) :
    x.releaseVoice time i = x.endVoice time .ended i := by
  rcases h with h | ⟨h, hq⟩
  · simp only [Mixer.releaseVoice, h, reduceCtorEq, if_false]
  · simp only [Mixer.releaseVoice, h, hq, if_true, Option.getD_some]

end

/-! ### TONE_END (R132) -/

section
variable {x : Mixer} {i : VoiceId} {time : Word32}

theorem Mixer.toneEnd_done (h : (x.voices.get i).state = .tone) (hl : (x.voices.get i).left ≤ 1) :
    x.toneEnd time i =
      (x.setVoice i { (x.voices.get i).freed with left := 0 }, voiceEndNotice time i (x.voices.get i) .ended) := by
  simp only [Mixer.toneEnd, h, hl, and_self, if_true]

theorem Mixer.toneEnd_waits (h : (x.voices.get i).state ≠ .tone ∨ 1 < (x.voices.get i).left) :
    x.toneEnd time i = (x, []) := by
  rw [Mixer.toneEnd, if_neg]
  rintro ⟨hs, hl⟩
  rcases h with h | h
  · exact h hs
  · omega

end

/-- What the end of one voice by a request leaves. -/
theorem State.ended_spec (s : State) (channel : Byte) (r : Req) (i : VoiceId) (ns : List Sent) (y : Reply) :
    let t := ((s.entered channel r).withMixer (s.mixer.setVoice i (s.mixer.voices.get i).freed, ns)).replied channel r y
    (t.mixer.voices.get i).state = .free ∧ (t.mixer.voices.get i).prior = none ∧
      (∀ j, j ≠ i → t.mixer.voices.get j = s.mixer.voices.get j) ∧
      t.router = (((s.entered channel r).notifyAll ns).replied channel r y).router ∧
      t.mixer.volume = s.mixer.volume ∧ t.motors = s.motors ∧ t.sensors = s.sensors ∧ t.store = s.store := by
  intro t
  have hm : t.mixer = s.mixer.setVoice i (s.mixer.voices.get i).freed := by simp only [t, State.replied_mixer, State.withMixer_mixer]
  rw [hm]
  simp only [Mixer.setVoice, Four.get_set_same]
  have hrouter : t.router = (((s.entered channel r).notifyAll ns).replied channel r y).router :=
    State.replied_congr (s := (s.entered channel r).notifyAll ns)
      (t := (s.entered channel r).withMixer (s.mixer.setVoice i (s.mixer.voices.get i).freed, ns)) rfl channel r y
  have hrest : t.motors = s.motors ∧ t.sensors = s.sensors ∧ t.store = s.store := by simp [t]
  exact ⟨rfl, rfl, fun j hj => Four.get_set_ne _ hj _, hrouter, trivial, hrest⟩

/-- Settles O53. -/
theorem voicesAreReleasedAndStopped : Obligations.VoicesAreReleasedAndStopped := by
  unfold Obligations.VoicesAreReleasedAndStopped
  intro r fs i s hf hi hc v
  refine ⟨?refused, fun ha hp hd => ?stopped, fun ha hd => ⟨fun h => ?loops, fun h => ?tail, fun h => ?tone⟩,
    fun hs ht hl => ?toneEnd, fun h => ?waits⟩
  case refused =>
    simp only [List.forall_mem_cons]
    refine ⟨fun ha => ⟨fun hl ho => ?_, fun hd hp => ?_⟩, fun ha => ⟨fun hl ho => ?_, fun hd hp => ?_⟩, fun _ h => nomatch h⟩
    · exact congrArg Host.Outcome.next (takeRequest_mixer_none
        (fun l fs t => t.mixer.onVoice l fs (Mixer.releaseVoice t.now)) ha hc hf
        (by rw [State.entered_mixer, Mixer.onVoice_denied _ hi hl ho]))
    · exact congrArg Host.Outcome.next (takeRequest_mixer_none
        (fun l fs t => t.mixer.onVoice l fs (Mixer.releaseVoice t.now)) ha hc hf
        (by rw [State.entered_mixer, Mixer.onVoice_free _ hi hd hp]))
    · exact congrArg Host.Outcome.next (takeRequest_mixer_none
        (fun l fs t => t.mixer.onVoice l fs (Mixer.endVoice t.now .stopped)) ha hc hf
        (by rw [State.entered_mixer, Mixer.onVoice_denied _ hi hl ho]))
    · exact congrArg Host.Outcome.next (takeRequest_mixer_none
        (fun l fs t => t.mixer.onVoice l fs (Mixer.endVoice t.now .stopped)) ha hc hf
        (by rw [State.entered_mixer, Mixer.onVoice_free _ hi hd hp]))
  case stopped =>
    have hx : (s.entered 0x4B r).mixer.onVoice r.link fs (Mixer.endVoice (s.entered 0x4B r).now .stopped) =
        s.mixer.onVoice r.link fs (Mixer.endVoice s.now .stopped) := by rw [State.entered_mixer, State.entered_now]
    have ht := takeRequest_mixer (fun l fs t => t.mixer.onVoice l fs (Mixer.endVoice t.now .stopped)) ha hc hf
      (hx.trans (Mixer.onVoice_ends _ hi hd hp rfl))
    exact ⟨_, congrArg Host.Outcome.next ht, State.ended_spec s 0x4B r i _ _⟩
  case loops =>
    have hk : v.playing = true := Voice.playing_of (by rcases h with h | h | ⟨h, -⟩ <;> rw [h] <;> decide)
    have hz : s.mixer.releaseVoice s.now i = (s.mixer.setVoice i { v with release := true }, []) := by
      rcases h with h | h | ⟨h, hq | hq⟩
      · exact Mixer.releaseVoice_loops (.inl rfl) (.inl h)
      · exact Mixer.releaseVoice_loops (.inr rfl) (.inl h)
      · exact Mixer.releaseVoice_loops (.inl rfl) (.inr ⟨h, hq⟩)
      · exact Mixer.releaseVoice_loops (.inr rfl) (.inr ⟨h, hq⟩)
    refine congrArg Host.Outcome.next (takeRequest_mixer_quiet
      (fun l fs t => t.mixer.onVoice l fs (Mixer.releaseVoice t.now)) ha hc hf ?_)
    rw [State.entered_mixer, State.entered_now, Mixer.onVoice_acts _ hi hd hk hz]
    simp only [Mixer.setVoice, Four.get_set_same]
  case tail =>
    have hk : v.playing = true := Voice.playing_of (by rcases h with h | ⟨h, -⟩ <;> rw [h] <;> decide)
    exact congrArg Host.Outcome.next (takeRequest_mixer_none
      (fun l fs t => t.mixer.onVoice l fs (Mixer.releaseVoice t.now)) ha hc hf
      (by rw [State.entered_mixer, State.entered_now, Mixer.onVoice_acts _ hi hd hk (Mixer.releaseVoice_tail h)]; rfl))
  case tone =>
    have hk : v.playing = true := Voice.playing_of (by rcases h with h | ⟨h, -⟩ <;> rw [h] <;> decide)
    have hx : (s.entered 0x4A r).mixer.onVoice r.link fs (Mixer.releaseVoice (s.entered 0x4A r).now) =
        s.mixer.onVoice r.link fs (Mixer.releaseVoice s.now) := by rw [State.entered_mixer, State.entered_now]
    have ht := takeRequest_mixer (fun l fs t => t.mixer.onVoice l fs (Mixer.releaseVoice t.now)) ha hc hf
      (hx.trans (Mixer.onVoice_ends _ hi hd hk (Mixer.releaseVoice_tone h)))
    exact ⟨_, congrArg Host.Outcome.next ht, State.ended_spec s 0x4A r i _ _⟩
  case toneEnd =>
    refine ⟨_, next_whenAwake hs (congrArg s.withMixer (Mixer.toneEnd_done ht hl)), ?_⟩
    simp only [State.withMixer_mixer, Mixer.setVoice, Four.get_set_same, State.withMixer_router, State.withMixer_motors,
      State.withMixer_store]
    exact ⟨rfl, fun j hj => Four.get_set_ne _ hj _, rfl, trivial, trivial⟩
  case waits =>
    exact congrArg Host.Outcome.next (whenAwake_self (congrArg s.withMixer (Mixer.toneEnd_waits h)))

end Sys2Proof.Machine
end

section
/-! The arbiter's choice of a voice and the start counter (R130). -/

namespace Sys2Proof.Machine

/-! ### The lowest free voice -/

/-- In a list that rises, the first element a test takes is the lowest it takes. -/
theorem find_least {α : Type} {f : α → Nat} {t : α → Bool} {xs : List α} {a : α}
    (hs : xs.Pairwise (fun x y => f x ≤ f y)) (h : xs.find? t = some a) : ∀ b ∈ xs, t b = true → f a ≤ f b := by
  induction xs with
  | nil => exact fun b hb => nomatch hb
  | cons x xs ih =>
    obtain ⟨hx, hs⟩ := List.pairwise_cons.1 hs
    intro b hb ht
    cases hc : t x
    · rw [List.find?_cons_of_neg (by simp [hc])] at h
      rcases List.mem_cons.1 hb with rfl | hb
      · rw [hc] at ht; cases ht
      · exact ih hs h b hb ht
    · rw [List.find?_cons_of_pos hc] at h
      cases h
      rcases List.mem_cons.1 hb with rfl | hb
      · exact Nat.le_refl _
      · exact hx b hb

theorem arbiterVoices_sorted (power : PowerState) :
    (arbiterVoices power).Pairwise (fun i j => i.num ≤ j.num) := by
  unfold arbiterVoices
  split <;> decide

theorem arbiterVoices_ne_nil (power : PowerState) : arbiterVoices power ≠ [] := by
  unfold arbiterVoices
  split <;> decide

/-! ### The voice to steal -/

/-- `a` stands before `b` or beside it: lower priority, or the same and not younger. -/
def Voice.Least (a b : Voice) : Prop := a.priority < b.priority ∨ (a.priority = b.priority ∧ a.order ≤ b.order)

theorem Voice.least_refl (a : Voice) : a.Least a := .inr ⟨rfl, Nat.le_refl _⟩

theorem Voice.Least.trans {a b c : Voice} (hab : a.Least b) (hbc : b.Least c) : a.Least c := by
  unfold Voice.Least at *
  omega

theorem Voice.least_of_picksBefore {a b : Voice} (h : a.picksBefore b = true) : a.Least b := by
  simp only [Voice.picksBefore, Bool.or_eq_true, decide_eq_true_eq, Bool.and_eq_true, beq_iff_eq] at h
  unfold Voice.Least
  omega

theorem Voice.least_of_not_picksBefore {a b : Voice} (h : a.picksBefore b = false) : b.Least a := by
  simp only [Voice.picksBefore, Bool.or_eq_false_iff, decide_eq_false_iff_not, Bool.and_eq_false_iff, beq_eq_false_iff_ne] at h
  unfold Voice.Least
  omega

theorem Mixer.pick_eq_none {x : Mixer} {vs : List VoiceId} : x.pick vs = none ↔ vs = [] := by
  cases vs with
  | nil => exact ⟨fun _ => rfl, fun _ => rfl⟩
  | cons i is =>
    refine ⟨fun h => ?_, nofun⟩
    simp only [Mixer.pick] at h
    split at h
    · cases h
    · split at h <;> cases h

theorem Mixer.pick_least {x : Mixer} {vs : List VoiceId} {k : VoiceId} (h : x.pick vs = some k) :
    ∀ j ∈ vs, (x.voices.get k).Least (x.voices.get j) := by
  induction vs generalizing k with
  | nil => exact fun j hj => nomatch hj
  | cons i is ih =>
    intro j hj
    simp only [Mixer.pick] at h
    cases hp : x.pick is with
    | none =>
      rw [hp] at h
      cases h
      rw [Mixer.pick_eq_none.1 hp] at hj
      rw [List.mem_singleton.1 hj]
      exact Voice.least_refl _
    | some m =>
      rw [hp] at h
      have hm := ih hp
      cases hb : (x.voices.get m).picksBefore (x.voices.get i)
      · simp only [hb, Bool.false_eq_true, if_false] at h
        cases h
        have hi := Voice.least_of_not_picksBefore hb
        rcases List.mem_cons.1 hj with rfl | hj
        · exact Voice.least_refl _
        · exact hi.trans (hm j hj)
      · simp only [hb, if_true] at h
        cases h
        rcases List.mem_cons.1 hj with rfl | hj
        · exact Voice.least_of_picksBefore hb
        · exact hm j hj

/-! ### The arbiter -/

section
variable {x : Mixer} {power : PowerState} {priority : Nat} {i : VoiceId}

theorem Mixer.arbiter_free_spec (h : x.arbiter power priority = .free i) :
    i ∈ arbiterVoices power ∧ (x.voices.get i).playing = false ∧
      ∀ j ∈ arbiterVoices power, (x.voices.get j).playing = false → i.num ≤ j.num := by
  have hf : (arbiterVoices power).find? (fun i => !(x.voices.get i).playing) = some i := by
    simp only [Mixer.arbiter] at h
    split at h
    next k hk => cases h; exact hk
    next => split at h <;> [cases h; split at h <;> cases h]
  exact ⟨List.mem_of_find?_eq_some hf, by simpa using List.find?_some hf,
    fun j hj hp => find_least (arbiterVoices_sorted power) hf j hj (by simp [hp])⟩

theorem Mixer.arbiter_steal_spec (h : x.arbiter power priority = .steal i) :
    i ∈ arbiterVoices power ∧ (x.voices.get i).priority ≤ priority ∧
      (∀ j ∈ arbiterVoices power, (x.voices.get j).playing = true) ∧
      ∀ j ∈ arbiterVoices power, (x.voices.get i).Least (x.voices.get j) := by
  simp only [Mixer.arbiter] at h
  split at h
  next => cases h
  next hf =>
    have hall : ∀ j ∈ arbiterVoices power, (x.voices.get j).playing = true := by simpa using hf
    split at h
    next => cases h
    next k hk =>
      split at h
      next hle =>
        cases h
        exact ⟨x.pick_mem hk, hle, hall, Mixer.pick_least hk⟩
      next => cases h

theorem Mixer.arbiter_refused_spec (h : x.arbiter power priority = .refused) :
    ∀ j ∈ arbiterVoices power, (x.voices.get j).playing = true ∧ priority < (x.voices.get j).priority := by
  simp only [Mixer.arbiter] at h
  split at h
  next => cases h
  next hf =>
    have hall : ∀ j ∈ arbiterVoices power, (x.voices.get j).playing = true := by simpa using hf
    split at h
    next hn => exact absurd (Mixer.pick_eq_none.1 hn) (arbiterVoices_ne_nil power)
    next k hk =>
      split at h
      next => cases h
      next hle =>
        intro j hj
        have hl := Mixer.pick_least hk j hj
        unfold Voice.Least at hl
        exact ⟨hall j hj, by omega⟩

end

/-! ### The start counter -/

/-- A stronger test keeps fewer elements, when one fails it. -/
theorem length_filter_lt {α : Type} {p q : α → Bool} {xs : List α} {a : α} (hpq : ∀ b, p b = true → q b = true)
    (ha : a ∈ xs) (hq : q a = true) (hp : p a = false) : (xs.filter p).length < (xs.filter q).length := by
  have hf : xs.filter p = (xs.filter q).filter p := by
    rw [List.filter_filter]
    refine List.filter_congr fun b _ => ?_
    cases hb : p b
    · rfl
    · rw [hpq b hb]; rfl
  rw [hf]
  exact List.length_filter_lt_length_iff_exists.2 ⟨a, List.mem_filter.2 ⟨ha, hq⟩, by simp [hp]⟩

section
variable {x : Mixer} {i j k : VoiceId}

theorem Mixer.rank_lt_count (hp : (x.voices.get i).playing = true) :
    x.rank i < (Num4.all.filter (fun i => (x.voices.get i).playing)).length :=
  length_filter_lt (fun b hb => (Bool.and_eq_true_iff.1 hb).1) (Num4.mem_all i) hp (by simp)

theorem Mixer.rank_lt_rank (hp : (x.voices.get j).playing = true)
    (h : (x.voices.get j).order < (x.voices.get k).order) : x.rank j < x.rank k :=
  length_filter_lt (a := j)
    (fun b hb => by
      simp only [Bool.and_eq_true, decide_eq_true_eq] at hb ⊢
      exact ⟨hb.1, Nat.lt_trans hb.2 h⟩)
    (Num4.mem_all j) (by simp [hp, h]) (by simp)

theorem Mixer.countStart_below (h : x.startCounter < 4294967295) :
    x.countStart = { x with startCounter := x.startCounter + 1 } := if_pos h

theorem Mixer.countStart_renumbers (h : 4294967295 ≤ x.startCounter) :
    x.countStart.startCounter = (Num4.all.filter (fun i => (x.voices.get i).playing)).length ∧
    (∀ j, (x.voices.get j).playing = false → x.countStart.voices.get j = x.voices.get j) ∧
    (∀ j, (x.voices.get j).playing = true → x.countStart.voices.get j = { x.voices.get j with order := x.rank j }) := by
  rw [Mixer.countStart, if_neg (Nat.not_lt.2 h)]
  refine ⟨rfl, fun j hj => ?_, fun j hj => ?_⟩
  · rw [Four.get_ofFn, if_neg (by simp [hj])]
  · rw [Four.get_ofFn, if_pos hj]

end

theorem Mixer.fillVoice_spec (x : Mixer) (i : VoiceId) (v : Voice) :
     let y := x.fillVoice i v
     let old (j : VoiceId) : Voice := if j = i then { v with order := x.startCounter } else x.voices.get j
     (x.startCounter < 4294967295 →
       y = { x with voices := x.voices.set i { v with order := x.startCounter },
                    startCounter := x.startCounter + 1 }) ∧
     (4294967295 ≤ x.startCounter →
       y.startCounter = ([Num4.n1, .n2, .n3, .n4].filter (fun j => (old j).playing)).length ∧
       (∀ j, (old j).playing = false → y.voices.get j = old j) ∧
       (∀ j, (old j).playing = true → y.voices.get j = { old j with order := (y.voices.get j).order } ∧
         (y.voices.get j).order < y.startCounter) ∧
       (∀ j k, (old j).playing = true → (old k).playing = true → (old j).order < (old k).order →
         (y.voices.get j).order < (y.voices.get k).order)) := by
  intro y old
  have hold : (fun j => (x.setVoice i { v with order := x.startCounter }).voices.get j) = old :=
    funext fun j => Four.get_set _ _ _ _
  refine ⟨fun h => Mixer.countStart_below h, fun h => ?_⟩
  obtain ⟨hcount, hfree, hplay⟩ := Mixer.countStart_renumbers (x := x.setVoice i { v with order := x.startCounter }) h
  have hrank := fun j => Mixer.rank_lt_count (x := x.setVoice i { v with order := x.startCounter }) (i := j)
  have hmono := fun j k => Mixer.rank_lt_rank (x := x.setVoice i { v with order := x.startCounter }) (j := j) (k := k)
  simp only [congrFun hold] at hcount hfree hplay hrank hmono
  refine ⟨hcount, hfree, fun j hj => ?_, fun j k hj hk hlt => ?_⟩
  · have hy : y.voices.get j = _ := hplay j hj
    have hc : y.startCounter = _ := hcount
    rw [hy, hc]
    exact ⟨rfl, hrank j hj⟩
  · have hy : y.voices.get j = _ := hplay j hj
    have hz : y.voices.get k = _ := hplay k hk
    rw [hy, hz]
    exact hmono j k hj hlt

end Sys2Proof.Machine
end

section
/-! PLAY and PLAY_TONE: their fields, the voice they fill in, and what they answer (R130 to R132, R141). -/

namespace Sys2Proof.Machine

/-! ### The failures of the fields -/

section
variable {k : Nat} {fs : Fields} {d : Check}

theorem not_mem_flagField_fails (hd : d ≠ .field) : d ∉ (flagField k fs).fails := fun h => hd (flagField_fails h)

theorem mem_natField_need (hd : d ≠ .field) :
    d ∈ (natField k fs).need ↔ d = .missingField ∧ fieldValue k fs = none := by
  cases hk : natField k fs with
  | absent => simp [Val.need, natField_absent_iff.1 hk]
  | bad c =>
    have hv : fieldValue k fs ≠ none := fun h => by rw [natField_absent h] at hk; cases hk
    simp [Val.need, natField_bad hk, hd, hv]
  | val n =>
    have hv : fieldValue k fs ≠ none := fun h => by rw [natField_absent h] at hk; cases hk
    simp [Val.need, hv]

/-- R131: an id that is absent or out of range is REGION. -/
theorem mem_playRegion_fails (hd : d ≠ .field) :
    d ∈ (playRegion fs).fails ↔
      d = .region ∧ (fieldValue 1 fs = none ∨ ∃ n, natField 1 fs = .val n ∧ (n < 1 ∨ 24 < n)) := by
  cases hk : natField 1 fs with
  | absent => simp [playRegion, idField, hk, Val.check, Val.fails, natField_absent_iff.1 hk]
  | bad c =>
    have hv : fieldValue 1 fs ≠ none := fun h => by rw [natField_absent h] at hk; cases hk
    simp [playRegion, idField, hk, Val.check, Val.fails, natField_bad hk, hd, hv]
  | val n =>
    have hv : fieldValue 1 fs ≠ none := fun h => by rw [natField_absent h] at hk; cases hk
    by_cases hn : 1 ≤ n ∧ n ≤ 24
    · have hno : ¬(n < 1 ∨ 24 < n) := by omega
      simp only [playRegion, idField, hk, Val.check, if_pos hn, Val.fails, List.not_mem_nil, false_iff]
      rintro ⟨-, h | ⟨m, hm, h⟩⟩
      · exact hv h
      · cases hm; exact hno h
    · have hno : n < 1 ∨ 24 < n := by omega
      simp only [playRegion, idField, hk, Val.check, if_neg hn, Val.fails, List.mem_singleton]
      exact ⟨fun h => ⟨h, .inr ⟨n, rfl, hno⟩⟩, fun h => h.1⟩

/-- R131: when each check of PLAY fails. -/
theorem PlayFields.mem_bad (hd : d ≠ .field) :
    d ∈ (PlayFields.read fs).bad ↔
      (d = .region ∧ (fieldValue 1 fs = none ∨ ∃ n, natField 1 fs = .val n ∧ (n < 1 ∨ 24 < n))) ∨
      (d = .volume ∧ ∃ n, natField 2 fs = .val n ∧ 255 < n) ∨
      (d = .priority ∧ ∃ n, natField 3 fs = .val n ∧ 7 < n) ∨
      (d = .loopCount ∧ ∃ n, natField 5 fs = .val n ∧ 255 < n) := by
  simp only [PlayFields.bad, PlayFields.read, List.mem_append, mem_playRegion_fails hd, not_mem_natField_fails hd,
    not_mem_flagField_fails hd, or_false, Val.mem_violates, decide_eq_true_eq, or_assoc]

/-- R132: when each check of PLAY_TONE fails. -/
theorem ToneFields.mem_bad (hd : d ≠ .field) :
    d ∈ (ToneFields.read fs).bad ↔
      (d = .missingField ∧ fieldValue 1 fs = none) ∨ (d = .missingField ∧ fieldValue 2 fs = none) ∨
      (d = .frequency ∧ ∃ n, natField 1 fs = .val n ∧ (n < 50 ∨ 8000 < n)) ∨
      (d = .duration ∧ ∃ n, natField 2 fs = .val n ∧ (n < 1 ∨ 60000 < n)) ∨
      (d = .volume ∧ ∃ n, natField 3 fs = .val n ∧ 255 < n) ∨
      (d = .priority ∧ ∃ n, natField 4 fs = .val n ∧ 7 < n) := by
  simp only [ToneFields.bad, ToneFields.read, List.mem_append, mem_natField_need hd, not_mem_natField_fails hd,
    not_mem_flagField_fails hd, or_false, Val.mem_violates, decide_eq_true_eq, outsideNat_eq_true, or_assoc]

end

theorem PlayFields.bad_spec (fs : Fields) :
    let x := PlayFields.read fs
    (Check.region ∈ x.bad ↔ fieldValue 1 fs = none ∨ ∃ n, natField 1 fs = .val n ∧ (n < 1 ∨ 24 < n)) ∧
    (Check.volume ∈ x.bad ↔ ∃ n, natField 2 fs = .val n ∧ 255 < n) ∧
    (Check.priority ∈ x.bad ↔ ∃ n, natField 3 fs = .val n ∧ 7 < n) ∧
    (Check.loopCount ∈ x.bad ↔ ∃ n, natField 5 fs = .val n ∧ 255 < n) ∧
    (∀ c ∈ x.bad, c ∈ [Check.region, .volume, .priority, .loopCount, .field]) := by
  refine ⟨?_, ?_, ?_, ?_, fun c hc => ?_⟩
  · simp [PlayFields.mem_bad]
  · simp [PlayFields.mem_bad]
  · simp [PlayFields.mem_bad]
  · simp [PlayFields.mem_bad]
  · by_cases hd : c = .field
    · simp [hd]
    · rcases (PlayFields.mem_bad hd).1 hc with ⟨h, -⟩ | ⟨h, -⟩ | ⟨h, -⟩ | ⟨h, -⟩ <;> simp [h]

theorem ToneFields.bad_spec (fs : Fields) :
    let y := ToneFields.read fs
    (Check.frequency ∈ y.bad ↔ ∃ n, natField 1 fs = .val n ∧ (n < 50 ∨ 8000 < n)) ∧
    (Check.duration ∈ y.bad ↔ ∃ n, natField 2 fs = .val n ∧ (n < 1 ∨ 60000 < n)) ∧
    (Check.volume ∈ y.bad ↔ ∃ n, natField 3 fs = .val n ∧ 255 < n) ∧
    (Check.priority ∈ y.bad ↔ ∃ n, natField 4 fs = .val n ∧ 7 < n) ∧
    (Check.missingField ∈ y.bad ↔ fieldValue 1 fs = none ∨ fieldValue 2 fs = none) ∧
    (∀ c ∈ y.bad, c ∈ [Check.frequency, .duration, .volume, .priority, .missingField, .field]) := by
  refine ⟨?_, ?_, ?_, ?_, ?_, fun c hc => ?_⟩
  · simp [ToneFields.mem_bad]
  · simp [ToneFields.mem_bad]
  · simp [ToneFields.mem_bad]
  · simp [ToneFields.mem_bad]
  · simp [ToneFields.mem_bad]
  · by_cases hd : c = .field
    · simp [hd]
    · rcases (ToneFields.mem_bad hd).1 hc with ⟨h, -⟩ | ⟨h, -⟩ | ⟨h, -⟩ | ⟨h, -⟩ | ⟨h, -⟩ | ⟨h, -⟩ <;> simp [h]

/-! ### The voice of a sound (R131, R132, R141) -/

section
variable {v : Voice}

theorem Voice.begun_frozen (h : v.free = false) :
    v.begun true = { v with state := .frozen, prior := some v.state } := by
  simp [Voice.begun, h]

theorem Voice.begun_runs {paused : Bool} (h : paused = false ∨ v.free = true) : v.begun paused = v := by
  rcases h with h | h <;> simp [Voice.begun, h]

end

theorem toneVoice_priority (paused : Bool) (f d : Nat) (o : StartOptions) : (toneVoice paused f d o).priority = o.priority :=
  Voice.begun_priority _ _

theorem toneVoice_spec (paused : Bool) (f d : Nat) (o : StartOptions) :
     let v := toneVoice paused f d o
     v.source = some (.tone f) ∧ v.left = d * 32 ∧ v.tonePhase = 0 ∧ v.volume = o.volume ∧ v.priority = o.priority ∧
     v.free = o.free ∧ v.notify = o.notify ∧ v.origin = o.origin ∧ v.release = false ∧
     (paused = false ∨ o.free = true → v.state = .tone ∧ v.prior = none) ∧
     (paused = true → o.free = false → v.state = .frozen ∧ v.prior = some .tone) := by
  by_cases h : paused = false ∨ o.free = true
  · have hv : toneVoice paused f d o = _ := Voice.begun_runs h
    rw [hv]
    refine ⟨rfl, rfl, rfl, rfl, rfl, rfl, rfl, rfl, rfl, fun _ => ⟨rfl, rfl⟩, fun hp hf => ?_⟩
    rcases h with h | h
    · rw [h] at hp; cases hp
    · rw [h] at hf; cases hf
  · simp only [not_or, Bool.not_eq_false, Bool.not_eq_true] at h
    obtain ⟨rfl, hf⟩ := h
    have hv : toneVoice true f d o = _ := Voice.begun_frozen hf
    rw [hv]
    refine ⟨rfl, rfl, rfl, rfl, rfl, rfl, rfl, rfl, rfl, fun h => ?_, fun _ _ => ⟨rfl, rfl⟩⟩
    rcases h with h | h
    · cases h
    · rw [h] at hf; cases hf

theorem clipVoice_spec (paused : Bool) (id : Nat) (y : Layout) (pitch count : Nat) (o : StartOptions) :
     let v := clipVoice paused id y pitch count o
     let w := clipVoice false id y pitch count o
     v.source = some (.region id) ∧ v.volume = o.volume ∧ v.priority = o.priority ∧ v.loopCount = count ∧
     v.free = o.free ∧ v.notify = o.notify ∧ v.origin = o.origin ∧
     (paused = true → o.free = false → v = { w with state := .frozen, prior := some w.state }) ∧
     (paused = false ∨ o.free = true → v = w ∧ w.prior = none) := by
  by_cases h : paused = false ∨ o.free = true
  · have hv : clipVoice paused id y pitch count o = clipVoice false id y pitch count o :=
      (Voice.begun_runs h).trans (Voice.begun_runs (.inl rfl)).symm
    rw [hv]
    refine ⟨rfl, rfl, rfl, rfl, rfl, rfl, rfl, fun hp hf => ?_, fun _ => ⟨rfl, rfl⟩⟩
    rcases h with h | h
    · rw [h] at hp; cases hp
    · rw [h] at hf; cases hf
  · simp only [not_or, Bool.not_eq_false, Bool.not_eq_true] at h
    obtain ⟨rfl, hf⟩ := h
    have hv : clipVoice true id y pitch count o = _ := Voice.begun_frozen hf
    rw [hv]
    refine ⟨rfl, rfl, rfl, rfl, rfl, rfl, rfl, fun _ _ => rfl, fun h => ?_⟩
    rcases h with h | h
    · cases h
    · rw [h] at hf; cases hf

/-! ### PLAY (R131) -/

/-- What a start asks for by the fields of a PLAY. -/
def PlayFields.options (x : PlayFields) (l : Link) : StartOptions :=
  { volume := x.volume.get?.getD 255, priority := x.priority.get?.getD 0, free := x.free.get?.getD false,
    notify := x.notify.get?.getD true, origin := if l = .primary then .primary else .remote }

/-- What a start asks for by the fields of a PLAY_TONE. -/
def ToneFields.options (x : ToneFields) (l : Link) : StartOptions :=
  { volume := x.volume.get?.getD 255, priority := x.priority.get?.getD 0, free := x.free.get?.getD false,
    notify := x.notify.get?.getD true, origin := if l = .primary then .primary else .remote }

theorem linkOrigin_eq (l : Link) : linkOrigin l = if l = .primary then .primary else .remote := by cases l <;> rfl

/-- The voice of a PLAY's fields. -/
def PlayFields.voice (x : PlayFields) (paused : Bool) (id : Nat) (y : Layout) (l : Link) : Voice :=
  clipVoice paused id y (keptPitch (x.pitch.get?.getD 1000)) (x.loopCount.get?.getD 1) (x.options l)

theorem PlayFields.voice_priority (x : PlayFields) (paused : Bool) (id : Nat) (y : Layout) (l : Link) :
    (x.voice paused id y l).priority = (x.options l).priority := clipVoice_priority _ _ _ _ _ _

theorem stolenField_none (k : Nat) (i : VoiceId) : stolenField k { voice := i, stolen := none } = [] := rfl

theorem stolenField_some (k : Nat) (i : VoiceId) (o : Origin) :
    stolenField k { voice := i, stolen := some o } = fieldNat k 1 (originCode o) := rfl

/-- The reply of a PLAY, CLAMPED when the pitch was held. -/
def playAnswer (pitch : Nat) (info : List Byte) : Reply :=
  if keptPitch pitch = pitch then .plain .ok info else .clamped [4] (fieldNat 1 2 (keptPitch pitch) ++ info)

section
variable {f : SoundFeed} {st : Store} {l : Link} {fs : Fields} {x : Mixer}

theorem Mixer.play_power (hp : f.power = .critical) :
    x.play f st l fs = MixerAnswer.none x (Reply.refuse .power) := by
  simp only [Mixer.play, hp, if_true]

theorem Mixer.playTone_power (hp : f.power = .critical) :
    x.playTone f l fs = MixerAnswer.none x (Reply.refuse .power) := by
  simp only [Mixer.playTone, hp, if_true]

variable (hp : f.power ≠ .critical)
include hp

theorem Mixer.play_bad (hb : (PlayFields.read fs).bad ≠ []) :
    x.play f st l fs = MixerAnswer.none x (.invalid (PlayFields.read fs).bad) := by
  simp only [Mixer.play, if_neg hp, if_pos hb]

theorem Mixer.playTone_bad (hb : (ToneFields.read fs).bad ≠ []) :
    x.playTone f l fs = MixerAnswer.none x (.invalid (ToneFields.read fs).bad) := by
  simp only [Mixer.playTone, if_neg hp, if_pos hb]

section
variable {id : Nat} (hb : (PlayFields.read fs).bad = []) (hr : (PlayFields.read fs).region = .val id)
include hb hr

theorem Mixer.play_unplayable {y : Reply} (hy : st.playable id = .error y) :
    x.play f st l fs = MixerAnswer.none x y := by
  have hid : (PlayFields.read fs).region.get?.getD 0 = id := Val.getD_val hr
  simp only [Mixer.play, if_neg hp, hb, ne_eq, not_true_eq_false, if_false, hid, Mixer.startClip, hy]

theorem Mixer.play_of {y : Layout} (hy : st.playable id = .ok y) :
    x.play f st l fs =
      match x.start f.power f.time ((PlayFields.read fs).voice f.paused id y l) with
        | (x1, ns, some s) =>
          { mixer := x1, sent := ns,
            reply := playAnswer ((PlayFields.read fs).pitch.get?.getD 1000)
              (fieldNat 2 1 s.voice.num ++ stolenField 3 s) }
        | (_, _, none) => MixerAnswer.none x (Reply.refuse .noVoice) := by
  have hid : (PlayFields.read fs).region.get?.getD 0 = id := Val.getD_val hr
  have h := Mixer.play_started (f := f) (st := st) (l := l) (x := x) hp hb (by rw [hid]; exact hy)
    ((PlayFields.read fs).options l) (by rw [linkOrigin_eq]; rfl) _ rfl
  rw [hid] at h
  refine h.trans ?_
  rw [PlayFields.voice]
  generalize x.start _ _ _ = z
  obtain ⟨x1, ns, _ | s⟩ := z <;> rfl

section
variable {y : Layout} (hy : st.playable id = .ok y)
include hy

theorem Mixer.play_refused (hg : x.arbiter f.power ((PlayFields.read fs).options l).priority = .refused) :
    x.play f st l fs = MixerAnswer.none x (Reply.refuse .noVoice) := by
  rw [Mixer.play_of hp hb hr hy, Mixer.start_refused (by rw [PlayFields.voice_priority]; exact hg)]

variable {i : VoiceId}

theorem Mixer.play_free (hg : x.arbiter f.power ((PlayFields.read fs).options l).priority = .free i) :
    x.play f st l fs =
      { mixer := x.fillVoice i ((PlayFields.read fs).voice f.paused id y l), sent := [],
        reply := playAnswer ((PlayFields.read fs).pitch.get?.getD 1000) (fieldNat 2 1 i.num) } := by
  rw [Mixer.play_of hp hb hr hy, Mixer.start_free (by rw [PlayFields.voice_priority]; exact hg)]
  simp only [stolenField_none, List.append_nil]

theorem Mixer.play_steal (hg : x.arbiter f.power ((PlayFields.read fs).options l).priority = .steal i) :
    x.play f st l fs =
      { mixer := x.fillVoice i ((PlayFields.read fs).voice f.paused id y l),
        sent := voiceEndNotice f.time i (x.voices.get i) .stolen,
        reply := playAnswer ((PlayFields.read fs).pitch.get?.getD 1000)
          (fieldNat 2 1 i.num ++ fieldNat 3 1 (originCode (x.voices.get i).origin)) } := by
  rw [Mixer.play_of hp hb hr hy, Mixer.start_steal (by rw [PlayFields.voice_priority]; exact hg)]
  simp only [stolenField_some]

end

end

/-! ### PLAY_TONE (R132) -/

section
variable {q d : Nat} (hb : (ToneFields.read fs).bad = []) (hq : (ToneFields.read fs).freq = .val q)
  (hd : (ToneFields.read fs).duration = .val d)
include hb hq hd

theorem Mixer.playTone_of :
    x.playTone f l fs =
      match x.start f.power f.time (toneVoice f.paused q d ((ToneFields.read fs).options l)) with
        | (x1, ns, some s) =>
          { mixer := x1, sent := ns, reply := .plain .ok (fieldNat 1 1 s.voice.num ++ stolenField 2 s) }
        | (_, _, none) => MixerAnswer.none x (Reply.refuse .noVoice) := by
  have hq' : (ToneFields.read fs).freq.get?.getD 50 = q := Val.getD_val hq
  have hd' : (ToneFields.read fs).duration.get?.getD 1 = d := Val.getD_val hd
  have h := Mixer.playTone_started (f := f) (l := l) (x := x) hp hb ((ToneFields.read fs).options l)
    (by rw [linkOrigin_eq]; rfl)
  rw [hq', hd'] at h
  refine h.trans ?_
  generalize x.start _ _ _ = z
  obtain ⟨x1, ns, _ | s⟩ := z <;> rfl

theorem Mixer.playTone_refused (hg : x.arbiter f.power ((ToneFields.read fs).options l).priority = .refused) :
    x.playTone f l fs = MixerAnswer.none x (Reply.refuse .noVoice) := by
  rw [Mixer.playTone_of hp hb hq hd, Mixer.start_refused (by rw [toneVoice_priority]; exact hg)]

variable {i : VoiceId}

theorem Mixer.playTone_free (hg : x.arbiter f.power ((ToneFields.read fs).options l).priority = .free i) :
    x.playTone f l fs =
      { mixer := x.fillVoice i (toneVoice f.paused q d ((ToneFields.read fs).options l)), sent := [],
        reply := .plain .ok (fieldNat 1 1 i.num) } := by
  rw [Mixer.playTone_of hp hb hq hd, Mixer.start_free (by rw [toneVoice_priority]; exact hg)]
  simp only [stolenField_none, List.append_nil]

theorem Mixer.playTone_steal (hg : x.arbiter f.power ((ToneFields.read fs).options l).priority = .steal i) :
    x.playTone f l fs =
      { mixer := x.fillVoice i (toneVoice f.paused q d ((ToneFields.read fs).options l)),
        sent := voiceEndNotice f.time i (x.voices.get i) .stolen,
        reply := .plain .ok (fieldNat 1 1 i.num ++ fieldNat 2 1 (originCode (x.voices.get i).origin)) } := by
  rw [Mixer.playTone_of hp hb hq hd, Mixer.start_steal (by rw [toneVoice_priority]; exact hg)]
  simp only [stolenField_some]

end

end

theorem State.entered_play (s : State) (channel : Byte) (r : Req) (fs : Fields) :
    (s.entered channel r).mixer.play (s.entered channel r).soundFeed (s.entered channel r).store r.link fs =
      s.mixer.play s.soundFeed s.store r.link fs := by
  rw [State.entered_mixer, State.entered_soundFeed, State.entered_store]

theorem State.entered_playTone (s : State) (channel : Byte) (r : Req) (fs : Fields) :
    (s.entered channel r).mixer.playTone (s.entered channel r).soundFeed r.link fs =
      s.mixer.playTone s.soundFeed r.link fs := by
  rw [State.entered_mixer, State.entered_soundFeed]

/-- Settles O52. -/
theorem playStartsAVoiceOfTheArbiter : Obligations.PlayStartsAVoiceOfTheArbiter := by
  unfold Obligations.PlayStartsAVoiceOfTheArbiter
  refine ⟨fun x power priority i => ⟨Mixer.arbiter_free_spec, Mixer.arbiter_steal_spec, Mixer.arbiter_refused_spec⟩,
    Mixer.fillVoice_spec, fun r fs i s hc hf => ⟨?power, fun ha hp hb => ?badPlay, fun id ha hp hb hr => ⟨fun y hy => ?_,
      fun y hy => ⟨fun hg => ?_, fun hg => ?_, fun hg => ?_⟩⟩, fun ha hp hb => ?badTone,
      fun f d ha hp hb hq hd => ⟨fun hg => ?_, fun hg => ?_, fun hg => ?_⟩⟩,
    fun fs => ?fields, fun st id => ⟨Store.playable_missing, fun g hg => ⟨Store.playable_capture hg,
      Store.playable_barred hg, fun y => Store.playable_ok hg⟩⟩, toneVoice_spec, clipVoice_spec⟩
  case fields =>
    obtain ⟨h1, h2, h3, h4, h5⟩ := PlayFields.bad_spec fs
    exact ⟨h1, h2, h3, h4, h5, ToneFields.bad_spec fs⟩
  case power =>
    simp only [List.forall_mem_cons]
    refine ⟨fun ha hp => ?_, fun ha hp => ?_, fun _ h => nomatch h⟩
    · exact congrArg Host.Outcome.next (takeRequest_mixer_none
        (fun l fs t => t.mixer.play t.soundFeed t.store l fs) ha hc hf
        ((State.entered_play s 0x48 r fs).trans (Mixer.play_power hp)))
    · exact congrArg Host.Outcome.next (takeRequest_mixer_none
        (fun l fs t => t.mixer.playTone t.soundFeed l fs) ha hc hf
        ((State.entered_playTone s 0x49 r fs).trans (Mixer.playTone_power hp)))
  case badPlay =>
    exact congrArg Host.Outcome.next (takeRequest_mixer_none
      (fun l fs t => t.mixer.play t.soundFeed t.store l fs) ha hc hf
      ((State.entered_play s 0x48 r fs).trans (Mixer.play_bad hp hb)))
  case badTone =>
    exact congrArg Host.Outcome.next (takeRequest_mixer_none
      (fun l fs t => t.mixer.playTone t.soundFeed l fs) ha hc hf
      ((State.entered_playTone s 0x49 r fs).trans (Mixer.playTone_bad hp hb)))
  · exact congrArg Host.Outcome.next (takeRequest_mixer_none
      (fun l fs t => t.mixer.play t.soundFeed t.store l fs) ha hc hf
      ((State.entered_play s 0x48 r fs).trans (Mixer.play_unplayable hp hb hr hy)))
  · exact congrArg Host.Outcome.next (takeRequest_mixer_none
      (fun l fs t => t.mixer.play t.soundFeed t.store l fs) ha hc hf
      ((State.entered_play s 0x48 r fs).trans (Mixer.play_refused hp hb hr hy hg)))
  · exact congrArg Host.Outcome.next (takeRequest_mixer_quiet
      (fun l fs t => t.mixer.play t.soundFeed t.store l fs) ha hc hf
      ((State.entered_play s 0x48 r fs).trans (Mixer.play_free hp hb hr hy hg)))
  · exact congrArg Host.Outcome.next (takeRequest_mixer
      (fun l fs t => t.mixer.play t.soundFeed t.store l fs) ha hc hf
      ((State.entered_play s 0x48 r fs).trans (Mixer.play_steal hp hb hr hy hg)))
  · exact congrArg Host.Outcome.next (takeRequest_mixer_none
      (fun l fs t => t.mixer.playTone t.soundFeed l fs) ha hc hf
      ((State.entered_playTone s 0x49 r fs).trans (Mixer.playTone_refused hp hb hq hd hg)))
  · exact congrArg Host.Outcome.next (takeRequest_mixer_quiet
      (fun l fs t => t.mixer.playTone t.soundFeed l fs) ha hc hf
      ((State.entered_playTone s 0x49 r fs).trans (Mixer.playTone_free hp hb hq hd hg)))
  · exact congrArg Host.Outcome.next (takeRequest_mixer
      (fun l fs t => t.mixer.playTone t.soundFeed l fs) ha hc hf
      ((State.entered_playTone s 0x49 r fs).trans (Mixer.playTone_steal hp hb hq hd hg)))

end Sys2Proof.Machine
end

section
/-! A voice at an output event: clips and tones (R132 to R135). -/

namespace Sys2Proof.Machine

/-! ### A clip at the end of its areas (R133) -/

/-- The last check of an advance: at the end of the clip the voice becomes FREE. -/
def Voice.endChecked (y : Layout) (v : Voice) : Voice := if v.state = .tail ∧ y.total ≤ v.index then v.freed else v

section
variable {y : Layout} {v : Voice}

theorem Voice.endChecked_frame :
    (v.endChecked y).pos = v.pos ∧ (v.endChecked y).passes = v.passes ∧ (v.endChecked y).covered = v.covered ∧
      (v.endChecked y).pathMark = v.pathMark := by
  unfold Voice.endChecked
  split <;> exact ⟨rfl, rfl, rfl, rfl⟩

theorem Voice.endChecked_tail (h : v.state = .tail) :
    (v.endChecked y).state = if v.index < y.total then .tail else .free := by
  unfold Voice.endChecked
  by_cases hi : v.index < y.total
  · rw [if_neg (by omega), if_pos hi, h]
  · rw [if_pos ⟨h, by omega⟩, if_neg hi]
    rfl

theorem Voice.endChecked_other (h : v.state ≠ .tail) : v.endChecked y = v := if_neg (fun hc => h hc.1)

theorem Voice.afterAdvance_of_loop (h : (v.leaveHead y).state = .loop) :
    v.afterAdvance y = (Voice.wrapLoop y ((v.leaveHead y).index + 1) (v.leaveHead y)).endChecked y := by
  simp only [Voice.afterAdvance, h, if_true]
  rfl

theorem Voice.afterAdvance_of_not_loop (h : (v.leaveHead y).state ≠ .loop) :
    v.afterAdvance y = (v.leaveHead y).endChecked y := by
  simp only [Voice.afterAdvance, h, if_false]
  rfl

theorem Voice.leaveHead_stays (h : v.state ≠ .head ∨ v.index < y.head) : v.leaveHead y = v := by
  rw [Voice.leaveHead, if_neg]
  rintro ⟨hs, hi⟩
  rcases h with h | h
  · exact h hs
  · omega

/-- The voice is in the loop, or comes into it from the head. -/
def Voice.InLoop (y : Layout) (v : Voice) : Prop :=
  v.state = .loop ∨ (v.state = .head ∧ y.head ≤ v.index ∧ y.loop ≠ 0 ∧ v.release = false)

/-- The voice is in the tail, or comes into it from the head of a clip without a loop. -/
def Voice.InTail (y : Layout) (v : Voice) : Prop := v.state = .tail ∨ (v.state = .head ∧ y.head ≤ v.index ∧ y.loop = 0)

theorem Voice.leaveHead_inLoop (h : v.InLoop y) : v.leaveHead y = { v with state := .loop } := by
  rcases h with h | ⟨hs, hi, hl, hr⟩
  · rw [Voice.leaveHead_stays (.inl (by rw [h]; decide)), ← h]
  · rw [Voice.leaveHead, if_pos ⟨hs, hi⟩, if_pos ⟨hl, hr⟩]

theorem Voice.leaveHead_inTail (h : v.InTail y) : v.leaveHead y = { v with state := .tail } := by
  rcases h with h | ⟨hs, hi, hl⟩
  · rw [Voice.leaveHead_stays (.inl (by rw [h]; decide)), ← h]
  · rw [Voice.leaveHead, if_pos ⟨hs, hi⟩, if_neg (fun hc => hc.1 hl), if_pos hl]

theorem Voice.afterAdvance_head (hs : v.state = .head) (h : v.index < y.head) : v.afterAdvance y = v := by
  have hl := Voice.leaveHead_stays (y := y) (.inr h)
  rw [Voice.afterAdvance_of_not_loop (by rw [hl, hs]; decide), hl, Voice.endChecked_other (by rw [hs]; decide)]

/-- A voice released in its head goes past the loop. -/
def Voice.pastLoop (y : Layout) (v : Voice) : Voice :=
  { v with state := .tail, pos := v.pos + y.loop * 65536, covered := v.covered ++ [(v.pathMark, y.head - 1)],
           pathMark := y.head + y.loop }

theorem Voice.afterAdvance_released (hs : v.state = .head) (hi : y.head ≤ v.index) (hl : y.loop ≠ 0)
    (hr : v.release = true) : v.afterAdvance y = (v.pastLoop y).endChecked y := by
  have hlv : v.leaveHead y = v.pastLoop y := by
    rw [Voice.leaveHead, if_pos ⟨hs, hi⟩, if_neg (fun hc => by rw [hr] at hc; cases hc.2), if_neg hl]
    rfl
  rw [Voice.afterAdvance_of_not_loop (by rw [hlv, Voice.pastLoop]; exact nofun), hlv]

theorem Voice.afterAdvance_inTail (h : v.InTail y) : v.afterAdvance y = Voice.endChecked y { v with state := .tail } := by
  have hlv := Voice.leaveHead_inTail h
  rw [Voice.afterAdvance_of_not_loop (by rw [hlv]; exact nofun), hlv]

/-- A voice that has passed the end of the loop and begins another pass. -/
def Voice.wrapped (y : Layout) (v : Voice) : Voice :=
  { v with state := .loop, passes := min 255 (v.passes + 1), loopCopy := y.loopStart,
           pos := v.pos - (y.loop - y.loopStart) * 65536,
           covered := v.covered ++ [(v.pathMark, y.head + y.loop - 1)], pathMark := y.head + y.loopStart }

section
variable (h : v.InLoop y)
include h

theorem Voice.afterAdvance_inLoop : v.afterAdvance y =
    (Voice.wrapLoop y (v.index + 1) { v with state := .loop }).endChecked y := by
  have hlv := Voice.leaveHead_inLoop h
  rw [Voice.afterAdvance_of_loop (by rw [hlv]), hlv]
  rfl

theorem Voice.afterAdvance_inside (hi : v.index < y.head + y.loop) : v.afterAdvance y = { v with state := .loop } := by
  have hw := Voice.wrapLoop_inside (v := { v with state := .loop }) (v.index + 1) hi
  rw [Voice.afterAdvance_inLoop h]
  exact (congrArg (Voice.endChecked y) hw).trans (Voice.endChecked_other nofun)

variable (hi : y.head + y.loop ≤ v.index)
include hi

theorem Voice.afterAdvance_last
    (hl : v.release = true ∨ (v.loopCount ≠ 0 ∧ min 255 (v.passes + 1) = v.loopCount)) :
    v.afterAdvance y = Voice.endChecked y { v with passes := min 255 (v.passes + 1), state := .tail } := by
  have hw := Voice.wrapLoop_last (v := { v with state := .loop }) v.index hi hl
  rw [Voice.afterAdvance_inLoop h, hw]

theorem Voice.afterAdvance_wraps
    (hl : ¬(v.release = true ∨ (v.loopCount ≠ 0 ∧ min 255 (v.passes + 1) = v.loopCount)))
    (hb : (v.pos - (y.loop - y.loopStart) * 65536) / 65536 < y.head + y.loop) :
    v.afterAdvance y = v.wrapped y := by
  have hw := Voice.wrapLoop_once (v := { v with state := .loop }) v.index hi hl
  have hin : Voice.wrapLoop y v.index (v.wrapped y) = v.wrapped y := Voice.wrapLoop_inside _ hb
  rw [Voice.afterAdvance_inLoop h]
  exact (congrArg (Voice.endChecked y) (hw.trans hin)).trans (Voice.endChecked_other nofun)

end

end

/-! ### A voice's step (R133, R134) -/

/-- A FORWARD voice after its step, before the checks at the ends of its areas. -/
def Voice.stepped (v : Voice) : Voice := { v with pos := v.pos + v.step, covered := [], pathMark := v.index + 1 }

section
variable {y : Layout} {v : Voice}

theorem Voice.advanced_forward (h : y.reverse = false) : v.advanced y = v.stepped.afterAdvance y := by
  rw [Voice.advanced, h]
  rfl

theorem Voice.advanced_reverse (h : y.reverse = true) :
    v.advanced y =
      if v.pos < v.step then { v.freed with pos := 0, covered := [], pathMark := v.index }
      else { v with pos := v.pos - v.step, covered := [], pathMark := v.index } := by
  rw [Voice.advanced, if_pos h]

/-- What an advance leaves of a voice. -/
theorem Voice.advanced_frame (y : Layout) (v : Voice) :
    (v.advanced y).step = v.step ∧ (v.advanced y).volume = v.volume ∧ (v.advanced y).release = v.release ∧
      (v.advanced y).loopCount = v.loopCount ∧ (v.advanced y).source = v.source ∧
      (v.advanced y).origin = v.origin ∧ (v.advanced y).notify = v.notify := by
  cases h : y.reverse
  · rw [Voice.advanced_forward h]
    exact Voice.afterAdvance_frame y v.stepped
  · rw [Voice.advanced_reverse h]
    split <;> exact ⟨rfl, rfl, rfl, rfl, rfl, rfl, rfl⟩

/-- R133: the checks after a FORWARD advance, case by case. -/
theorem Voice.afterAdvance_spec (y : Layout) (v : Voice) :
      let w := v.stepped.afterAdvance y
      let read := v.pos / 65536
      let next := v.pos + v.step
      let j := next / 65536
      let back := next - (y.loop - y.loopStart) * 65536
      let total := y.head + y.loop + y.tail
      let n := min 255 (v.passes + 1)
      let last : Prop := v.release = true ∨ (v.loopCount ≠ 0 ∧ n = v.loopCount)
      let inLoop : Prop := v.state = .loop ∨ (v.state = .head ∧ y.head ≤ j ∧ y.loop ≠ 0 ∧ v.release = false)
      let inTail : Prop := v.state = .tail ∨ (v.state = .head ∧ y.head ≤ j ∧ y.loop = 0)
      (v.state = .head → j < y.head → w.state = .head ∧ w.pos = next ∧ w.passes = v.passes) ∧
      (v.state = .head → y.head ≤ j → y.loop ≠ 0 → v.release = true →
        w.pos = next + y.loop * 65536 ∧ w.state = if j + y.loop < total then .tail else .free) ∧
      (inLoop → j < y.head + y.loop → w.state = .loop ∧ w.pos = next ∧ w.passes = v.passes) ∧
      (inLoop → y.head + y.loop ≤ j → last →
        w.passes = n ∧ w.pos = next ∧ w.state = if j < total then .tail else .free) ∧
      (inLoop → y.head + y.loop ≤ j → ¬ last → back / 65536 < y.head + y.loop →
        w.passes = n ∧ w.pos = back ∧ w.loopCopy = y.loopStart ∧ w.state = .loop ∧
        w.covered = [(read + 1, y.head + y.loop - 1)] ∧ w.pathMark = y.head + y.loopStart) ∧
      (inTail → w.pos = next ∧ w.passes = v.passes ∧ w.state = if j < total then .tail else .free) := by
  intro w read next j back total n last inLoop inTail
  refine ⟨fun hs hi => ?head, fun hs hi hl hr => ?released, fun h hi => ?inside, fun h hi hl => ?last,
    fun h hi hl hb => ?wraps, fun h => ?tail⟩
  case head =>
    have hw : w = v.stepped := Voice.afterAdvance_head (v := v.stepped) hs hi
    rw [hw]
    exact ⟨hs, rfl, rfl⟩
  case released =>
    have hw : w = _ := Voice.afterAdvance_released (v := v.stepped) hs hi hl hr
    rw [hw]
    obtain ⟨hpos, -, -, -⟩ := Voice.endChecked_frame (y := y) (v := v.stepped.pastLoop y)
    refine ⟨hpos, (Voice.endChecked_tail rfl).trans ?_⟩
    have hidx : (next + y.loop * 65536) / 65536 = j + y.loop := Nat.add_mul_div_right _ _ (by decide)
    exact congrArg (fun a => if a < total then VoiceState.tail else .free) hidx
  case inside =>
    have hw : w = _ := Voice.afterAdvance_inside (v := v.stepped) h hi
    rw [hw]
    exact ⟨rfl, rfl, rfl⟩
  case last =>
    have hw : w = _ := Voice.afterAdvance_last (v := v.stepped) h hi hl
    rw [hw]
    obtain ⟨hpos, hpass, -, -⟩ := Voice.endChecked_frame (y := y) (v :=
      { v.stepped with passes := min 255 (v.stepped.passes + 1), state := .tail })
    exact ⟨hpass, hpos, Voice.endChecked_tail rfl⟩
  case wraps =>
    have hw : w = _ := Voice.afterAdvance_wraps (v := v.stepped) h hi hl hb
    rw [hw]
    exact ⟨rfl, rfl, rfl, rfl, rfl, rfl⟩
  case tail =>
    have hw : w = _ := Voice.afterAdvance_inTail (v := v.stepped) h
    rw [hw]
    obtain ⟨hpos, hpass, -, -⟩ := Voice.endChecked_frame (y := y) (v := { v.stepped with state := .tail })
    exact ⟨hpos, hpass, Voice.endChecked_tail rfl⟩

/-- R135: an advance that does not pass the end of the loop leaves a path that begins behind the read. -/
theorem Voice.afterAdvance_path (hs : v.state = .head ∨ v.state = .loop ∨ v.state = .tail)
    (hi : v.stepped.index < y.head + y.loop) (hr : v.release = false) :
    (v.stepped.afterAdvance y).covered = [] ∧ (v.stepped.afterAdvance y).pathMark = v.pos / 65536 + 1 := by
  by_cases hh : v.state = .head ∧ v.stepped.index < y.head
  · rw [Voice.afterAdvance_head (v := v.stepped) hh.1 hh.2]
    exact ⟨rfl, rfl⟩
  · by_cases ht : v.state = .tail
    · rw [Voice.afterAdvance_inTail (v := v.stepped) (.inl ht)]
      obtain ⟨-, -, hc, hm⟩ := Voice.endChecked_frame (y := y) (v := { v.stepped with state := .tail })
      exact ⟨hc, hm⟩
    · have hl : v.stepped.InLoop y := by
        rcases hs with hs | hs | hs
        · have hhead : y.head ≤ v.stepped.index := Nat.not_lt.1 fun hlt => hh ⟨hs, hlt⟩
          exact .inr ⟨hs, hhead, by omega, hr⟩
        · exact .inl hs
        · exact absurd hs ht
      rw [Voice.afterAdvance_inside hl hi]
      exact ⟨rfl, rfl⟩

end

/-! ### Playing (R132 to R135) -/

section
variable {st : Store} {i : VoiceId} {v : Voice}

theorem Voice.play_silent (h : v.state = .free ∨ v.state = .frozen) :
    v.play st i = { sample := 0, voice := v, cue := none } := by
  rcases h with h | h <;> simp only [Voice.play, h]

theorem Voice.play_tone {f : Nat} (h : v.state = .tone) (hs : v.source = some (.tone f)) :
    v.play st i = { sample := toneSample v.tonePhase, voice := v.toneAdvanced f, cue := none } := by
  simp only [Voice.play, h, hs]

theorem Voice.toneAdvanced_eq {f : Nat} (h : v.state = .tone) :
    v.toneAdvanced f = { v with
      tonePhase := (v.tonePhase + 2 * f) % 64000, left := v.left - 1,
      state := if v.left ≤ 1 then .free else .tone, prior := if v.left ≤ 1 then none else v.prior } := by
  by_cases hl : v.left ≤ 1
  · have h0 : v.left - 1 = 0 := by omega
    simp only [Voice.toneAdvanced, h0, hl, if_true, Voice.freed]
  · have h0 : ¬v.left - 1 = 0 := by omega
    simp only [Voice.toneAdvanced, h0, hl, if_false, h]

theorem Voice.play_clip {id : Nat} {g : Region} {y : Layout} (hs : v.source = some (.region id))
    (hg : st.find id = some g) (hy : g.layout = some y) (h : v.state = .head ∨ v.state = .loop ∨ v.state = .tail) :
    v.play st i = { sample := st.sample g v.index, voice := v.advanced y, cue := v.cueEvent i id y } := by
  rcases h with h | h | h <;> simp only [Voice.play, h, hs, hg, hy]

/-- R135: the cue at a read. -/
theorem Voice.cueEvent_spec {id c : Nat} {y : Layout} (hc : y.cue = some c) :
    (y.reverse = false → (v.cueEvent i id y ≠ none ↔
      (v.pathMark ≤ c ∧ c ≤ v.pos / 65536) ∨ ∃ r ∈ v.covered, r.1 ≤ c ∧ c ≤ r.2)) ∧
    (y.reverse = true → (v.cueEvent i id y ≠ none ↔ v.pos / 65536 ≤ c ∧ c < v.pathMark)) ∧
    (∀ e, v.cueEvent i id y = some e → e.voice = i ∧ e.region = id ∧ e.offset = c ∧ e.passes = v.passes) := by
  have hne : v.cueEvent i id y ≠ none ↔ v.crosses y c = true := by
    simp [Voice.cueEvent, hc]
  refine ⟨fun h => ?_, fun h => ?_, fun e he => ?_⟩
  · have hx : v.crosses y c = true ↔ (v.pathMark ≤ c ∧ c ≤ v.index) ∨ ∃ r ∈ v.covered, r.1 ≤ c ∧ c ≤ r.2 := by
      simp [Voice.crosses, h, or_comm]
    exact hne.trans hx
  · have hx : v.crosses y c = true ↔ v.index ≤ c ∧ c < v.pathMark := by simp [Voice.crosses, h]
    exact hne.trans hx
  · simp only [Voice.cueEvent, hc, Option.bind_some] at he
    split at he
    · cases he
      exact ⟨rfl, rfl, rfl, rfl⟩
    · cases he

end

theorem mixSample_economy (x : Int) :
    mixSample .economy x % 16 = 0 ∧ mixSample .economy x ≤ x ∧ x < mixSample .economy x + 16 := by
  have h : mixSample .economy x = x / 16 * 16 := if_pos rfl
  rw [h]
  omega

theorem mixSample_other {z : PowerState} (h : z ≠ .economy) (x : Int) : mixSample z x = x := if_neg h

end Sys2Proof.Machine
end

section
/-! The output event: the sum of the voices, their notices, and the watch entries that hear their cues (R101, R138). -/

namespace Sys2Proof.Machine

theorem clipVoice_running (id : Nat) (y : Layout) (pitch count : Nat) (o : StartOptions) :
    let v := clipVoice false id y pitch count o
    v.step = y.rate * pitch * 65536 / (32000 * 1000) ∧ v.loopCopy = y.loopStart ∧ v.passes = 0 ∧ v.release = false ∧
    v.pos = (if y.reverse = true then (y.head + y.loop + y.tail - 1) * 65536 else 0) ∧
    v.covered = [] ∧ v.pathMark = (if y.reverse = true then y.head + y.loop + y.tail else 0) ∧
    v.state = (if y.reverse = true then .tail else if y.head ≠ 0 then .head else if y.loop ≠ 0 then .loop else .tail) := by
  intro v
  have hv : v = _ := Voice.begun_runs (.inl rfl)
  rw [hv]
  exact ⟨rfl, rfl, rfl, rfl, rfl, rfl, rfl, rfl⟩

/-! ### What the mixer does (R138) -/

/-- The sum of the four voices' samples times their volumes, scaled. -/
def Mixer.rawOutput (power : PowerState) (st : Store) (x : Mixer) : Int :=
  let sample (i : VoiceId) : Int := mixSample power ((x.voices.get i).play st i).sample * (x.voices.get i).volume
  let me := if power = .economy then min x.volume 128 else x.volume
  ((sample .n1 + sample .n2 + sample .n3 + sample .n4) * (me : Int)).tdiv 8192

/-- The VOICE_ENDs of an output event. -/
def Mixer.outputEnds (time : Word32) (st : Store) (x : Mixer) : List Sent :=
  Num4.all.flatMap (fun i =>
    let v := ((x.voices.get i).play st i).voice
    if (x.voices.get i).playing = true ∧ v.playing = false then voiceEndNotice time i v .ended else [])

/-- The cues of an output event, in voice order. -/
def Mixer.outputCues (st : Store) (x : Mixer) : List CueEvent :=
  Num4.all.filterMap (fun i => ((x.voices.get i).play st i).cue)

theorem Mixer.outputEvent_mixer (power : PowerState) (time : Word32) (st : Store) (x : Mixer) :
    (x.outputEvent power time st).mixer = { x with
      voices := (x.outputEvent power time st).mixer.voices,
      output := if x.amp then clamp (-2048) 2047 (x.rawOutput power st) else 0,
      clipped := x.clipped || decide (x.rawOutput power st < -2048 ∨ 2047 < x.rawOutput power st) } := by
  have hraw : scaleMix ((Num4.all.map (fun i => mixSample power
        (((Four.ofFn (fun i => (x.voices.get i).play st i)).get i).sample) * (x.voices.get i).volume)).sum)
      (masterVolume power x.volume) = x.rawOutput power st := by
    simp only [Four.get_ofFn, Num4.all, List.map_cons, List.map_nil, List.sum_cons, List.sum_nil, Int.add_zero,
      ← Int.add_assoc]
    rfl
  simp only [Mixer.outputEvent, hraw, clamp_ne]

theorem Mixer.outputEvent_get (power : PowerState) (time : Word32) (st : Store) (x : Mixer) (i : VoiceId) :
    (x.outputEvent power time st).mixer.voices.get i = ((x.voices.get i).play st i).voice := by
  simp only [Mixer.outputEvent, Four.get_map, Four.get_ofFn]

theorem Mixer.outputEvent_sent (power : PowerState) (time : Word32) (st : Store) (x : Mixer) :
    (x.outputEvent power time st).sent = x.outputEnds time st := by
  simp only [Mixer.outputEvent, Mixer.outputEnds, Four.get_ofFn, Bool.and_eq_true, Bool.not_eq_true']

theorem Mixer.outputEvent_cues (power : PowerState) (time : Word32) (st : Store) (x : Mixer) :
    (x.outputEvent power time st).cues = x.outputCues st := by
  simp only [Mixer.outputEvent, Mixer.outputCues, Four.get_ofFn]

/-! ### The cues reach the watch unit (R101) -/

/-- The part as the cues of an output event find it. -/
def State.mixed (s : State) : State :=
  s.withMixer ((s.mixer.outputEvent s.supply.power s.now s.store).mixer, s.mixer.outputEnds s.now s.store)

theorem State.outputEvent_eq (s : State) : s.outputEvent = (s.mixer.outputCues s.store).foldl State.handleCue s.mixed := by
  rw [State.outputEvent, Mixer.outputEvent_cues, Mixer.outputEvent_sent]
  rfl

theorem State.foldl_handleCue_frame (s : State) (cs : List CueEvent) :
    (cs.foldl State.handleCue s).store = s.store ∧ (cs.foldl State.handleCue s).sensors = s.sensors ∧
      (cs.foldl State.handleCue s).supply = s.supply := by
  induction cs generalizing s with
  | nil => exact ⟨rfl, rfl, rfl⟩
  | cons c cs ih => exact ih (s.handleCue c)

/-- A cue that no ACTIVE entry hears only sends its notice. -/
theorem State.handleCue_unheard {s : State} {c : CueEvent}
    (h : ∀ k e, s.watch.entries.get k = some e → e.on (fun a => a == .cue c.region) = false) :
    s.handleCue c = s.notifyAll (c.notices s.now) := by
  have hq : (s.notifyAll (c.notices s.now)).reach.cue (s.notifyAll (c.notices s.now)).watchFeed c.region c.voice =
      (s.notifyAll (c.notices s.now)).reach := congrArg Prod.fst (evalEach_quiet _ _ _ Num16.all _ h)
  exact (congrArg (State.withReach _) hq).trans (State.withReach_reach _)

/-- Cues that no ACTIVE entry hears only send their notices, one after another. -/
theorem State.foldl_handleCue_unheard (cs : List CueEvent) {s : State}
    (h : ∀ k e, s.watch.entries.get k = some e → ∀ g, e.source = .cue g → e.state ≠ .active) :
    cs.foldl State.handleCue s = s.notifyAll (cs.flatMap (CueEvent.notices s.now)) := by
  induction cs generalizing s with
  | nil => rfl
  | cons c cs ih =>
    have hc : s.handleCue c = s.notifyAll (c.notices s.now) := by
      refine State.handleCue_unheard fun k e he => ?_
      rw [Bool.eq_false_iff]
      intro hon
      simp only [Watch.on, Bool.and_eq_true, beq_iff_eq] at hon
      exact h k e he _ hon.2 hon.1
    rw [List.foldl_cons, hc]
    refine (ih (s := s.notifyAll (c.notices s.now)) h).trans ?_
    rw [List.flatMap_cons]
    simp only [State.notifyAll, Router.placeAll_append]
    rfl

/-- The state after a cue, its notice carrying the time given. -/
def State.hearCue (time : Word32) (s : State) (c : CueEvent) : State :=
  let y := s.notifyAll (c.notices time)
  y.withReach (evalEach (evalWith y.watchFeed 3) (fun a => a == .cue c.region) (fun _ => (c.voice.num : Int))
    Num16.all y.reach).1

theorem State.foldl_hearCue {time : Word32} (cs : List CueEvent) {s : State} (h : s.now = time) :
    cs.foldl State.handleCue s = cs.foldl (State.hearCue time) s := by
  induction cs generalizing s with
  | nil => rfl
  | cons c cs ih =>
    have hc : s.handleCue c = s.hearCue time c := by rw [← h]; rfl
    rw [List.foldl_cons, List.foldl_cons, ← hc]
    exact ih h

theorem flatMap_filterMap {α β γ : Type} (g : α → Option β) (h : β → List γ) (xs : List α) :
    (xs.filterMap g).flatMap h = xs.flatMap (fun a => match g a with | some c => h c | none => []) := by
  induction xs with
  | nil => rfl
  | cons a xs ih => cases ha : g a <;> simp [ha, ih]

/-- Without a cue, or without an entry that hears one, an output event sends the VOICE_ENDs and then the CUEs. -/
theorem State.outputEvent_unheard {s : State}
    (h : (∀ i, ((s.mixer.voices.get i).play s.store i).cue = none) ∨
      (∀ k e g, s.watch.entries.get k = some e → e.source = .cue g → e.state ≠ .active)) :
    s.outputEvent = s.mixed.notifyAll ((s.mixer.outputCues s.store).flatMap (CueEvent.notices s.now)) := by
  rw [State.outputEvent_eq]
  rcases h with h | h
  · have hno : s.mixer.outputCues s.store = [] := List.filterMap_eq_nil_iff.2 fun i _ => h i
    rw [hno]
    rfl
  · exact State.foldl_handleCue_unheard _ fun k e he g => h k e g he

/-- R101: the watch unit after one cue whose entries write no virtual input. -/
theorem State.hearCue_watch (time : Word32) (s : State) (c : CueEvent)
    (h : ∀ k e, s.watch.entries.get k = some e → e.source = .cue c.region → ∀ a ∈ e.actions, ∀ j b,
      a ≠ .setVirtual j b) :
    (s.hearCue time c).watch.virt = s.watch.virt ∧
      ∀ k, (s.hearCue time c).watch.entries.get k = (s.watch.entries.get k).map (fun e =>
        if e.state = .active ∧ e.source = .cue c.region then e.evaluated c.voice.num else e) := by
  obtain ⟨hvirt, hentry⟩ := evalEach_entries (s.notifyAll (c.notices time)).watchFeed (fun a => a == .cue c.region)
    (fun _ => (c.voice.num : Int)) (s.notifyAll (c.notices time)).reach (fun k e he hon => by
      simp only [Watch.on, Bool.and_eq_true, beq_iff_eq] at hon
      exact h k e he hon.2)
  refine ⟨hvirt, fun k => (hentry k).trans ?_⟩
  simp only [beq_iff_eq]
  rfl

/-- Settles O55. -/
theorem outputEventMixesTheVoices : Obligations.OutputEventMixesTheVoices := by
  unfold Obligations.OutputEventMixesTheVoices
  refine ⟨clipVoice_running, fun st i v id g y hsrc hg hy hs => ?clip, fun st i v => ⟨fun h => Voice.play_silent h,
    fun f hs hsrc => ?tone⟩, fun z x => ⟨fun h => mixSample_other h x, mixSample_economy x⟩, fun s hs hq => ?unheard,
    fun s hs => ?heard⟩
  case clip =>
    intro p w read
    have hp : p = _ := Voice.play_clip hsrc hg hy hs
    have hw : w = v.advanced y := congrArg Played.voice hp
    have hcue : p.cue = v.cueEvent i id y := congrArg Played.cue hp
    have hsample : p.sample = st.sample g v.index := congrArg Played.sample hp
    obtain ⟨f1, f2, f3, f4, f5, f6, f7⟩ := v.advanced_frame y
    rw [← hw] at f1 f2 f3 f4 f5 f6 f7
    refine ⟨hsample, f1, f2, f3, f4, f5, f6, f7, fun hr => ?forward, fun hr => ⟨fun h => ?_, fun h => ?_⟩, fun h => ?noCue,
      fun c h => ?cue⟩
    case forward =>
      have hf : w = v.stepped.afterAdvance y := hw.trans (Voice.advanced_forward hr)
      obtain ⟨a1, a2, a3, a4, a5, a6⟩ := Voice.afterAdvance_spec y v
      rw [← hf] at a1 a2 a3 a4 a5 a6
      refine ⟨a1, a2, a3, a4, a5, a6, fun hi hrel => ?_⟩
      rw [hf]
      exact Voice.afterAdvance_path hs hi hrel
    case noCue =>
      rw [hcue, Voice.cueEvent, h]
      rfl
    case cue =>
      rw [hcue]
      exact Voice.cueEvent_spec h
    · rw [hw, Voice.advanced_reverse hr, if_neg (Nat.not_lt.2 h)]
      exact ⟨rfl, rfl, rfl⟩
    · rw [hw, Voice.advanced_reverse hr, if_pos h]
      exact ⟨rfl, rfl⟩
  case tone =>
    have hp := Voice.play_tone (st := st) (i := i) hs hsrc
    rw [hp]
    exact ⟨rfl, rfl, Voice.toneAdvanced_eq hs⟩
  case unheard =>
    intro sample me raw
    have hm := Mixer.outputEvent_mixer s.supply.power s.now s.store s.mixer
    have hout : (s.mixer.outputEvent s.supply.power s.now s.store).mixer.output =
        if s.mixer.amp then clamp (-2048) 2047 raw else 0 := congrArg Mixer.output hm
    have hget := Mixer.outputEvent_get s.supply.power s.now s.store s.mixer
    have hrange : -2048 ≤ (s.mixer.outputEvent s.supply.power s.now s.store).mixer.output ∧
        (s.mixer.outputEvent s.supply.power s.now s.store).mixer.output ≤ 2047 := by
      rw [hout]
      split
      · exact clamp_mem (by decide) _
      · decide
    refine ⟨_, next_whenAwake hs (State.outputEvent_unheard hq), hout, hrange.1, hrange.2, congrArg Mixer.clipped hm, hget,
      fun i h => (hget i).trans (congrArg Played.voice (Voice.play_silent h)), fun i f hst hsrc => ?_, ?_,
      rfl, rfl, rfl, rfl, rfl, rfl⟩
    · have hv : ((s.mixer.voices.get i).play s.store i).voice = (s.mixer.voices.get i).toneAdvanced f :=
        congrArg Played.voice (Voice.play_tone hst hsrc)
      have ht := (hget i).trans (hv.trans (Voice.toneAdvanced_eq hst))
      exact ⟨congrArg Voice.left ht, congrArg Voice.tonePhase ht⟩
    · refine (Router.placeAll_append _ _ _).symm.trans ?_
      rw [Mixer.outputCues, flatMap_filterMap]
      refine congrArg s.router.placeAll (congrArg₂ (· ++ ·) rfl ?_)
      refine List.flatMap_congr fun i _ => ?_
      cases ((s.mixer.voices.get i).play s.store i).cue <;> rfl
  case heard =>
    intro cues sample me raw hear judged
    have hm := Mixer.outputEvent_mixer s.supply.power s.now s.store s.mixer
    have ht : s.outputEvent = cues.foldl hear s.mixed := s.outputEvent_eq.trans (State.foldl_hearCue _ rfl)
    obtain ⟨hstore, hsensors, hsupply⟩ := s.mixed.foldl_handleCue_frame (s.mixer.outputCues s.store)
    rw [← State.outputEvent_eq] at hstore hsensors hsupply
    refine ⟨s.mixed, _, next_whenAwake hs rfl, ht, Mixer.outputEvent_get s.supply.power s.now s.store s.mixer, hm, rfl, rfl, rfl, rfl, rfl, rfl, hstore,
      hsensors, hsupply, fun c hc hplain => ?_⟩
    have hone : s.outputEvent = s.mixed.hearCue s.now c := by rw [ht, hc]; rfl
    obtain ⟨hvirt, hentry⟩ := State.hearCue_watch s.now s.mixed c hplain
    rw [← hone] at hvirt hentry
    refine ⟨hvirt, fun k => (hentry k).trans ?_⟩
    refine congrArg (fun g => Option.map g (s.watch.entries.get k)) (funext fun e => ?_)
    by_cases hon : e.state = .active ∧ e.source = .cue c.region
    · rw [if_pos hon, if_pos hon, Watch.evaluated_active e _ hon.1]
    · rw [if_neg hon, if_neg hon]

end Sys2Proof.Machine
end

section
/-! What one control expiry leaves of a channel that no check ends and no barrier moves (R25 to R38, R57). -/

namespace Sys2Proof.Machine

/-! ### The record after the checks -/

/-- The record that the checks leave of a channel with a motor when they end and start nothing: the inputs read, the
counts of the checks gone on. -/
def Channel.counted (r : MotorReading) (o n : Nat) (b : Bool) (t i : Nat) (c : Channel) : Channel :=
  { c with enc := clamp (-2000000000) 2000000000 (c.enc + r.delta), mA := r.current, overCount := o, stallTimer := n,
           starved := b, settleTime := t, inTol := i }

/-- The record that the checks leave of a channel that rests, waits or is held. -/
def Channel.quieted (r : MotorReading) (c : Channel) : Channel := c.counted r 0 0 false c.settleTime c.inTol

theorem Channel.calmed_quieted {c : Channel} (r : MotorReading) (hk : c.kind ≠ .none) : c.calmed r = c.quieted r := by
  rw [Channel.calmed, Channel.readInputs, if_neg hk]
  rfl

theorem Channel.ran_counted (r : MotorReading) (o n : Nat) (b : Bool) (t i : Nat) (c : Channel) :
    Channel.ran (c.counted r o n b t i) = Channel.ran c := rfl

theorem Channel.sameMotion_frame {c d : Channel} (h : c.sameMotion d) :
    d.state = c.state ∧ d.current = c.current ∧ d.steps = c.steps ∧ d.firstStep = c.firstStep ∧ d.short = c.short ∧
      d.phase = c.phase := by
  obtain ⟨q, n, k, x, l, rfl⟩ := h
  exact ⟨rfl, rfl, rfl, rfl, rfl, rfl⟩

/-! ### The marks of a MOVE (R31) -/

/-- R31: the SHORT mark is decided at the first step and kept at every later one. -/
theorem Channel.work_marks (f : Feed) {c : Channel} {g : Segment} (hl : f.live = true) (hk : c.kind ≠ .none)
    (hs : c.state = .running) (hc : c.current = some g) (hg : g.isMove = true) :
    (c.work f).firstStep = false ∧
      (c.work f).short = if c.firstStep = true then startsShort c.q c.spd g.target g.decel else c.short := by
  have hcomp : c.computed f.live = true := by simp [Channel.computed, hl, hs]
  have hmove : c.commanded = (c.moveStep g).controlled := by
    unfold Channel.commanded
    rw [hs, hc]
    cases hkind : g.kind <;> simp_all [Segment.isMove]
  have hw : c.work f = { (c.moveStep g).controlled.outputDriven f with
      prevEnc := ((c.moveStep g).controlled.outputDriven f).enc } := by
    simp only [Channel.work, if_neg hk, hcomp, if_true, hmove]
  rw [hw]
  simp only [Channel.moveStep, Channel.outputDriven, Channel.controlled]
  split <;> exact ⟨rfl, rfl⟩

/-! ### A segment that goes on (R25) -/

section
variable {f : Feed} {x : Six MotorReading} {m : Motors} {p : MotorPort}

/-- R25: a channel outside IDLE that no check ends goes through the stages with its inputs read. -/
theorem Motors.expiry_goesOn (hk : (m.ch.get p).kind ≠ .none)
    (hc : absInt (x.get p).current ≤ 2 * ((m.ch.get p).kind.ratedCurrent : Int))
    (hst : (m.ch.get p).stallTimer + 1 < (m.ch.get p).stallTime) (hi : (m.ch.get p).state ≠ .idle)
    (hw : (m.ch.get p).waits = false)
    (hd : ∀ g, (m.ch.get p).current = some g → (m.ch.get p).durationUsed g = false)
    (hs : ∀ g, (m.ch.get p).current = some g → (m.ch.get p).state = .settling →
      (((m.ch.get p).readInputs (x.get p)).settleCounted g).inTol < g.settleCount ∧
        (m.ch.get p).settleTime + 1 < g.settleLimit)
    (hl : ∀ g, (m.ch.get p).current = some g → g.kind = .stop → (m.ch.get p).stopLands f.live = false) :
    ∃ o n b t i, (((m.ch.get p).counted (x.get p) o n b t i).work f).sameMotion ((m.expiry f x).1.ch.get p) := by
  obtain ⟨o, n, b, t, i, h⟩ := Channel.expiryChecks_goesOn (pause := m.pause) (p := p) hk hi hc hst hd hs hl
  have hread : { (m.ch.get p).readInputs (x.get p) with
      overCount := o, stallTimer := n, starved := b, settleTime := t, inTol := i } =
      (m.ch.get p).counted (x.get p) o n b t i := by
    rw [Channel.readInputs, if_neg hk]
    rfl
  rw [hread] at h
  exact ⟨o, n, b, t, i, Motors.expiry_left (congrArg Checked.ch h) hw⟩

theorem Channel.waits_of_running {c : Channel} (h : c.state = .running ∨ c.state = .settling ∨ c.state = .idle) :
    c.waits = false := by
  rcases h with h | h | h <;> simp [Channel.waits, h]

theorem Motors.expiry_calm {c : Channel} (hchecks : (m.ch.get p).expiryChecks m.pause f p (x.get p) = Checked.quiet c)
    (hw : c.waits = false) : (c.work f).sameMotion ((m.expiry f x).1.ch.get p) :=
  Motors.expiry_left (congrArg Checked.ch hchecks) hw

/-- R56: a held channel whose held action is HOLD is computed. -/
theorem Channel.computed_hold {live : Bool} {c : Channel} (hl : live = true) (hs : c.state = .held)
    (hph : c.phase = .stopping ∨ c.phase = .holding) (ha : c.heldAction = none ∨ c.heldAction = some .hold) :
    c.computed live = true := by
  have hphase : (c.phase == .stopping || c.phase == .holding) = true := by simpa using hph
  have haction : (c.heldAction.getD .hold == .hold) = true := by rcases ha with h | h <;> rw [h] <;> rfl
  simp only [Channel.computed, hs, hl, hphase, haction, Bool.and_self]

section
variable (hk : (m.ch.get p).kind ≠ .none)
  (hc : absInt (x.get p).current ≤ 2 * ((m.ch.get p).kind.ratedCurrent : Int))
include hk hc

section
variable (hl : f.live = true) (hst : (m.ch.get p).stallTimer + 1 < (m.ch.get p).stallTime) {g : Segment}
include hl hst

/-- R28 to R35: a running segment that no check ends takes its one step. -/
theorem Motors.expiry_runs (hs : (m.ch.get p).state = .running) (hcur : (m.ch.get p).current = some g)
    (hd : g.kind = .duty ∨ g.kind = .speed → (m.ch.get p).steps < g.duration)
    (hstop : g.kind = .stop → (stopStep (m.ch.get p).profile (m.ch.get p).stopRate).spd ≠ 0) :
    Channel.ran (m.ch.get p) ((m.expiry f x).1.ch.get p) g ∧ ((m.expiry f x).1.ch.get p).current = some g ∧
      (g.kind = .duty ∨ g.kind = .speed → ((m.expiry f x).1.ch.get p).steps = (m.ch.get p).steps + 1) ∧
      (g.isMove = true → ((m.expiry f x).1.ch.get p).firstStep = false ∧
        ((m.expiry f x).1.ch.get p).short = if (m.ch.get p).firstStep = true
          then startsShort (m.ch.get p).q (m.ch.get p).spd g.target g.decel else (m.ch.get p).short) := by
  obtain ⟨o, n, b, t, i, h⟩ := Motors.expiry_goesOn (f := f) hk hc hst (by rw [hs]; decide)
    (Channel.waits_of_running (.inl hs))
    (fun g' hg' => by
      obtain rfl : g = g' := Option.some.inj (hcur.symm.trans hg')
      simp only [Channel.durationUsed, hs, beq_self_eq_true, Bool.true_and, Bool.and_eq_false_iff, Bool.or_eq_false_iff,
        beq_eq_false_iff_ne, decide_eq_false_iff_not, Nat.not_le]
      by_cases hkind : g.kind = .duty ∨ g.kind = .speed
      · exact .inr (hd hkind)
      · exact .inl (not_or.1 hkind))
    (fun _ _ h => by rw [hs] at h; cases h)
    (fun g' hg' hkind => by
      obtain rfl : g = g' := Option.some.inj (hcur.symm.trans hg')
      simp [Channel.stopLands, hl, hs, hstop hkind])
  obtain ⟨-, hcurrent, hsteps, hfirst, hshort, -⟩ := Channel.sameMotion_frame h
  obtain ⟨hran, hcur', hsteps'⟩ := Channel.ran_work f ((m.ch.get p).counted (x.get p) o n b t i) g hl hk hs hcur
  rw [Channel.ran_counted] at hran
  refine ⟨Channel.ran_same h hran, hcurrent.trans (hcur'.trans hcur), fun hg => hsteps.trans (hsteps' hg), fun hg => ?_⟩
  obtain ⟨hf, hsh⟩ := Channel.work_marks f (c := (m.ch.get p).counted (x.get p) o n b t i) hl hk hs hcur hg
  exact ⟨hfirst.trans hf, hshort.trans hsh⟩

/-- R28, R44: a MOVE that is still settling keeps q and S. -/
theorem Motors.expiry_settles (hs : (m.ch.get p).state = .settling) (hcur : (m.ch.get p).current = some g)
    (hin : (if absInt (g.target - ((m.expiry f x).1.ch.get p).enc) ≤ g.tolerance then (m.ch.get p).inTol + 1 else 0)
      < g.settleCount) (hlim : (m.ch.get p).settleTime + 1 < g.settleLimit) :
    ((m.expiry f x).1.ch.get p).state = .settling ∧
      Channel.ruled (m.ch.get p) ((m.expiry f x).1.ch.get p) (m.ch.get p).profile := by
  obtain ⟨-, hmotor⟩ := Motors.expiry_motor f x m p
  obtain ⟨henc, -⟩ := hmotor hk
  obtain ⟨o, n, b, t, i, h⟩ := Motors.expiry_goesOn (f := f) hk hc hst (by rw [hs]; decide)
    (Channel.waits_of_running (.inr (.inl hs)))
    (fun g' _ => by simp [Channel.durationUsed, hs])
    (fun g' hg' _ => by
      obtain rfl : g = g' := Option.some.inj (hcur.symm.trans hg')
      rw [henc] at hin
      refine ⟨?_, hlim⟩
      rw [Channel.readInputs, if_neg hk]
      exact hin)
    (fun g' _ _ => by simp [Channel.stopLands, hs])
  obtain ⟨hstate, -⟩ := Channel.sameMotion_frame h
  obtain ⟨hruled, hsettling⟩ := Channel.settle_work f ((m.ch.get p).counted (x.get p) o n b t i) hl hk hs
  exact ⟨hstate.trans hsettling, Channel.ruled_same h hruled⟩

end

/-! ### A channel that rests, waits or is held (R26, R34, R57) -/

/-- A held channel that waits for no group. -/
theorem Motors.expiry_still (hs : (m.ch.get p).state = .held) (hr : (m.ch.get p).resume ≠ some .syncWait) :
    (((m.ch.get p).calmed (x.get p)).work f).sameMotion ((m.expiry f x).1.ch.get p) := by
  refine Motors.expiry_calm (Channel.expiryChecks_still hk (.inr hs) hc) ?_
  rw [Channel.calmed_quieted _ hk]
  simp [Channel.quieted, Channel.counted, Channel.waits, hs, hr]

variable (hl : f.live = true)
include hl

/-- R34, R57: a held channel whose held action is HOLD stops or holds, a MOVE cut at its target. -/
theorem Motors.expiry_held (hs : (m.ch.get p).state = .held) (hr : (m.ch.get p).resume ≠ some .syncWait)
    (hph : (m.ch.get p).phase = .stopping ∨ (m.ch.get p).phase = .holding)
    (ha : (m.ch.get p).heldAction = none ∨ (m.ch.get p).heldAction = some .hold) :
    ((m.expiry f x).1.ch.get p).state = .held ∧
      ((∀ g, (m.ch.get p).current = some g → g.isMove = false) →
        Channel.ruled (m.ch.get p) ((m.expiry f x).1.ch.get p) (stopStep (m.ch.get p).profile (m.ch.get p).stopRate)) ∧
      (∀ g, (m.ch.get p).current = some g → g.isMove = true →
        Channel.ruled (m.ch.get p) ((m.expiry f x).1.ch.get p)
          (heldMoveStep (m.ch.get p).profile (m.ch.get p).stopRate g.target)) := by
  have h := Motors.expiry_still (f := f) hk hc hs hr
  rw [Channel.calmed_quieted _ hk] at h
  have hcomp := Channel.computed_hold (c := (m.ch.get p).quieted (x.get p)) hl hs hph ha
  obtain ⟨-, -, -, -, hstate, -⟩ := Channel.work_frame f ((m.ch.get p).quieted (x.get p))
  have hrun : (m.ch.get p).state ≠ .running := by rw [hs]; decide
  have hset : (m.ch.get p).state ≠ .settling := by rw [hs]; decide
  refine ⟨(Channel.sameMotion_frame h).1.trans ((hstate hrun).trans hs), fun hno => ?_, fun g hg hmove => ?_⟩
  · exact Channel.ruled_same h (Channel.rest_work f ((m.ch.get p).quieted (x.get p)) hk hcomp hrun hset (fun _ => hno)).1
  · exact Channel.ruled_same h (Channel.heldMove_work f ((m.ch.get p).quieted (x.get p)) g hk hcomp hs hg hmove).1

/-- R26: a channel held with COAST or BRAKE follows its motor. -/
theorem Motors.expiry_heldFollows {a : Rest} (hs : (m.ch.get p).state = .held)
    (hr : (m.ch.get p).resume ≠ some .syncWait) (ha : (m.ch.get p).heldAction = some a) (hh : a ≠ .hold) :
    ((m.expiry f x).1.ch.get p).state = .held ∧ Channel.follows ((m.expiry f x).1.ch.get p) a := by
  have h := Motors.expiry_still (f := f) hk hc hs hr
  rw [Channel.calmed_quieted _ hk] at h
  have hcomp : ((m.ch.get p).quieted (x.get p)).computed f.live =
      false := by
    simp [Channel.quieted, Channel.counted, Channel.computed, hs, ha, hh]
  obtain ⟨hfollows, hstate⟩ := Channel.follow_work f ((m.ch.get p).quieted (x.get p)) a hl hk hcomp (by simp [Channel.quieted, Channel.counted, hs])
    (by simp [Channel.quieted, Channel.counted, Channel.restInForce, hs, ha]) hh
  exact ⟨(Channel.sameMotion_frame h).1.trans (hstate.trans hs), Channel.follows_same h hfollows⟩

/-- R26, R34: a channel at rest holds, or follows its motor. -/
theorem Motors.expiry_idle (hs : (m.ch.get p).state = .idle) (hq : (m.ch.get p).queue = []) :
    ((m.ch.get p).rest = .hold →
      Channel.ruled (m.ch.get p) ((m.expiry f x).1.ch.get p) (stopStep (m.ch.get p).profile (m.ch.get p).stopRate)) ∧
    ((m.ch.get p).rest ≠ .hold → Channel.follows ((m.expiry f x).1.ch.get p) (m.ch.get p).rest) := by
  have h : (((m.ch.get p).calmed (x.get p)).work f).sameMotion ((m.expiry f x).1.ch.get p) := by
    refine Motors.expiry_calm (Channel.expiryChecks_rests hk hs hc hq) ?_
    rw [Channel.calmed_quieted _ hk]
    exact Channel.waits_of_running (.inr (.inr hs))
  rw [Channel.calmed_quieted _ hk] at h
  refine ⟨fun hr => ?_, fun hr => ?_⟩
  · have hcomp : ((m.ch.get p).quieted (x.get p)).computed f.live =
        true := by
      simp [Channel.quieted, Channel.counted, Channel.computed, hs, hr, hl]
    exact Channel.ruled_same h (Channel.rest_work f ((m.ch.get p).quieted (x.get p)) hk hcomp (by simp [Channel.quieted, Channel.counted, hs])
      (by simp [Channel.quieted, Channel.counted, hs]) (fun hheld => absurd (hs.symm.trans hheld) (by decide))).1
  · have hcomp : ((m.ch.get p).quieted (x.get p)).computed f.live =
        false := by
      simp [Channel.quieted, Channel.counted, Channel.computed, hs, hr]
    exact Channel.follows_same h (Channel.follow_work f ((m.ch.get p).quieted (x.get p)) _ hl hk hcomp (by simp [Channel.quieted, Channel.counted, hs])
      (by simp [Channel.quieted, Channel.counted, Channel.restInForce, hs]) hr).1

end

end

end Sys2Proof.Machine
end

section
/-! What one control expiry does at heads and at the barrier: a head that becomes current, one that waits, a group held,
released or broken (R3, R4, R50 to R53). -/

namespace Sys2Proof.Machine

/-! ### A head that becomes current -/

/-- A segment that this expiry has taken, from the record c (R3, R4, R31). -/
def Channel.Taken (live : Bool) (c d : Channel) (h : Segment) : Prop :=
  let g : Segment := if h.kind = .moveBy then { h with target := moveByTarget c.lastTarget c.q h.distance } else h
  d.current = some g ∧
    (d.state = .running ∨ (h.isMove = true ∧ d.state = .settling)) ∧
    (live = true → Channel.ran c d g) ∧
    (live = true → h.isMove = true → d.short = startsShort c.q c.spd g.target g.decel ∧ d.firstStep = false) ∧
    (live = true → h.kind = .duty ∨ h.kind = .speed → d.steps = 1)

/-- R3, R4: the record of a channel whose head has become current. -/
theorem Channel.becomeCurrent_spec (live : Bool) (r : MotorReading) {c : Channel} {h : Segment} {rest : List Segment}
    (hk : c.kind ≠ .none) (hh : h.kind ≠ .stop) :
    let b := (c.calmed r).becomeCurrent live h rest
    b.kind ≠ .none ∧ b.state = .running ∧
      b.current = some (if h.kind = .moveBy then { h with target := moveByTarget c.lastTarget c.q h.distance } else h) ∧
      b.firstStep = true ∧ b.q = c.q ∧ b.spd = c.spd := by
  rw [Channel.calmed_quieted r hk, Channel.becomeCurrent, if_neg hh]
  exact ⟨hk, rfl, rfl, rfl, rfl, rfl⟩

/-- R3, R51: a channel that has just taken a segment, after the stages. -/
theorem Channel.taken_spec (f : Feed) (r : MotorReading) {c : Channel} {h : Segment} {rest : List Segment}
    (hk : c.kind ≠ .none) (hh : h.kind ≠ .stop) {d : Channel} (ht : ((c.calmed r).becomeCurrent f.live h rest).trimmed d) :
    Channel.Taken f.live c ((d.work f).finishRelease) h ∧ ((d.work f).finishRelease).queue.Sublist rest ∧
      ((d.work f).finishRelease).queue = d.queue := by
  obtain ⟨hcur, hstate, hsteps, hsub, hqueue⟩ := Channel.taken_after f r c h rest hk hh d ht
  refine ⟨⟨hcur, hstate, fun hl => Channel.taken_ran f r c h rest hk hh hl d ht, fun hl hm => ?_, hsteps⟩, hsub, hqueue⟩
  obtain ⟨q, n, k, rfl, -⟩ := ht
  obtain ⟨hkind, hrun, hcurrent, hfirst, hq, hspd⟩ := Channel.becomeCurrent_spec f.live r (rest := rest) hk hh
  have hmove : (if h.kind = .moveBy then { h with target := moveByTarget c.lastTarget c.q h.distance } else h).isMove =
      true := by
    split
    · exact hm
    · exact hm
  have hmarks := Channel.work_marks f (c := { (c.calmed r).becomeCurrent f.live h rest with
    queue := q, allowance := n, stepMark := k }) hl hkind hrun hcurrent hmove
  have hsame := Channel.finishRelease_sameMotion (Channel.work f { (c.calmed r).becomeCurrent f.live h rest with
    queue := q, allowance := n, stepMark := k })
  generalize ((Channel.work f { (c.calmed r).becomeCurrent f.live h rest with
    queue := q, allowance := n, stepMark := k })) = w at hmarks hsame ⊢
  obtain ⟨-, -, -, hf, hs, -⟩ := Channel.sameMotion_frame hsame
  rw [hfirst, hq, hspd, if_pos rfl] at hmarks
  exact ⟨hs.trans hmarks.2, hf.trans hmarks.1⟩

/-! ### The checks of all ports -/

/-- The motor controller after the checks of every port (R25 items 1 to 3). -/
def Motors.checked (f : Feed) (x : Six MotorReading) (m : Motors) : Motors := (Motors.checkPorts f x MotorPort.all m).1

section
variable {f : Feed} {x : Six MotorReading} {m : Motors} {p : MotorPort}

theorem Motors.checked_get :
    (m.checked f x).ch.get p = ((m.ch.get p).expiryChecks m.pause f p (x.get p)).ch := by
  rw [Motors.checked, Motors.checkPorts_get MotorPort.all_nodup, if_pos (MotorPort.mem_all p)]

theorem Motors.checked_groups : (m.checked f x).groups = m.groups := (Motors.checkPorts_rest f x MotorPort.all m).2

theorem Motors.checked_quiet {c : Channel} (h : (m.ch.get p).expiryChecks m.pause f p (x.get p) = Checked.quiet c) :
    (m.checked f x).ch.get p = c := by
  rw [Motors.checked_get, h]
  rfl

/-- What the barrier can take from a channel that does not wait. -/
theorem Motors.expiry_trimmed (hw : ((m.checked f x).ch.get p).waits = false) :
    ∃ d, ((m.checked f x).ch.get p).trimmed d ∧ (m.expiry f x).1.ch.get p = (d.work f).finishRelease := by
  refine ⟨_, ?_, (Motors.expiry_get f x m p).1⟩
  have h1 := Motors.breakAll_trimmed ((m.checked f x).noteGroups.groupsOn (Motors.checkPorts f x MotorPort.all m).2.2)
    (m := (m.checked f x).noteGroups) hw
  exact Channel.trimmed_trans h1 (Motors.examine_trimmed f.live 9 _ (by rw [(Channel.trimmed_frame h1).2]; exact hw))

/-- An expiry whose checks empty no queue and that breaks and releases no group: every channel goes through the stages as
its checks left it, and the groups are those that are open after the checks. -/
theorem Motors.expiry_unbroken {gs : List Group} (hgs : (m.checked f x).noteGroups.groups = gs)
    (hflushed : ∀ q, ((m.ch.get q).expiryChecks m.pause f q (x.get q)).flushed = false)
    (hwait : ∀ q g, ((m.checked f x).ch.get q).waitGroup = some g → g ∈ gs)
    (hbreak : ∀ g ∈ gs, (m.checked f x).mismatched g = false)
    (hrelease : ∀ g ∈ gs, (m.checked f x).releases g = false) :
    (∀ p, (m.expiry f x).1.ch.get p = (((m.checked f x).ch.get p).work f).finishRelease) ∧
      (m.expiry f x).1.groups = gs := by
  have hnone : (Motors.checkPorts f x MotorPort.all m).2.2 = [] :=
    Motors.checkPorts_calm MotorPort.all_nodup fun q _ => hflushed q
  have hb : Motors.breakAll ((m.checked f x).noteGroups.groupsOn (Motors.checkPorts f x MotorPort.all m).2.2)
      (m.checked f x).noteGroups = ((m.checked f x).noteGroups, []) := by
    rw [hnone, Motors.groupsOn_nil]
    rfl
  have he : Motors.examine f.live 9 (m.checked f x).noteGroups.groups (m.checked f x).noteGroups =
      ((m.checked f x).noteGroups, []) := by
    refine Motors.examine_quiet f.live 8 (fun g hg => ?_) (fun g hg => ?_) (fun q g hq => ?_)
    · exact hbreak g (hgs ▸ hg)
    · exact hrelease g (hgs ▸ hg)
    · rw [hgs]
      exact hwait q g hq
  have hget : ∀ p, (m.expiry f x).1.ch.get p = (((m.checked f x).ch.get p).work f).finishRelease ∧
      (m.expiry f x).1.groups = (m.checked f x).noteGroups.groups := by
    intro p
    obtain ⟨hch, hopen⟩ := Motors.expiry_get f x m p
    rw [show (Motors.checkPorts f x MotorPort.all m).1 = m.checked f x from rfl, hb] at hch hopen
    simp only [he] at hch hopen
    exact ⟨hch, hopen⟩
  exact ⟨fun p => (hget p).1, (hget .a).2.trans hgs⟩

end

end Sys2Proof.Machine
end

section
/-! The sync barrier in one control expiry: heads taken alone, a head that waits, a group held, released or broken (R3,
R50 to R53). -/

namespace Sys2Proof.Machine

/-- A port without a motor, its channel OFF. -/
def Motors.AbsentAt (m : Motors) (p : MotorPort) : Prop := (m.ch.get p).kind = .none ∧ (m.ch.get p).state = .off

/-- A port with a motor whose current is not above twice the rated one. -/
def Motors.CalmAt (m : Motors) (x : Six MotorReading) (p : MotorPort) : Prop :=
  (m.ch.get p).kind ≠ .none ∧ absInt (x.get p).current ≤ 2 * ((m.ch.get p).kind.ratedCurrent : Int)

theorem Channel.waitGroup_of {c : Channel} (h : c.state ≠ .syncWait) : c.waitGroup = none := if_neg h

theorem Channel.waitGroup_queue {c : Channel} {h : Segment} {rest : List Segment} (hs : c.state = .syncWait)
    (hq : c.queue = h :: rest) : c.waitGroup = some h.group := by
  rw [Channel.waitGroup, if_pos hs, hq]
  rfl

/-- One channel that waits opens one group. -/
theorem Motors.newGroups_single {m : Motors} {p : MotorPort} {g : Group} (hg : m.groups = [])
    (hp : (m.ch.get p).waitGroup = some g) (ho : ∀ q, q ≠ p → (m.ch.get q).waitGroup = none) : m.newGroups = [g] := by
  have step : ∀ (ps : List MotorPort) (acc : List Group), acc = [] ∧ p ∈ ps ∨ acc = [g] →
      ps.foldl (fun acc p =>
        match (m.ch.get p).waitGroup with
        | none => acc
        | some g => if m.groups.contains g || acc.contains g then acc else acc ++ [g]) acc = [g] := by
    intro ps
    induction ps with
    | nil =>
      rintro acc (⟨-, h⟩ | h)
      · cases h
      · exact h
    | cons q ps ih =>
      intro acc h
      rw [List.foldl_cons]
      refine ih _ ?_
      by_cases hq : q = p
      · subst hq
        rcases h with ⟨h, -⟩ | h <;> simp [hp, hg, h]
      · rw [ho q hq]
        rcases h with ⟨h, hm⟩ | h
        · exact .inl ⟨h, (List.mem_cons.1 hm).resolve_left (Ne.symm hq)⟩
        · exact .inr h
  exact step MotorPort.all [] (.inl ⟨rfl, MotorPort.mem_all p⟩)

section
variable {f : Feed} {x : Six MotorReading} {m : Motors} {p : MotorPort}

theorem Motors.expiryChecks_absent (h : m.AbsentAt p) :
    (m.ch.get p).expiryChecks m.pause f p (x.get p) = Checked.quiet (m.ch.get p) := Channel.expiryChecks_none h.1

theorem Motors.checked_absent (h : m.AbsentAt p) : (m.checked f x).ch.get p = m.ch.get p :=
  Motors.checked_quiet (Motors.expiryChecks_absent h)

theorem Motors.absent_waits (h : m.AbsentAt p) :
    ((m.checked f x).ch.get p).waits = false ∧ ((m.checked f x).ch.get p).waitGroup = none := by
  rw [Motors.checked_absent h]
  exact ⟨by simp [Channel.waits, h.2], Channel.waitGroup_of (by rw [h.2]; decide)⟩

/-- Checks that empty no queue, where one port has a motor. -/
theorem Motors.flushed_of_alone {c : Channel} (ho : ∀ q, q ≠ p → m.AbsentAt q)
    (h : (m.ch.get p).expiryChecks m.pause f p (x.get p) = Checked.quiet c) (q : MotorPort) :
    ((m.ch.get q).expiryChecks m.pause f q (x.get q)).flushed = false := by
  by_cases hq : q = p
  · subst hq
    rw [h]
    rfl
  · rw [Motors.expiryChecks_absent (ho q hq)]
    rfl

/-! ### A head taken from the queue (R3, R4) -/

section
variable {h : Segment} {rest : List Segment} (hq : (m.ch.get p).queue = h :: rest) (hs : (m.ch.get p).state = .idle)
  (hcalm : m.CalmAt x p) (hpause : m.pause = .running)
include hq hs hcalm hpause

theorem Motors.checked_takes (ht : h.syncTag = 0) (hh : h.kind ≠ .stop) :
    (m.ch.get p).expiryChecks m.pause f p (x.get p) =
      Checked.quiet (((m.ch.get p).calmed (x.get p)).becomeCurrent f.live h rest) := by
  rw [hpause]
  exact Channel.expiryChecks_takes hcalm.1 hs hcalm.2 hq ht hh

/-- R3, R4: the head with no sync tag becomes current and takes its first step. -/
theorem Motors.expiry_takes (ht : h.syncTag = 0) (hh : h.kind ≠ .stop) :
    Channel.Taken f.live (m.ch.get p) ((m.expiry f x).1.ch.get p) h ∧
      ((m.expiry f x).1.ch.get p).queue.Sublist rest ∧
      (m.groups = [] → (∀ q, q ≠ p → m.AbsentAt q) → ((m.expiry f x).1.ch.get p).queue = rest) := by
  have hchecks := Motors.checked_takes (f := f) hq hs hcalm hpause ht hh
  have hx := Motors.checked_quiet hchecks
  obtain ⟨-, hrun, -⟩ := Channel.becomeCurrent_spec f.live (x.get p) (rest := rest) hcalm.1 hh
  have hwaits : ((m.checked f x).ch.get p).waits = false := by
    rw [hx]
    exact Channel.waits_of_running (.inl hrun)
  obtain ⟨d, htrim, hd⟩ := Motors.expiry_trimmed hwaits
  rw [hx] at htrim
  obtain ⟨htaken, hsub, hqueue⟩ := Channel.taken_spec f (x.get p) hcalm.1 hh htrim
  rw [hd]
  refine ⟨htaken, hsub, fun hg ho => ?_⟩
  have hwait : ∀ q, ((m.checked f x).ch.get q).waitGroup = none := by
    intro q
    by_cases hqp : q = p
    · subst hqp
      rw [hx]
      exact Channel.waitGroup_of (by rw [hrun]; decide)
    · exact (Motors.absent_waits (ho q hqp)).2
  have hopen : (m.checked f x).noteGroups = m.checked f x :=
    Motors.noteGroups_self fun q g hqg => by rw [hwait q] at hqg; cases hqg
  obtain ⟨hch, -⟩ := Motors.expiry_unbroken (gs := []) (by rw [hopen, Motors.checked_groups, hg])
    (Motors.flushed_of_alone ho hchecks) (fun q g hqg => by rw [hwait q] at hqg; cases hqg) nofun nofun
  have hend := hch p
  rw [hx] at hend
  obtain ⟨-, -, hfin⟩ := Channel.taken_spec f (x.get p) hcalm.1 hh (Channel.trimmed_refl
    (((m.ch.get p).calmed (x.get p)).becomeCurrent f.live h rest))
  rw [← hd, hend, hfin, Channel.becomeCurrent, if_neg hh]

/-! ### A head that waits (R50) -/

theorem Motors.checked_waits (ht : h.syncTag ≠ 0) :
    (m.ch.get p).expiryChecks m.pause f p (x.get p) = Checked.quiet ((m.ch.get p).calmed (x.get p)).enterWait := by
  rw [hpause]
  exact Channel.expiryChecks_waits hcalm.1 hs hcalm.2 hq ht

/-- R50: the head with a sync tag stays, the channel waits, its group is open. -/
theorem Motors.expiry_waits (ht : h.syncTag ≠ 0) (hg : m.groups = []) (ho : ∀ q, q ≠ p → m.AbsentAt q)
    (hother : ∃ q ∈ h.members, q ≠ p) :
    ((m.expiry f x).1.ch.get p).state = .syncWait ∧ ((m.expiry f x).1.ch.get p).rest = .hold ∧
      ((m.expiry f x).1.ch.get p).queue = h :: rest ∧ (m.expiry f x).1.groups = [h.group] ∧
      (f.live = true → Channel.ruled (m.ch.get p) ((m.expiry f x).1.ch.get p)
        (stopStep { q := (m.ch.get p).q, spd := (m.ch.get p).spd,
                    phase := if (m.ch.get p).spd = 0 then .holding else .stopping }
          ((m.ch.get p).decelBefore.getD 4000 : Nat))) := by
  have hchecks := Motors.checked_waits (f := f) hq hs hcalm hpause ht
  have hx := Motors.checked_quiet hchecks
  rw [Channel.calmed_quieted _ hcalm.1] at hx
  have hwait : ((m.checked f x).ch.get p).waitGroup = some h.group := by
    rw [hx]
    exact Channel.waitGroup_queue rfl hq
  have hnew : (m.checked f x).noteGroups.groups = [h.group] := by
    rw [Motors.noteGroups, Motors.newGroups_single (by rw [Motors.checked_groups, hg]) hwait
      (fun q hqp => (Motors.absent_waits (ho q hqp)).2), Motors.checked_groups, hg]
    rfl
  obtain ⟨hch, hgroups⟩ := Motors.expiry_unbroken hnew (Motors.flushed_of_alone ho hchecks)
    (fun q g hqg => by
      by_cases hqp : q = p
      · subst hqp
        rw [hwait] at hqg
        cases hqg
        exact List.mem_singleton_self _
      · rw [(Motors.absent_waits (ho q hqp)).2] at hqg
        cases hqg)
    (fun g hgm => by
      rw [List.mem_singleton.1 hgm, Motors.mismatched, List.any_eq_false]
      intro q _
      by_cases hqp : q = p
      · subst hqp
        rw [hx]
        simp [Channel.enterWait, Channel.beginStop, Channel.quieted, Channel.counted, hq, Segment.inGroup, Segment.group]
      · simp [(Motors.absent_waits (f := f) (x := x) (ho q hqp)).1])
    (fun g hgm => by
      obtain ⟨q, hqm, hqp⟩ := hother
      rw [List.mem_singleton.1 hgm, Motors.releases, List.all_eq_false]
      refine ⟨q, hqm, ?_⟩
      simp [Channel.readyFor, (Motors.absent_waits (f := f) (x := x) (ho q hqp)).2])
  have hend := hch p
  rw [hx] at hend
  have hsame := Channel.finishRelease_sameMotion ((((m.ch.get p).quieted (x.get p)).enterWait).work f)
  obtain ⟨-, -, -, hqueue', hstate', hrest', -⟩ := Channel.finishRelease_frame
    ((((m.ch.get p).quieted (x.get p)).enterWait).work f)
  obtain ⟨hqueue, -, hrest, -, hstate, -⟩ := Channel.work_frame f ((m.ch.get p).quieted (x.get p)).enterWait
  have hrun : ((m.ch.get p).quieted (x.get p)).enterWait.state ≠ .running := nofun
  rw [hend]
  refine ⟨hstate'.trans (hstate hrun), hrest'.trans hrest, hqueue'.trans (hqueue.trans hq), hgroups, fun hl => ?_⟩
  have hcomp : ((m.ch.get p).quieted (x.get p)).enterWait.computed f.live = true := by
    simp [Channel.computed, Channel.enterWait, hl]
  exact Channel.ruled_same hsame (Channel.rest_work f ((m.ch.get p).quieted (x.get p)).enterWait hcalm.1 hcomp hrun nofun
    nofun).1

end

/-! ### The one open group (R50, R51) -/

section
variable {g : Group} (hg : m.groups = [g]) (ho : ∀ p, p ∉ g.members → m.AbsentAt p) (hcalm : ∀ p ∈ g.members, m.CalmAt x p)
include hg ho hcalm

/-- The checks where every member rests with an empty queue or waits with a head of the group. -/
theorem Motors.checked_members
    (hm : ∀ p ∈ g.members, ((m.ch.get p).state = .idle ∧ (m.ch.get p).queue = []) ∨ ((m.ch.get p).waits = true ∧
      ∃ h rest, (m.ch.get p).queue = h :: rest ∧ h.group = g)) :
    (∀ q, ((m.ch.get q).expiryChecks m.pause f q (x.get q)).flushed = false) ∧
      (∀ p ∈ g.members, (m.checked f x).ch.get p = (m.ch.get p).quieted (x.get p)) ∧
      (∀ q h, ((m.checked f x).ch.get q).waitGroup = some h → h = g) ∧
      (m.checked f x).mismatched g = false ∧ (m.checked f x).noteGroups = m.checked f x := by
  have hchecks : ∀ p ∈ g.members, (m.ch.get p).expiryChecks m.pause f p (x.get p) =
      Checked.quiet ((m.ch.get p).quieted (x.get p)) := by
    intro p hp
    have hk := (hcalm p hp).1
    rw [← Channel.calmed_quieted _ hk]
    rcases hm p hp with ⟨hs, hq⟩ | ⟨hw, -⟩
    · exact Channel.expiryChecks_rests hk hs (hcalm p hp).2 hq
    · refine Channel.expiryChecks_still hk ?_ (hcalm p hp).2
      simp only [Channel.waits, Bool.or_eq_true, Bool.and_eq_true, beq_iff_eq] at hw
      exact hw.imp_right And.left
  have hget : ∀ p ∈ g.members, (m.checked f x).ch.get p = (m.ch.get p).quieted (x.get p) :=
    fun p hp => Motors.checked_quiet (hchecks p hp)
  have hwait : ∀ q h, ((m.checked f x).ch.get q).waitGroup = some h → h = g := by
    intro q h hqh
    by_cases hq : q ∈ g.members
    · rw [hget q hq] at hqh
      rcases hm q hq with ⟨hs, -⟩ | ⟨-, y, rest, hqueue, hgroup⟩
      · rw [Channel.waitGroup_of (c := (m.ch.get q).quieted (x.get q)) (show (m.ch.get q).state ≠ _ by rw [hs]; decide)] at hqh
        cases hqh
      · by_cases hs : (m.ch.get q).state = .syncWait
        · rw [Channel.waitGroup_queue (c := (m.ch.get q).quieted (x.get q)) hs hqueue] at hqh
          cases hqh
          exact hgroup
        · rw [Channel.waitGroup_of (c := (m.ch.get q).quieted (x.get q)) hs] at hqh
          cases hqh
    · rw [(Motors.absent_waits (ho q hq)).2] at hqh
      cases hqh
  refine ⟨fun q => ?_, hget, hwait, ?_, Motors.noteGroups_self fun q h hqh => ?_⟩
  · by_cases hq : q ∈ g.members
    · rw [hchecks q hq]
      rfl
    · rw [Motors.expiryChecks_absent (ho q hq)]
      rfl
  · rw [Motors.mismatched, List.any_eq_false]
    intro q hq
    rw [hget q hq]
    rcases hm q hq with ⟨hs, hqueue⟩ | ⟨-, y, rest, hqueue, rfl⟩
    · simp [Channel.quieted, Channel.counted, hqueue]
    · simp [Channel.quieted, Channel.counted, hqueue, Segment.inGroup, Segment.group]
  · rw [Motors.checked_groups, hg, hwait q h hqh]
    exact List.mem_singleton_self _

/-- R50: the group is held while a member does not wait with its head. -/
theorem Motors.expiry_holds (hout : ∃ p ∈ g.members, (m.ch.get p).state ≠ .syncWait)
    (hm : ∀ p ∈ g.members, ((m.ch.get p).state = .idle ∧ (m.ch.get p).queue = []) ∨ ((m.ch.get p).waits = true ∧
      ∃ h rest, (m.ch.get p).queue = h :: rest ∧ h.group = g)) :
    (m.expiry f x).1.groups = [g] ∧
      ∀ p ∈ g.members, ((m.expiry f x).1.ch.get p).state = (m.ch.get p).state ∧
        ((m.expiry f x).1.ch.get p).queue = (m.ch.get p).queue ∧
        (f.live = true → (m.ch.get p).state = .syncWait →
          Channel.ruled (m.ch.get p) ((m.expiry f x).1.ch.get p) (stopStep (m.ch.get p).profile (m.ch.get p).stopRate)) ∧
        (f.live = true → (m.ch.get p).state = .held → (m.ch.get p).phase = .stopping ∨ (m.ch.get p).phase = .holding →
          (m.ch.get p).heldAction = none ∨ (m.ch.get p).heldAction = some .hold →
          (∀ g, (m.ch.get p).current = some g → g.isMove = false) →
          Channel.ruled (m.ch.get p) ((m.expiry f x).1.ch.get p)
            (stopStep (m.ch.get p).profile (m.ch.get p).stopRate)) := by
  obtain ⟨hflushed, hget, hwait, hmis, hnote⟩ := Motors.checked_members (f := f) hg ho hcalm hm
  obtain ⟨hch, hgroups⟩ := Motors.expiry_unbroken (gs := [g]) (by rw [hnote, Motors.checked_groups, hg]) hflushed
    (fun q h hqh => by rw [hwait q h hqh]; exact List.mem_singleton_self _)
    (fun h hh => by rw [List.mem_singleton.1 hh]; exact hmis)
    (fun h hh => by
      obtain ⟨q, hq, hs⟩ := hout
      rw [List.mem_singleton.1 hh, Motors.releases, List.all_eq_false]
      refine ⟨q, hq, ?_⟩
      rw [hget q hq, Channel.readyFor, Channel.waitGroup_of (c := (m.ch.get q).quieted (x.get q)) hs]
      simp)
  refine ⟨hgroups, fun p hp => ?_⟩
  have hend := hch p
  rw [hget p hp] at hend
  have hk : ((m.ch.get p).quieted (x.get p)).kind ≠ .none := (hcalm p hp).1
  have hrun : ((m.ch.get p).quieted (x.get p)).state ≠ .running ∧ ((m.ch.get p).quieted (x.get p)).state ≠ .settling := by
    show (m.ch.get p).state ≠ .running ∧ (m.ch.get p).state ≠ .settling
    rcases hm p hp with ⟨hs, -⟩ | ⟨hw, -⟩
    · rw [hs]
      exact ⟨nofun, nofun⟩
    · simp only [Channel.waits, Bool.or_eq_true, Bool.and_eq_true, beq_iff_eq] at hw
      rcases hw with hs | ⟨hs, -⟩ <;> rw [hs] <;> exact ⟨nofun, nofun⟩
  have hsame := Channel.finishRelease_sameMotion (((m.ch.get p).quieted (x.get p)).work f)
  obtain ⟨-, -, -, hqueue', hstate', -⟩ := Channel.finishRelease_frame (((m.ch.get p).quieted (x.get p)).work f)
  obtain ⟨hqueue, -, -, -, hstate, -⟩ := Channel.work_frame f ((m.ch.get p).quieted (x.get p))
  rw [hend]
  refine ⟨hstate'.trans (hstate hrun.1), hqueue'.trans hqueue, fun hl hs => ?_, fun hl hs hph ha hno => ?_⟩
  · have hcomp : ((m.ch.get p).quieted (x.get p)).computed f.live = true := by
      simp [Channel.quieted, Channel.counted, Channel.computed, hs, hl]
    exact Channel.ruled_same hsame (Channel.rest_work f ((m.ch.get p).quieted (x.get p)) hk hcomp hrun.1 hrun.2
      (fun hheld => absurd (hs.symm.trans hheld) (by decide))).1
  · have hcomp := Channel.computed_hold (c := (m.ch.get p).quieted (x.get p)) hl hs hph ha
    exact Channel.ruled_same hsame (Channel.rest_work f ((m.ch.get p).quieted (x.get p)) hk hcomp hrun.1 hrun.2
      (fun _ => hno)).1

/-- R51: when every member waits with its head all the heads become current and take their first step. -/
theorem Motors.expiry_releases (hn : g.members.Nodup)
    (hm : ∀ p ∈ g.members, (m.ch.get p).state = .syncWait ∧
      ∃ h rest, (m.ch.get p).queue = h :: rest ∧ h.group = g ∧ h.kind ≠ .stop) :
    (m.expiry f x).1.groups = [] ∧
      ∀ p ∈ g.members, ∀ h rest, (m.ch.get p).queue = h :: rest →
        Channel.Taken f.live (m.ch.get p) ((m.expiry f x).1.ch.get p) h ∧ ((m.expiry f x).1.ch.get p).queue = rest := by
  obtain ⟨hflushed, hget, -, -, hnote⟩ := Motors.checked_members (f := f) hg ho hcalm (fun p hp => by
    obtain ⟨hs, h, rest, hq, hgroup, -⟩ := hm p hp
    exact .inr ⟨by simp [Channel.waits, hs], h, rest, hq, hgroup⟩)
  have hnone : (Motors.checkPorts f x MotorPort.all m).2.2 = [] :=
    Motors.checkPorts_calm MotorPort.all_nodup fun q _ => hflushed q
  have hb : Motors.breakAll ((m.checked f x).noteGroups.groupsOn (Motors.checkPorts f x MotorPort.all m).2.2)
      (m.checked f x).noteGroups = (m.checked f x, []) := by
    rw [hnone, Motors.groupsOn_nil, hnote]
    rfl
  have hgr : (m.checked f x).groups = [g] := Motors.checked_groups.trans hg
  obtain ⟨hgroups, -, -, hcur⟩ := Motors.examine_release f.live 8 hgr hn
    (fun p hp => by rw [hget p hp]; exact hm p hp)
    (fun p hp => by rw [Motors.checked_absent (ho p hp), (ho p hp).2]; decide)
  have hend : ∀ p, (m.expiry f x).1.ch.get p =
      (((Motors.examine f.live 9 [g] (m.checked f x)).1.ch.get p).work f).finishRelease ∧
      (m.expiry f x).1.groups = (Motors.examine f.live 9 [g] (m.checked f x)).1.groups := by
    intro p
    obtain ⟨hch, hopen⟩ := Motors.expiry_get f x m p
    rw [show (Motors.checkPorts f x MotorPort.all m).1 = m.checked f x from rfl, hb] at hch hopen
    simp only [hgr] at hch hopen
    exact ⟨hch, hopen⟩
  refine ⟨(hend .a).2.trans hgroups, fun p hp h rest hq => ?_⟩
  have hh : h.kind ≠ .stop := by
    obtain ⟨-, y, ys, hy, -, hkind⟩ := hm p hp
    rw [hq] at hy
    cases hy
    exact hkind
  have hcurrent := hcur p hp h rest (by rw [hget p hp]; exact hq)
  rw [hget p hp, ← Channel.calmed_quieted _ (hcalm p hp).1] at hcurrent
  obtain ⟨htaken, -, hqueue⟩ := Channel.taken_spec f (x.get p) (hcalm p hp).1 hh (Channel.trimmed_refl
    (((m.ch.get p).calmed (x.get p)).becomeCurrent f.live h rest))
  rw [(hend p).1, hcurrent]
  refine ⟨htaken, hqueue.trans ?_⟩
  rw [Channel.becomeCurrent, if_neg hh]

end

end

end Sys2Proof.Machine
end

section
/-! Two broken groups in one control expiry (R52, R53), and the control expiry as a whole (R25). -/

namespace Sys2Proof.Machine

/-! ### Broken groups (R52, R53) -/

/-- The stages keep the record of a pause. -/
theorem Channel.work_pause (f : Feed) (c : Channel) :
    (c.work f).resume = c.resume ∧ (c.work f).heldAction = c.heldAction := by
  have hm : ∀ g, (Channel.moveStep g c).resume = c.resume ∧ (Channel.moveStep g c).heldAction = c.heldAction := by
    intro g
    simp only [Channel.moveStep]
    split <;> exact ⟨rfl, rfl⟩
  have hr : c.restStep.resume = c.resume ∧ c.restStep.heldAction = c.heldAction := by
    simp only [Channel.restStep]
    split <;> (try split) <;> exact ⟨rfl, rfl⟩
  unfold Channel.work
  split
  · exact ⟨rfl, rfl⟩
  · dsimp only
    split
    · simp only [Channel.outputDriven, Channel.commanded]
      split
      · split
        · exact ⟨rfl, rfl⟩
        · exact ⟨rfl, rfl⟩
        · exact hm _
        · exact hm _
        · exact hr
      · exact ⟨rfl, rfl⟩
      · exact hr
    · exact ⟨rfl, rfl⟩

/-- A waiting channel whose head has been broken out of its queue. -/
def Channel.Broken (c : Channel) (ys : List Segment) (b : Channel) : Prop :=
  ∃ n k, b = { c with queue := ys, allowance := n, stepMark := k, state := .idle, rest := .hold, resume := none,
                      heldAction := none }

/-- R53: a channel whose group has been broken, after the stages. -/
theorem Channel.broken_spec (f : Feed) {c b : Channel} {ys : List Segment} (hb : c.Broken ys b) (hk : c.kind ≠ .none) :
    let d := (b.work f).finishRelease
    d.state = .idle ∧ d.rest = .hold ∧ d.queue = ys ∧ d.resume = none ∧ d.heldAction = none ∧
      (f.live = true → Channel.ruled c d (stopStep c.profile c.stopRate)) := by
  obtain ⟨n, k, rfl⟩ := hb
  generalize hb : ({ c with queue := ys, allowance := n, stepMark := k, state := .idle, rest := .hold, resume := none,
                            heldAction := none } : Channel) = b
  have hstate : b.state = .idle := by rw [← hb]
  have hrest : b.rest = .hold := by rw [← hb]
  have hqueue : b.queue = ys := by rw [← hb]
  have hpause : b.resume = none ∧ b.heldAction = none := by rw [← hb]; exact ⟨rfl, rfl⟩
  have hkind : b.kind ≠ .none := by rw [← hb]; exact hk
  have hruled : Channel.ruled b = Channel.ruled c := by rw [← hb]; rfl
  have hstop : stopStep { q := b.q, spd := b.spd, phase := b.phase } b.stopRate = stopStep c.profile c.stopRate := by
    rw [← hb]; rfl
  obtain ⟨w1, -, w3, -, w5, -⟩ := Channel.work_frame f b
  obtain ⟨w6, w7⟩ := Channel.work_pause f b
  have hsame := Channel.finishRelease_sameMotion (b.work f)
  obtain ⟨-, -, -, h1, h2, h3, -⟩ := Channel.finishRelease_frame (b.work f)
  have hrel : (b.work f).finishRelease.resume = (b.work f).resume ∧
      (b.work f).finishRelease.heldAction = (b.work f).heldAction := by
    obtain ⟨_, _, _, _, _, h⟩ := hsame
    rw [h]
    exact ⟨rfl, rfl⟩
  have hrun : b.state ≠ .running := by rw [hstate]; exact nofun
  refine ⟨h2.trans ((w5 hrun).trans hstate), h3.trans (w3.trans hrest), h1.trans (w1.trans hqueue),
    hrel.1.trans (w6.trans hpause.1), hrel.2.trans (w7.trans hpause.2), fun hl => ?_⟩
  have hcomp : b.computed f.live = true := by simp [Channel.computed, hstate, hrest, hl]
  have hr := (Channel.rest_work f b hkind hcomp hrun (by rw [hstate]; exact nofun)
    (fun h => by rw [hstate] at h; cases h)).1
  rw [hruled, hstop] at hr
  exact Channel.ruled_same hsame hr

/-- The notices of an expiry outside a beginning pause: those of the checks, the breaks and the examination. -/
theorem Motors.expiry_sent {f : Feed} {x : Six MotorReading} {m : Motors} (h : m.pause ≠ .pausing) :
    let X := Motors.checkPorts f x MotorPort.all m
    let b := Motors.breakAll (X.1.noteGroups.groupsOn X.2.2) X.1.noteGroups
    (m.expiry f x).2 = X.2.1 ++ (b.2 ++ (Motors.examine f.live 9 b.1.groups b.1).2) := by
  intro X b
  have hpause : (Motors.examine f.live 9 b.1.groups b.1).1.pause = m.pause :=
    (Motors.examine_pause f.live 9 b.1.groups b.1).trans ((Motors.breakAll_rest _ X.1.noteGroups).1.trans
      (Motors.checkPorts_rest f x MotorPort.all m).1)
  have hquiet : ({ (Motors.examine f.live 9 b.1.groups b.1).1 with
      ch := (Motors.examine f.live 9 b.1.groups b.1).1.ch.map (Channel.work f) } : Motors).finishReleases.pauseTest.2 = [] :=
    congrArg Prod.snd (Motors.pauseTest_quiet (by rw [← hpause] at h; exact h))
  have hdef : (m.expiry f x).2 = X.2.1 ++ (b.2 ++ ((Motors.examine f.live 9 b.1.groups b.1).2 ++ _)) := rfl
  rw [hdef, hquiet, List.append_nil]

section
variable {f : Feed} {x : Six MotorReading} {m : Motors} {p q : MotorPort} {y z : Segment} {ys zs : List Segment}
  (hpq : p ≠ q) (ho : ∀ o, o ≠ p → o ≠ q → m.AbsentAt o) (cp : m.CalmAt x p) (cq : m.CalmAt x q)
  (hy : (m.ch.get p).queue = y :: ys) (hz : (m.ch.get q).queue = z :: zs)
  (hm : y.members = [p, q] ∨ y.members = [q, p]) (hmm : z.members = y.members) (htag : y.syncTag ≠ z.syncTag)
  (hz0 : z.syncTag ≠ 0) (hrest : ∀ h ∈ ys ++ zs, h.group ≠ y.group ∧ h.group ≠ z.group)
  (hg : ∀ g ∈ m.groups, g = y.group ∨ g = z.group) (hyg : y.group ∈ m.groups) (hpw : (m.ch.get p).waits = true)
  (hqw : ((m.ch.get q).state = .idle ∧ m.pause = .running) ∨ (m.ch.get q).state = .syncWait ∨
    ((m.ch.get q).waits = true ∧ z.group ∈ m.groups))
include hpq ho cp cq hy hz hm hmm htag hz0 hrest hg hyg hpw hqw

/-- R52, R53: both heads end SYNC_BROKEN, the channels rest in IDLE with HOLD, no group is open. -/
theorem Motors.expiry_breaks :
    (m.expiry f x).1.groups = [] ∧
      (let d := (m.expiry f x).1.ch.get p
       d.state = .idle ∧ d.rest = .hold ∧ d.queue = ys ∧ d.resume = none ∧ d.heldAction = none ∧
         (f.live = true → Channel.ruled (m.ch.get p) d (stopStep (m.ch.get p).profile (m.ch.get p).stopRate))) ∧
      (let d := (m.expiry f x).1.ch.get q
       d.state = .idle ∧ d.rest = .hold ∧ d.queue = zs ∧ d.resume = none ∧ d.heldAction = none ∧
         (f.live = true → (m.ch.get q).waits = true →
           Channel.ruled (m.ch.get q) d (stopStep (m.ch.get q).profile (m.ch.get q).stopRate)) ∧
         (f.live = true → (m.ch.get q).state = .idle → Channel.ruled (m.ch.get q) d
           (stopStep { q := (m.ch.get q).q, spd := (m.ch.get q).spd,
                       phase := if (m.ch.get q).spd = 0 then .holding else .stopping }
             ((m.ch.get q).decelBefore.getD 4000 : Nat)))) ∧
      (m.pause ≠ .pausing → (m.expiry f x).2 = MotorPort.all.flatMap (fun o =>
        if o = p then segmentEnd p y .syncBroken ((m.expiry f x).1.ch.get p).enc none ys.length
        else if o = q then segmentEnd q z .syncBroken ((m.expiry f x).1.ch.get q).enc none zs.length
        else [])) := by
  obtain ⟨hgroups, hbp, hbq, hx, hb, he⟩ := Motors.expiry_mismatched f x m p q y z ys zs hpq ho cp cq hy hz hm hmm htag hz0
    hrest hg hyg hpw hqw
  obtain ⟨hdp, hopen⟩ := Motors.expiry_get f x m p
  obtain ⟨hdq, -⟩ := Motors.expiry_get f x m q
  have hkp : ((m.ch.get p).quieted (x.get p)).kind ≠ .none := cp.1
  rw [Channel.calmed_quieted _ cp.1] at hbp
  obtain ⟨p1, p2, p3, p4, p5, p6⟩ := Channel.broken_spec f hbp hkp
  rw [← hdp] at p1 p2 p3 p4 p5 p6
  refine ⟨hopen.trans hgroups, ⟨p1, p2, p3, p4, p5, p6⟩, ?_, fun hpause => ?_⟩
  · by_cases hi : (m.ch.get q).state = .idle
    · rw [if_pos hi, Channel.calmed_quieted _ cq.1] at hbq
      obtain ⟨q1, q2, q3, q4, q5, q6⟩ := Channel.broken_spec (c := ((m.ch.get q).quieted (x.get q)).enterWait) f hbq cq.1
      rw [← hdq] at q1 q2 q3 q4 q5 q6
      refine ⟨q1, q2, q3, q4, q5, fun _ hw => ?_, fun hl _ => q6 hl⟩
      rw [Channel.waits_of_running (.inr (.inr hi))] at hw
      cases hw
    · rw [if_neg hi, Channel.calmed_quieted _ cq.1] at hbq
      obtain ⟨q1, q2, q3, q4, q5, q6⟩ := Channel.broken_spec (c := (m.ch.get q).quieted (x.get q)) f hbq cq.1
      rw [← hdq] at q1 q2 q3 q4 q5 q6
      exact ⟨q1, q2, q3, q4, q5, fun hl _ => q6 hl, fun _ h => absurd h hi⟩
  · rw [Motors.expiry_sent hpause, hx, hb, he, List.nil_append, List.nil_append]
    refine List.flatMap_congr fun o _ => ?_
    obtain ⟨-, hmp⟩ := Motors.expiry_motor f x m p
    obtain ⟨hencp, -⟩ := hmp cp.1
    obtain ⟨-, hmq⟩ := Motors.expiry_motor f x m q
    obtain ⟨hencq, -⟩ := hmq cq.1
    have hP : ((m.ch.get p).calmed (x.get p)).enc = ((m.expiry f x).1.ch.get p).enc := by
      rw [hencp, Channel.calmed_quieted _ cp.1]
      rfl
    have hQ : (if (m.ch.get q).state = .idle then ((m.ch.get q).calmed (x.get q)).enterWait
        else (m.ch.get q).calmed (x.get q)).enc = ((m.expiry f x).1.ch.get q).enc := by
      rw [hencq, Channel.calmed_quieted _ cq.1]
      split <;> rfl
    rw [hP, hQ]

end

/-! ### The whole expiry (R25) -/

theorem clamp_eq_max_min {lo hi : Int} (h : lo ≤ hi) (x : Int) : clamp lo hi x = max lo (min hi x) := by
  unfold clamp
  split
  · omega
  · split <;> omega

theorem absInt_toNat (x : Int) : (absInt x).toNat = x.natAbs := by
  unfold absInt
  split <;> omega

/-- What a control expiry leaves besides the motors, the router and the current sum. -/
theorem State.controlExpiry_frame (s : State) (x : Six MotorReading) :
    (s.controlExpiry x).sensors = s.sensors ∧ (s.controlExpiry x).watch = s.watch ∧
      (s.controlExpiry x).store = s.store ∧ (s.controlExpiry x).mixer = s.mixer := by
  simp only [State.controlExpiry, State.withMotors_sensors, State.withMotors_watch, State.withMotors_store,
    State.withMotors_mixer, and_self]

theorem State.controlExpiry_motors (s : State) (x : Six MotorReading) :
    (s.controlExpiry x).motors = (s.motors.expiry s.feed x).1 ∧
      (s.controlExpiry x).router = s.router.placeAll (s.motors.expiry s.feed x).2 := by
  simp only [State.controlExpiry, State.withMotors_motors, State.withMotors_router, and_self]

theorem State.controlExpiry_supply (s : State) (x : Six MotorReading) :
    (s.controlExpiry x).supply =
      { s.supply with currentSum := s.supply.currentSum + (s.motors.expiry s.feed x).1.totalCurrent } := by
  simp only [State.controlExpiry, State.withMotors_supply, State.withMotors_motors]

/-- Settles O30. -/
theorem controlExpiryReadsAndDrives : Obligations.ControlExpiryReadsAndDrives := by
  unfold Obligations.ControlExpiryReadsAndDrives
  intro x s hs
  obtain ⟨hsensors, hwatch, hstore, hmixer⟩ := s.controlExpiry_frame x
  obtain ⟨hmotors, hrouter⟩ := s.controlExpiry_motors x
  have hsupply := s.controlExpiry_supply x
  refine ⟨s.controlExpiry x, next_whenAwake hs rfl, ?_⟩
  rw [hsensors, hwatch, hstore, hmixer, hmotors, hrouter, hsupply]
  refine ⟨fun p => ?motor, ?channels, ?pause, ?supply, rfl, rfl, rfl, rfl,
    fun k => ⟨Router.placeAll_replies _ _ _, Router.placeAll_forward _ _ _⟩⟩
  case motor =>
    have h := Motors.expiry_motor s.feed x s.motors p
    simp only [compensate, clamp_eq_max_min (show (-1000 : Int) ≤ 1000 by decide)] at h
    exact h
  case supply =>
    simp only [Motors.totalCurrent, absInt_toNat]
  case pause =>
    obtain ⟨hpause, ns, hends, hsent⟩ := Motors.expiry_pause s.feed x s.motors
    simp only [Channel.atRest_eq] at hpause hsent
    exact ⟨hpause, ns, hends, congrArg s.router.placeAll hsent⟩
  case channels =>
    intro calm absent ruled ran rests enters follows taken
    refine ⟨fun p hl hc hst => ⟨fun g hrun hcur hd hstop => ?_, fun g hset hcur hin hlim => ?_,
      fun hheld hr => ⟨fun hph ha => ?_, fun a ha hh => ?_⟩⟩, fun p hl hc hi hq => ?_,
      fun p h rest hq hi hc hpause => ⟨fun ht hh => ?_, fun ht hg ho hother => ?_⟩,
      fun g hg ho hc => ⟨fun hout hm => ?_, fun hn hm => ?_⟩,
      fun p q y z ys zs hpq ho cp cq hy hz hm hmm htag hz0 hrest hg hyg hpw hqw => ?_⟩
    · exact Motors.expiry_runs hc.1 hc.2 hl hst hrun hcur hd hstop
    · exact Motors.expiry_settles hc.1 hc.2 hl hst hset hcur hin hlim
    · exact Motors.expiry_held hc.1 hc.2 hl hheld hr hph ha
    · exact Motors.expiry_heldFollows hc.1 hc.2 hl hheld hr ha hh
    · exact Motors.expiry_idle hc.1 hc.2 hl hi hq
    · exact Motors.expiry_takes hq hi hc hpause ht hh
    · exact Motors.expiry_waits hq hi hc hpause ht hg ho hother
    · exact Motors.expiry_holds hg ho hc hout hm
    · exact Motors.expiry_releases hg ho hc hn hm
    · obtain ⟨hgroups, hp, hq, hsent⟩ := Motors.expiry_breaks (f := s.feed) hpq ho cp cq hy hz hm hmm htag hz0 hrest hg hyg
        hpw hqw
      exact ⟨hgroups, hp, hq, fun hpause => congrArg s.router.placeAll (hsent hpause)⟩

end Sys2Proof.Machine
end
